-- ==== Sys2Proof/Word.lean ====
section
/-! DEFINITION. The word types of the machine: bytes, words of 32 and 64 bits, the 96 bits of an
instruction (03 R44), the 11-bit operand field (03 R47) and a tile handle (02 R23). -/
namespace Sys2Proof

abbrev Byte := BitVec 8
abbrev Word := BitVec 32
abbrev DWord := BitVec 64
abbrev InstrBits := BitVec 96
/-- An operand field D, A, B or C (03 R47, 02 R26). -/
abbrev OpField := BitVec 11
/-- A tile handle (02 R23, R35). -/
abbrev TileHandle := BitVec 128

end Sys2Proof
end

