-- ==== Sys2Proof/Machine/Bits.lean ====
section
/-! DEFINITION. Bits and bytes: field access, sign and zero extension, counts, little-endian order, CRC-32C, and the
saturating and wrapping narrowings of the integer instructions. -/
namespace Sys2Proof.Machine

/-! ## Fields -/

/-- Bits [lo+n-1:lo] of a natural number. -/
def nbits (x lo n : Nat) : Nat := x / 2 ^ lo % 2 ^ n
/-- Bits [lo+n-1:lo] of a register as a natural number. -/
def field {w : Nat} (x : BitVec w) (lo n : Nat) : Nat := nbits x.toNat lo n
def bitN (x i : Nat) : Bool := x / 2 ^ i % 2 == 1
def b2n (b : Bool) : Nat := if b then 1 else 0
/-- `x` with bits [lo+n-1:lo] replaced by `v`. -/
def setField (x lo n v : Nat) : Nat :=
  x % 2 ^ lo + v % 2 ^ n * 2 ^ lo + x / 2 ^ (lo + n) * 2 ^ (lo + n)
/-- Round up to a multiple of `a`. -/
def alignUp (x a : Nat) : Nat := (x + a - 1) / a * a
def ceilDiv (x a : Nat) : Nat := (x + a - 1) / a

/-! ## Integers: read by U, clamp and wrap (08 R130, 05 R81) -/

/-- `int(x)`: signed, or unsigned when U = 1 (08 R130). -/
def intOf {w : Nat} (u : Bool) (x : BitVec w) : Int := if u then Int.ofNat x.toNat else x.toInt

/-- The least value of the range U selects. -/
def loLim (u : Bool) (w : Nat) : Int := if u then 0 else -(2 ^ (w - 1) : Nat)
/-- The greatest value of the range U selects. -/
def hiLim (u : Bool) (w : Nat) : Int := if u then (2 ^ w : Nat) - 1 else (2 ^ (w - 1) : Nat) - 1

/-- `clamp(x, n)` (08 R130). -/
def clampI (u : Bool) (w : Nat) (x : Int) : BitVec w :=
  BitVec.ofInt w (if x < loLim u w then loLim u w else if hiLim u w < x then hiLim u w else x)

/-- The narrowed exact result: clamped with SAT, else reduced modulo 2^w (08 R130). -/
def narrowI (sat u : Bool) (w : Nat) (x : Int) : BitVec w :=
  if sat then clampI u w x else BitVec.ofInt w x

/-! ## Counts (08 R136, R143) -/

def popcN {w : Nat} (x : BitVec w) : Nat → Nat
  | 0 => 0
  | n + 1 => b2n (x.getLsbD n) + popcN x n

/-- Zeros above the highest set bit among the `n` low bits. -/
def clzN {w : Nat} (x : BitVec w) : Nat → Nat
  | 0 => 0
  | n + 1 => if x.getLsbD n then 0 else 1 + clzN x n

/-- Zeros from bit `i` up, over `n` bits. -/
def ctzN {w : Nat} (x : BitVec w) (i : Nat) : Nat → Nat
  | 0 => 0
  | n + 1 => if x.getLsbD i then 0 else 1 + ctzN x (i + 1) n

/-- Byte `i` of a register. -/
def byteOf {w : Nat} (x : BitVec w) (i : Nat) : Byte := (x >>> (8 * i)).setWidth 8

/-- The bits of `x` in the reverse order, over `n` bits. -/
def brevN {w : Nat} (x : BitVec w) : Nat → Nat
  | 0 => 0
  | n + 1 => (b2n (x.getLsbD n)) * 2 ^ (w - 1 - n) + brevN x n

/-! ## Bytes, little-endian -/

/-- The number whose little-endian bytes these are. -/
def leNat : List Byte → Nat
  | [] => 0
  | b :: r => b.toNat + 256 * leNat r

/-- The `n` little-endian bytes of a number. -/
def leBytes : Nat → Nat → List Byte
  | 0, _ => []
  | n + 1, x => BitVec.ofNat 8 x :: leBytes n (x / 256)

def leBits (w : Nat) (bs : List Byte) : BitVec w := BitVec.ofNat w (leNat bs)
def bitsLe {w : Nat} (n : Nat) (x : BitVec w) : List Byte := leBytes n x.toNat

/-- The byte-reversed value of `n` bytes. -/
def bswapN {w : Nat} (n : Nat) (x : BitVec w) : BitVec w := leBits w (bitsLe n x).reverse

/-- The number at a byte offset of a block, `n` bytes long; bytes beyond the block read as 0. -/
def leAt (bs : List Byte) (off n : Nat) : Nat := leNat ((bs.drop off).take n)

/-- A block of `n` zero bytes. -/
def zeros (n : Nat) : List Byte := List.replicate n 0

/-- Overwrite bytes of a block. -/
def putAt (bs : List Byte) (off : Nat) (xs : List Byte) : List Byte :=
  bs.take off ++ xs ++ bs.drop (off + xs.length)

/-- Cut a list into pieces of `n` elements; `fuel` pieces at most. -/
def chunksN {α : Type} (n : Nat) : Nat → List α → List (List α)
  | 0, _ => []
  | k + 1, xs => if xs.isEmpty then [] else xs.take n :: chunksN n k (xs.drop n)

/-! ## CRC-32C: polynomial 0x1EDC6F41 reflected, start and final xor of all ones (02 R42, 14 R229) -/

def crcBit (c : Word) : Word := if c.getLsbD 0 then (c >>> 1) ^^^ 0x82F63B78#32 else c >>> 1
def crcByte (c : Word) (b : Byte) : Word :=
  crcBit (crcBit (crcBit (crcBit (crcBit (crcBit (crcBit (crcBit (c ^^^ b.setWidth 32))))))))
def crc32c (bs : List Byte) : Word := ~~~ (bs.foldl crcByte 0xFFFFFFFF#32)

/-! ## Numbers written as bits -/

/-- Place of the highest set bit plus 1; 0 for 0. -/
def bitLen (x : Nat) : Nat := if x = 0 then 0 else x.log2 + 1
/-- Least e with 2^e ≥ x. -/
def clog2 (x : Nat) : Nat := if x ≤ 1 then 0 else (x - 1).log2 + 1

/-! ## Lists -/

/-- The numbers lo, …, lo+n-1. -/
def span (lo : Nat) : Nat → List Nat
  | 0 => []
  | n + 1 => lo :: span (lo + 1) n

/-- The element of a list put in order by a rising key, stable; insertion keeps it structural. -/
def insBy {α : Type} (le : α → α → Bool) (x : α) : List α → List α
  | [] => [x]
  | y :: r => if le x y then x :: y :: r else y :: insBy le x r

def sortBy {α : Type} (le : α → α → Bool) : List α → List α
  | [] => []
  | x :: r => insBy le x (sortBy le r)

/-- Remove the `i`-th element: the element and the rest. -/
def takeNth {α : Type} : Nat → List α → Option (α × List α)
  | _, [] => none
  | 0, x :: r => some (x, r)
  | i + 1, x :: r => (takeNth i r).map (fun p => (p.1, x :: p.2))

/-- A list in an order that numbers choose, one at each place: `pick n` is a free number. -/
def reorder {α : Type} (pick : Nat → Nat) : Nat → List α → List α
  | 0, xs => xs
  | n + 1, xs =>
    match takeNth (pick n % (xs.length)) xs with
    | none => xs
    | some (x, r) => x :: reorder pick n r

/-- Distinct elements, first occurrences kept. -/
def nubNat : List Nat → List Nat
  | [] => []
  | x :: r => x :: (nubNat r).filter (fun y => y != x)

def sumNat (xs : List Nat) : Nat := xs.foldl (· + ·) 0
def maxNat (xs : List Nat) : Nat := xs.foldl max 0

end Sys2Proof.Machine
end

