-- ==== Sys2Proof/Machine/Float.lean ====
section
/-! DEFINITION. Number formats and rounding (05 R77-R92): exact values, decoding, rounding into a format with its
flags, and conversions. Exact arithmetic is on integers; one rounding at the end. -/
namespace Sys2Proof.Machine

/-- A value: a NaN (signalling or quiet), an infinity, or exactly (-1)^neg * m * 2^e. -/
inductive FVal where
  | nan (sig : Bool)
  | inf (neg : Bool)
  | fin (neg : Bool) (m : Nat) (e : Int)
  deriving DecidableEq, Repr

/-- Which NaN and infinity codes a format has (05 R77, R78). -/
inductive FKind where
  /-- Infinity and NaNs, quiet when the fraction's top bit is 1. -/
  | ieee
  /-- Infinity and NaNs, all of them quiet (E5M2). -/
  | quiet
  /-- One NaN magnitude, no infinity (E4M3). -/
  | e4m3
  /-- Neither (E2M1). -/
  | none
  deriving DecidableEq, Repr

/-- A floating-point format: exponent bits, fraction bits, bias (05 R77). -/
structure Fmt where
  ebits : Nat
  frac : Nat
  bias : Nat
  kind : FKind
  deriving DecidableEq, Repr

def fmtF64 : Fmt := ⟨11, 52, 1023, .ieee⟩
def fmtF32 : Fmt := ⟨8, 23, 127, .ieee⟩
def fmtF16 : Fmt := ⟨5, 10, 15, .ieee⟩
def fmtBF16 : Fmt := ⟨8, 7, 127, .ieee⟩
def fmtE5M2 : Fmt := ⟨5, 2, 15, .quiet⟩
def fmtE4M3 : Fmt := ⟨4, 3, 7, .e4m3⟩
def fmtE2M1 : Fmt := ⟨2, 1, 1, .none⟩

def Fmt.signBit (F : Fmt) : Nat := F.ebits + F.frac
def Fmt.width (F : Fmt) : Nat := F.ebits + F.frac + 1
def Fmt.emax (F : Fmt) : Nat := 2 ^ F.ebits - 1
/-- Exponent of the smallest normal. -/
def Fmt.emin (F : Fmt) : Int := 1 - (F.bias : Int)
def Fmt.hasInf (F : Fmt) : Bool := F.kind == .ieee || F.kind == .quiet

/-- The largest finite magnitude as significand and exponent (05 R79). -/
def Fmt.maxFin (F : Fmt) : Nat × Int :=
  match F.kind with
  | .ieee | .quiet => (2 ^ (F.frac + 1) - 1, (F.emax : Int) - 1 - F.bias - F.frac)
  | .e4m3 => (2 ^ (F.frac + 1) - 2, (F.emax : Int) - F.bias - F.frac)
  | .none => (2 ^ (F.frac + 1) - 1, (F.emax : Int) - F.bias - F.frac)

/-- The code of the largest finite magnitude. -/
def Fmt.maxCode (F : Fmt) : Nat :=
  match F.kind with
  | .ieee | .quiet => F.emax * 2 ^ F.frac - 1
  | .e4m3 => F.emax * 2 ^ F.frac + 2 ^ F.frac - 2
  | .none => F.emax * 2 ^ F.frac + 2 ^ F.frac - 1

/-- Default NaN (05 R79); E2M1 has none, and 0b0000 stands for it (R90). -/
def Fmt.nanCode (F : Fmt) : Nat :=
  match F.kind with
  | .ieee | .quiet => F.emax * 2 ^ F.frac + 2 ^ (F.frac - 1)
  | .e4m3 => F.emax * 2 ^ F.frac + 2 ^ F.frac - 1
  | .none => 0

def Fmt.signed (F : Fmt) (neg : Bool) (mag : Nat) : Nat := if neg then mag + 2 ^ F.signBit else mag
def Fmt.infCode (F : Fmt) (neg : Bool) : Nat := F.signed neg (F.emax * 2 ^ F.frac)

/-- The value of a code (05 R78). -/
def decodeF (F : Fmt) (x : Nat) : FVal :=
  let neg := bitN x F.signBit
  let e := nbits x F.frac F.ebits
  let f := nbits x 0 F.frac
  let special : Option FVal :=
    if e = F.emax then
      match F.kind with
      | .ieee => some (if f = 0 then .inf neg else .nan (!bitN f (F.frac - 1)))
      | .quiet => some (if f = 0 then .inf neg else .nan false)
      | .e4m3 => if f = 2 ^ F.frac - 1 then some (.nan false) else none
      | .none => none
    else none
  match special with
  | some v => v
  | none =>
    if e = 0 then .fin neg f (F.emin - F.frac)
    else .fin neg (f + 2 ^ F.frac) ((e : Int) - F.bias - F.frac)

/-! ## Flags: the bits of AST[4:0] (02 R30) -/

abbrev Flags := BitVec 5
def fIV : Flags := 1
def fDZ : Flags := 2
def fOF : Flags := 4
def fUF : Flags := 8
def fNX : Flags := 16

/-- A flag set or clear. -/
def flagIf (b : Bool) (f : Flags) : Flags := if b then f else 0

/-! ## Rounding (05 R87) -/

/-- Rounding modes (03 R49, 02 R30). -/
inductive RMode where
  | rne | rz | ru | rd
  deriving DecidableEq, Repr

/-- AST.RM (02 R30). -/
def rmOf (x : Nat) : RMode :=
  match x % 4 with
  | 0 => .rne
  | 1 => .rz
  | 2 => .ru
  | _ => .rd

/-- m * 2^-k to an integer: the value lies in (m, m+1) * 2^-k when `sticky`. Answers the integer and whether it
differs from the exact value. -/
def roundShift (mode : RMode) (neg : Bool) (m k : Nat) (sticky : Bool) : Nat × Bool :=
  let q := m / 2 ^ k
  let r := m % 2 ^ k
  let inexact := r != 0 || sticky
  let up : Bool :=
    match mode with
    | .rz => false
    | .ru => inexact && !neg
    | .rd => inexact && neg
    | .rne =>
      if k = 0 then false
      else
        let half := 2 ^ (k - 1)
        if half < r || (r == half && sticky) then true
        else r == half && q % 2 == 1
  (if up then q + 1 else q, inexact)

/-- m * 2^e to an integer multiple of 2^q. -/
def roundAtExp (mode : RMode) (neg : Bool) (m : Nat) (e q : Int) (sticky : Bool) : Nat × Bool :=
  if q ≤ e then (m * 2 ^ (e - q).toNat, sticky) else roundShift mode neg m (q - e).toNat sticky

/-- n * 2^q against m * 2^e. -/
def magLess (n : Nat) (q : Int) (m : Nat) (e : Int) : Bool :=
  if q ≤ e then n < m * 2 ^ (e - q).toNat else n * 2 ^ (q - e).toNat < m

/-- The code of n * 2^q, a value of the format with q at or above its least exponent. -/
def encodeFin (F : Fmt) (neg : Bool) (n : Nat) (q : Int) : Nat :=
  let (n, q) := if 2 ^ (F.frac + 1) ≤ n then (n / 2, q + 1) else (n, q)
  if n < 2 ^ F.frac then F.signed neg n
  else F.signed neg ((q + F.frac + F.bias).toNat * 2 ^ F.frac + (n - 2 ^ F.frac))

/-- What stands in place of an overflowing result by mode: infinity, or the largest finite (05 R87). -/
def overflowsToInf (mode : RMode) (neg : Bool) : Bool :=
  match mode with
  | .rne => true
  | .rz => false
  | .ru => !neg
  | .rd => neg

/-- The code where R87 delivers an infinity (05 R87, R90). -/
def infinityCode (F : Fmt) (sat neg : Bool) : Nat :=
  if sat then F.signed neg F.maxCode
  else match F.kind with
    | .ieee | .quiet => F.infCode neg
    | .e4m3 => F.nanCode
    | .none => F.signed neg F.maxCode

/-- A finite nonzero magnitude rounded into a format, with its flags (05 R87, R89, R90). -/
def roundFin (F : Fmt) (mode : RMode) (sat neg : Bool) (m : Nat) (e : Int) (sticky : Bool) : Nat × Flags :=
  let qu : Int := e + bitLen m - 1 - F.frac
  let least : Int := F.emin - F.frac
  let free := roundAtExp mode neg m e qu sticky
  let q := if qu < least then least else qu
  let got := roundAtExp mode neg m e q sticky
  let top := F.maxFin
  if magLess top.1 top.2 got.1 q then
    (if overflowsToInf mode neg then infinityCode F sat neg else F.signed neg F.maxCode, fOF ||| fNX)
  else
    let tiny := magLess free.1 qu 1 F.emin
    (encodeFin F neg got.1 q, flagIf got.2 fNX ||| flagIf (tiny && got.2) fUF)

/-- `round(x, F, mode)` of an arithmetic result (05 R87, R88, R80). A `sticky` value lies above `m` by less than one
unit. -/
def roundF (F : Fmt) (mode : RMode) (x : FVal) (sticky : Bool) : Nat × Flags :=
  match x with
  | .nan _ => (F.nanCode, 0)
  | .inf neg => (F.infCode neg, 0)
  | .fin neg m e => if m = 0 then (F.signed neg 0, 0) else roundFin F mode false neg m e sticky

/-- round_ne (05 R92). -/
def roundNe (F : Fmt) (x : FVal) : Nat := (roundF F .rne x false).1

/-! ## Exact arithmetic -/

def FVal.isNan : FVal → Bool
  | .nan _ => true
  | _ => false
def FVal.isSig : FVal → Bool
  | .nan sig => sig
  | _ => false
def FVal.isInf : FVal → Bool
  | .inf _ => true
  | _ => false
def FVal.isZero : FVal → Bool
  | .fin _ m _ => m == 0
  | _ => false
def FVal.isFin : FVal → Bool
  | .fin _ _ _ => true
  | _ => false
def FVal.neg? : FVal → Bool
  | .nan _ => false
  | .inf n => n
  | .fin n _ _ => n
/-- The sign flipped; a NaN stays. -/
def FVal.negate : FVal → FVal
  | .nan s => .nan s
  | .inf n => .inf (!n)
  | .fin n m e => .fin (!n) m e
def FVal.absV : FVal → FVal
  | .nan s => .nan s
  | .inf _ => .inf false
  | .fin _ m e => .fin false m e

/-- The signed significand. -/
def sgn (neg : Bool) (m : Nat) : Int := if neg then -(m : Int) else m

/-- The exact product; 0 × ∞ is a NaN, and says so (05 R89). -/
def mulV : FVal → FVal → FVal × Bool
  | .nan _, _ => (.nan false, false)
  | _, .nan _ => (.nan false, false)
  | .inf a, .inf b => (.inf (a != b), false)
  | .inf a, .fin b m _ => if m = 0 then (.nan false, true) else (.inf (a != b), false)
  | .fin a m _, .inf b => if m = 0 then (.nan false, true) else (.inf (a != b), false)
  | .fin a m e, .fin b n f => (.fin (a != b) (m * n) (e + f), false)

/-- The exact sum; ∞ − ∞ is a NaN, and says so; the sign of a zero by the mode (05 R88). -/
def addV (mode : RMode) : FVal → FVal → FVal × Bool
  | .nan _, _ => (.nan false, false)
  | _, .nan _ => (.nan false, false)
  | .inf a, .inf b => if a = b then (.inf a, false) else (.nan false, true)
  | .inf a, .fin _ _ _ => (.inf a, false)
  | .fin _ _ _, .inf b => (.inf b, false)
  | .fin a m e, .fin b n f =>
    if m = 0 ∧ n = 0 then (.fin (if a = b then a else mode == .rd) 0 0, false)
    else
      let g := if e ≤ f then e else f
      let x := sgn a m * 2 ^ (e - g).toNat + sgn b n * 2 ^ (f - g).toNat
      if x = 0 then (.fin (mode == .rd) 0 0, false) else (.fin (x < 0) x.natAbs g, false)

/-- Flags of the inputs: IV for a signalling NaN (05 R80). -/
def sigFlag (xs : List FVal) : Flags := flagIf (xs.any FVal.isSig) fIV

/-- `x` against `y`, neither a NaN: the sign of x − y. -/
def cmpV : FVal → FVal → Int
  | .fin a m e, .fin b n f =>
    let g := if e ≤ f then e else f
    sgn a m * 2 ^ (e - g).toNat - sgn b n * 2 ^ (f - g).toNat
  | .inf a, .inf b => if a = b then 0 else if a then -1 else 1
  | .inf a, _ => if a then -1 else 1
  | _, .inf b => if b then 1 else -1
  | .nan _, _ => 0
  | _, .nan _ => 0

def ltV (x y : FVal) : Bool := !x.isNan && !y.isNan && cmpV x y < 0
def eqV (x y : FVal) : Bool := !x.isNan && !y.isNan && cmpV x y == 0

/-- Scaled by 2^k exactly. -/
def scaleV (k : Int) : FVal → FVal
  | .fin a m e => .fin a m (e + k)
  | x => x

/-! ## Conversions (05 R90, R91) -/

/-- The format codes of R60: a float format. -/
def floatFmt (code : Nat) : Option Fmt :=
  match code with
  | 0 => some fmtF64
  | 1 => some fmtF32
  | 2 => some fmtF16
  | 3 => some fmtBF16
  | 4 => some fmtE4M3
  | 5 => some fmtE5M2
  | 6 => some fmtE2M1
  | _ => none

/-- The bits of an element of a format code (09 R160). -/
def elemBits (code : Nat) : Nat :=
  match code with
  | 0 => 64
  | 1 => 32
  | 2 => 16
  | 3 => 16
  | 4 => 8
  | 5 => 8
  | 6 => 4
  | 7 => 8
  | 8 => 8
  | 9 => 32
  | 10 => 64
  | 11 => 8
  | 12 => 32
  | 13 => 64
  | _ => 0

/-- The width and unsignedness of an integer format code (03 R60). -/
def intFmt (code : Nat) : Nat × Bool := (elemBits code, 11 ≤ code)

/-- A scale byte (05 R82). -/
def decodeE8M0 (x : Nat) : FVal := if x % 256 = 0xFF then .nan false else .fin false 1 ((x % 256 : Nat) - 127 : Int)

/-- The value of a code in a float format, E8M0 included (03 R60). -/
def decodeCode (code x : Nat) : FVal :=
  if code = 7 then decodeE8M0 x
  else match floatFmt code with
    | some F => decodeF F (x % 2 ^ F.width)
    | none => .nan false

/-- A value into a float format with infinity or E4M3 (05 R90). -/
def convToF (F : Fmt) (mode : RMode) (sat : Bool) (x : FVal) : Nat × Flags :=
  match x with
  | .nan sig => (F.nanCode, flagIf sig fIV)
  | .inf neg =>
    if F.hasInf then (if sat then F.signed neg F.maxCode else F.infCode neg, 0)
    else (infinityCode F sat neg, if sat then fNX else fIV)
  | .fin neg m e => if m = 0 then (F.signed neg 0, 0) else roundFin F mode sat neg m e false

/-- A value into a scale byte (05 R90, R91): a format with no fraction bits and no subnormals. -/
def convToE8M0 (mode : RMode) (sat : Bool) (x : FVal) : Nat × Flags :=
  match x with
  | .nan sig => (0xFF, flagIf sig fIV)
  | .inf true => (0xFF, fIV)
  | .inf false => if sat then (0xFE, fNX) else (0xFF, fIV)
  | .fin neg m e =>
    if m = 0 ∨ neg then (0xFF, fIV)
    else
      let E : Int := e + bitLen m - 1
      let exact := m == 2 ^ (bitLen m - 1)
      let up : Bool :=
        !exact &&
          match mode with
          | .rz | .rd => false
          | .ru => true
          | .rne =>
            let half := 3 * 2 ^ (bitLen m - 2)
            if m = half then (E + 127) % 2 != 0 else half < m
      let P := if up then E + 1 else E
      if P < -127 then (0x00, fUF ||| fNX)
      else if 127 < P then (if sat then 0xFE else if overflowsToInf mode false then 0xFF else 0xFE, fOF ||| fNX)
      else ((P + 127).toNat, flagIf (!exact) fNX)

/-- A finite value to an integer under a mode, and whether it is inexact (05 R90). -/
def toIntV (mode : RMode) (neg : Bool) (m : Nat) (e : Int) : Int × Bool :=
  let r := roundAtExp mode neg m e 0 false
  (sgn neg r.1, r.2)

/-- A value into an integer format (05 R90). -/
def convToI (w : Nat) (u : Bool) (mode : RMode) (sat : Bool) (x : FVal) : Nat × Flags :=
  let enc (v : Int) : Nat := (BitVec.ofInt w v).toNat
  let bad : Nat := if u then 2 ^ w - 1 else 2 ^ (w - 1)
  match x with
  | .nan _ => (if sat then 0 else bad, fIV)
  | .inf neg => (if sat then enc (if neg then loLim u w else hiLim u w) else bad, fIV)
  | .fin neg m e =>
    let r := toIntV mode neg m e
    if r.1 < loLim u w then (if sat then enc (loLim u w) else bad, fIV)
    else if hiLim u w < r.1 then (if sat then enc (hiLim u w) else bad, fIV)
    else (enc r.1, flagIf r.2 fNX)

/-- An integer as a value (05 R91); an integer −0 is 0 (R88). -/
def ofIntV (x : Int) : FVal := .fin (x < 0) x.natAbs 0

/-! ## NX4 elements (05 R83-R85) -/

/-- The value of an E2M1 code in a block with special byte `sp`, before the scale (05 R84). -/
def nx4Mag (sp c : Nat) : FVal :=
  if c % 16 = 8 then decodeF fmtE4M3 (sp % 256) else decodeF fmtE2M1 (c % 16)

/-- decode_nx4 (05 R92). -/
def nx4Val (sc sp c : Nat) : FVal :=
  if sc % 256 = 0xFF then .nan false else scaleV ((sc % 256 : Nat) - 127 : Int) (nx4Mag sp c)

/-- The candidates of R85: every code but 0b1000, and 0b1000 when the special is no NaN. -/
def nx4Cands (sp : Option Nat) : List Nat :=
  [0, 1, 2, 3, 4, 5, 6, 7, 9, 10, 11, 12, 13, 14, 15] ++
    (match sp with
     | some b => if (decodeF fmtE4M3 (b % 256)).isNan then [] else [8]
     | none => [])

/-- |x − y| of two finite values. -/
def distV (x y : FVal) : FVal := ((addV .rne x y.negate).1).absV

/-- The element closest to a finite `q`: ties to the even code among elements, and an element wins over the special
(05 R85, steps 3 and 4). Beyond the largest candidate of its sign the closest one is that candidate (step 5). -/
def nx4Nearest (sp : Nat) (q : FVal) (cands : List Nat) : Nat :=
  let same := cands.filter (fun c => (nx4Mag sp c).isZero || (nx4Mag sp c).neg? == q.neg?)
  let best (a c : Nat) : Nat :=
    let da := distV q (nx4Mag sp a)
    let dc := distV q (nx4Mag sp c)
    if ltV dc da then c
    else if ltV da dc then a
    else if a = 8 then c
    else if c = 8 then a
    else if c % 2 = 0 then c else a
  match same with
  | [] => 0
  | c :: r => r.foldl best c

/-- R85: `q` is the value over the scale; answers the code and NX. A result of magnitude 0 is 0b0000. -/
def nx4Encode (sp : Option Nat) (q : FVal) : Nat × Flags :=
  match q with
  | .nan _ => (0, fIV)
  | .inf neg =>
    let big := nx4Nearest (sp.getD 0) (.fin neg 1 300) (nx4Cands sp)
    (big, fNX)
  | .fin _ _ _ =>
    let c := nx4Nearest (sp.getD 0) q (nx4Cands sp)
    let m := nx4Mag (sp.getD 0) c
    (if m.isZero && c != 8 then 0 else c, flagIf (!eqV m q) fNX)

/-- A conversion to E2M1: scale 1, no special value (05 R85, R90, 09 R161). The code is R85's; OF is set where
rounding by R87 would overflow, as the E2M1 row of R90 gives (DEDUCED, log entry 9). -/
def convToE2M1 (x : FVal) : Nat × Flags :=
  match x with
  | .nan _ => (0, fIV)
  | .inf neg => (if neg then 15 else 7, fNX)
  | .fin neg m e =>
    let r := nx4Encode none x
    (r.1, r.2 ||| (if m = 0 then 0 else (roundFin fmtE2M1 .rne false neg m e false).2 &&& fOF))

/-- A value into a float format code (05 R90, R91). -/
def convToCode (code : Nat) (mode : RMode) (sat : Bool) (x : FVal) : Nat × Flags :=
  if code = 6 then convToE2M1 x
  else if code = 7 then convToE8M0 mode sat x
  else match floatFmt code with
    | some F => convToF F mode sat x
    | none => (0, 0)

/-! ## ACC26 (05 R86, R92) -/

/-- round26: the value rounded to 18 significant bits under RNE, flushed below 2^-126, infinite from 2^128. -/
def round26 (x : FVal) : FVal :=
  match x with
  | .nan _ => .nan false
  | .inf n => .inf n
  | .fin neg m e =>
    if m = 0 then .fin neg 0 0
    else
      let q : Int := e + bitLen m - 18
      let r := roundAtExp .rne neg m e q false
      if !magLess r.1 q 1 128 then .inf neg
      else if magLess r.1 q 1 (-126) then .fin neg 0 0
      else .fin neg r.1 q

/-! ## Ranked entries (05 R92) -/

/-- rank_less on entries of FP32 value and unsigned index. -/
def rankLess (x y : Word × Word) : Bool :=
  let a := decodeF fmtF32 x.1.toNat
  let b := decodeF fmtF32 y.1.toNat
  if ltV a b then true else if ltV b a then false else y.2.toNat < x.2.toNat

end Sys2Proof.Machine
end

