-- ==== Sys2Proof/Syntax.lean ====
section
/-! DEFINITION. The whole instruction set as syntax: the fields of the five word-2 formats with the MOD field split
as each group lays it out (03 R47, R48, R58-R62), and one constructor per row of the opcode table. -/
namespace Sys2Proof

/-- The hint bits of word 0 (03 R47, R53): they never change a result. -/
structure Hints where
  lastUse : Bool
  reuseB : Bool
  reuseA : Bool
  yld : Bool
  stall : BitVec 4
  deriving DecidableEq, Repr

/-- Words 0 and 1 without OPC and MOD (03 R47). -/
structure Head where
  d : OpField
  hints : Hints
  gneg : Bool
  guard : BitVec 4
  b : OpField
  a : OpField
  deriving DecidableEq, Repr

/-- Word 2 of the RRR format (03 R48). -/
structure Rrr where
  xmod : BitVec 18
  rnd : BitVec 3
  c : OpField
  deriving DecidableEq, Repr

/-- Word 2 of an instruction whose MOD[9] IMM selects RRR or RRI (03 R56). -/
inductive AluTail where
  | rrr (t : Rrr)
  | rri (imm : Word)
  deriving DecidableEq, Repr

/-- Word 2 of the MEM format (03 R48). -/
structure MemTail where
  ofs : BitVec 24
  evict : BitVec 3
  scope : BitVec 3
  order : BitVec 2
  deriving DecidableEq, Repr

/-- Word 2 of the ENG format (03 R48). -/
structure EngTail where
  emod : BitVec 16
  ring : BitVec 4
  ctr : BitVec 4
  evict : BitVec 3
  scope : BitVec 3
  order : BitVec 2
  deriving DecidableEq, Repr

/-- Scalar and vector integer instructions, MOD by 03 R58 (IMM is the tail's constructor). -/
structure IntI where
  h : Head
  sat : Bool
  u : Bool
  sub : BitVec 4
  low : BitVec 3
  t : AluTail
  deriving DecidableEq, Repr

/-- Vector floating-point instructions, MOD by 03 R59. -/
structure FpI where
  h : Head
  nega : Bool
  absa : Bool
  negb : Bool
  absb : Bool
  negc : Bool
  sub : BitVec 4
  t : AluTail
  deriving DecidableEq, Repr

/-- Conversions and block quantisation, MOD by 03 R60; SPOS and DPOS lie in XMOD (09 R160). -/
structure CvtI where
  h : Head
  sat : Bool
  srcf : BitVec 4
  dstf : BitVec 4
  zx : Bool
  t : Rrr
  deriving DecidableEq, Repr

/-- Local memory instructions, MOD by 03 R61. -/
structure LocI where
  h : Head
  wid : BitVec 3
  u : Bool
  aop : BitVec 4
  low : BitVec 2
  t : MemTail
  deriving DecidableEq, Repr

/-- An instruction of RRR format whose MOD its own entry defines. -/
structure RrrI where
  h : Head
  mod : BitVec 10
  t : Rrr
  deriving DecidableEq, Repr

/-- An instruction of RRI format whose MOD its own entry defines. -/
structure RriI where
  h : Head
  mod : BitVec 10
  imm : Word
  deriving DecidableEq, Repr

/-- An instruction of BR format. -/
structure BrI where
  h : Head
  mod : BitVec 10
  bofs : Word
  deriving DecidableEq, Repr

/-- An instruction of MEM format whose MOD its own entry defines. -/
structure MemI where
  h : Head
  mod : BitVec 10
  t : MemTail
  deriving DecidableEq, Repr

/-- An engine instruction, MOD by 03 R62. -/
structure EngI where
  h : Head
  tf : Bool
  mod : BitVec 9
  t : EngTail
  deriving DecidableEq, Repr

/-- A matrix or ranked-list instruction, MOD by 03 R62. -/
structure PassI where
  h : Head
  pi : BitVec 3
  asrc : BitVec 2
  low : BitVec 5
  t : Rrr
  deriving DecidableEq, Repr

/-- What a contained error poisons (24 R383): a unit of eight bytes of a memory, a register element, an
accumulator word; of flits, a unit of a row on its way in a sub-cart, of a chunk that a rank has not received, of a
contribution or a result under way, of a combining entry's partial. -/
inductive PoisonPlace where
  | unit (key : Nat)
  | vreg (tid reg : Nat)
  | sreg (cid reg : Nat)
  | acc (key : Nat)
  | row (sub pos unit : Nat)
  | chunk (index unit : Nat)
  | contribution (msg unit : Nat)
  | entry (entry unit : Nat)
  deriving DecidableEq, Repr

/-- What flits carry: bytes, and which of their units of eight bytes are poisoned (24 R383). -/
structure Payload where
  bytes : List Byte
  bad : List Nat
  deriving DecidableEq, Repr

/-- An entry of a peer's sub-cart (13 R215). -/
structure PeerEntry where
  row : Nat
  pos : Nat
  bag : Nat
  mult : Nat
  slot : Nat
  die : Nat
  /-- The stack within the die. -/
  stack : Nat
  data : Payload
  deriving DecidableEq, Repr

/-- A request of a peer package at an Akbex port (PEER_REQUEST_ARRIVAL): the atomic of 16 R270, the two forms of
SIG (R271), the read and write of a peer copy (12 R200), a fabric TLBI (25 R393), a sub-cart (13 R216), a collective
flit (15 R248), a contribution to this package's combining table, and a result or RAW contribution from another's
(15 R250). `word` is the step word that sent a flit. -/
inductive PeerRequest where
  | amog (world : Bool) (space : BitVec 16) (reqPkg pa : Nat) (aop : BitVec 4) (wide : Bool) (b cmp : DWord)
  | sigN (world : Bool) (space : BitVec 16) (reqPkg : Nat) (lid : DWord) (coach ctr inc : Nat)
  | sigW (world : Bool) (space : BitVec 16) (reqPkg pa : Nat) (data : DWord)
  | copyRead (world : Bool) (space : BitVec 16) (reqPkg pa len : Nat)
  | copyWrite (world : Bool) (space : BitVec 16) (reqPkg pa : Nat) (data : Payload)
  | tlbi (world : Bool) (kind : BitVec 3) (space : BitVec 16) (va : DWord)
  | subcart (world : Bool) (space : BitVec 16) (reqPkg reqCore : Nat) (token : DWord) (typ pool fmt rowBytes : Nat) (base : DWord) (stride : Nat)
      (entries : List PeerEntry)
  | flit (world : Bool) (space : BitVec 16) (reqPkg group src dst : Nat) (word : DWord) (data : Payload)
  | combine (world : Bool) (space : BitVec 16) (reqPkg group : Nat) (step : DWord) (lcs : List Nat) (unit src expect : Nat)
      (oper : BitVec 3) (rk rd : Nat) (dest : Option Nat) (word : DWord) (data : Payload)
  | combResult (world : Bool) (space : BitVec 16) (reqPkg group : Nat) (step : DWord) (lcs : List Nat)
      (unit rank count expect : Nat) (oper : BitVec 3) (rk rd : Nat) (word : DWord) (data : Payload)
  deriving DecidableEq, Repr

/-- What the configuration record sets at boot (22 R365): world registers, region registers, SPTB, CTS, SCS and the
fabric route table, with the record's own bytes and signature. -/
structure BootRecord where
  bytes : List Byte
  signature : List Byte
  quadWorlds : BitVec 32
  serve : BitVec 16
  portWorlds : BitVec 12
  split : BitVec 20
  mrgn : List (Nat × DWord)
  sptbN : DWord
  sptbS : DWord
  routes : List (Nat × List Nat)
  deriving DecidableEq, Repr


/-- One constructor per row of spec/opcode_table.json: the instructions of a stream, the access-processor forms
and the machine's events (95_what_each_step_holds.md). -/
inductive Instr where
  /-- R63: Opcode 0x00 raises ILLEGAL_INSTRUCTION whatever its guard and other bits hold. -/
  | ill (rest : BitVec 88)
  /-- R63: Fetch of any of the 80 unassigned opcodes raises RESERVED_OPCODE and has no other effect. -/
  | reservedOpcode (opc : BitVec 8) (rest : BitVec 88)
  /-- R131: Scalar 64-bit add, wrapping or saturating. -/
  | sadd (i : IntI)
  /-- R131: Scalar 64-bit subtract, wrapping or saturating. -/
  | ssub (i : IntI)
  /-- R131: Scalar multiply giving the low 64 bits, or a clamped product with SAT. -/
  | smul (i : IntI)
  /-- R131: Scalar multiply giving bits 127:64 of the exact product. -/
  | smulh (i : IntI)
  /-- R132: Scalar truncating divide that never traps, with fixed results for a zero divisor and for overflow. -/
  | sdiv (i : IntI)
  /-- R132: Scalar remainder with the sign of the dividend that never traps. -/
  | srem (i : IntI)
  /-- R131: Scalar bitwise AND. -/
  | sand (i : IntI)
  /-- R131: Scalar bitwise OR. -/
  | sor (i : IntI)
  /-- R131: Scalar bitwise XOR. -/
  | sxor (i : IntI)
  /-- R133: Scalar shift left; 0 for amounts of 64 or more. -/
  | sshl (i : IntI)
  /-- R133: Scalar logical shift right; 0 for amounts of 64 or more. -/
  | sshr (i : IntI)
  /-- R133: Scalar arithmetic shift right, filling with bit 63. -/
  | ssra (i : IntI)
  /-- R131: Scalar signed or unsigned minimum. -/
  | smin (i : IntI)
  /-- R131: Scalar signed or unsigned maximum. -/
  | smax (i : IntI)
  /-- R134: Scalar compare under a condition code, writing a k register. -/
  | scmp (i : IntI)
  /-- R134: Scalar select of s[a] or b by a k register. -/
  | ssel (i : IntI)
  /-- R135: Scalar move between s, k and n classes by the MOD[2:0] selector. -/
  | smov (i : IntI)
  /-- R136: Scalar bit-field extract with sign or zero extension. -/
  | sbfx (i : IntI)
  /-- R136: Scalar bit-field insert. -/
  | sbfi (i : IntI)
  /-- R136: Scalar bit count: POPC, CLZ, CTZ, BREV or BSWAP. -/
  | sbitc (i : IntI)
  /-- R131: Scalar add of a shifted operand. -/
  | slea (i : IntI)
  /-- R137: Reads a per-carriage special register by selector into an s register. -/
  | sget (i : RriI)
  /-- R137: Writes a per-carriage special register by selector, ordered against AST flag updates. -/
  | sput (i : RriI)
  /-- R138: Scalar fused multiply-add in FP32 or FP64. -/
  | sfma (i : IntI)
  /-- R139: Scalar conversion between float and integer formats, selected by SUB. -/
  | sfcvt (i : IntI)
  /-- R333: Branches by a signed instruction offset. -/
  | bra (i : BrI)
  /-- R334: Jumps through a bounded jump table, checking its label and the target landing pad. -/
  | brx (i : RriI)
  /-- R334: Landing pad, with no effect when executed in sequence. -/
  | lpad (i : RriI)
  /-- R333: Writes the link to an s register and branches. -/
  | call (i : BrI)
  /-- R333: Jumps to the address held in an s register. -/
  | ret (i : RrrI)
  /-- R333: Decrements a count and branches while it is nonzero. -/
  | loop (i : BrI)
  /-- R335: Divergent branch: waits for every concerned carriage, then splits the threads into two paths. -/
  | dbr (i : BrI)
  /-- R336: Parks a path carriage at its reconvergence point. -/
  | join (i : RrrI)
  /-- R337: Removes active threads from the live mask; EXIT.S also names a successor record. -/
  | exit (i : RrrI)
  /-- R340: Releases the issue slot until a handle, a token or a counter condition holds. -/
  | yield (i : BrI)
  /-- R341: Waits until the outstanding class counts are at or below the given limits. -/
  | waitc (i : RriI)
  /-- R339: Waits for a handle to be DONE and returns its status word. -/
  | waith (i : RrrI)
  /-- R339: Tests a handle without waiting, or reads its token with TSTH.GET. -/
  | tsth (i : RrrI)
  /-- R339: Cancels an engine operation or disarms a trigger. -/
  | canh (i : RrrI)
  /-- R342: Barrier at CARR, CORE or COACH scope. -/
  | bar (i : RriI)
  /-- R343: Reads a launch record and submits it to the dispatcher. -/
  | launch (i : RrrI)
  /-- R344: Adds one child per active thread to the bin of an entry address. -/
  | spawn (i : RrrI)
  /-- R344: Fires the bin of an entry address at once until it is empty. -/
  | spawnf (i : RrrI)
  /-- R345: Raises a TRAP trap carrying its immediate. -/
  | trap (i : RriI)
  /-- R345: Raises BREAKPOINT, or halts the carriage when the debug unit is enabled. -/
  | brk (i : RriI)
  /-- R345: Raises a SYSCALL trap carrying its immediate. -/
  | sysc (i : RriI)
  /-- R345: Makes the carriage not ready for a number of cycles. -/
  | pause (i : RriI)
  /-- R346: Reads a loop descriptor, checks it and runs the speculative serial loop in windows. -/
  | sploop (i : MemI)
  /-- R347: Records guesses for carried registers; GUESS.GO forms the instances. -/
  | guess (i : RrrI)
  /-- R348: Declares the comparison mode of a carried register. -/
  | accept (i : RrrI)
  /-- R349: Publishes an instance's produced carry and parks it for commit. -/
  | spend (i : RrrI)
  /-- R350: Marks a sequence for rollback within a window. -/
  | spmark (i : RrrI)
  /-- R351: In instance 0 makes the loop serial; in a higher instance poisons that instance. -/
  | spquit (i : RrrI)
  /-- R140: Vector 32-bit integer add. -/
  | vaddI32 (i : IntI)
  /-- R140: Vector 64-bit integer add on register pairs. -/
  | vaddI64 (i : IntI)
  /-- R140: Vector 32-bit integer subtract. -/
  | vsubI32 (i : IntI)
  /-- R140: Vector 64-bit integer subtract on register pairs. -/
  | vsubI64 (i : IntI)
  /-- R140: Vector 32-bit multiply, giving the low or the high half. -/
  | vmulI32 (i : IntI)
  /-- R140: Vector 64-bit multiply on register pairs. -/
  | vmulI64 (i : IntI)
  /-- R140: Vector 32-bit multiply-add. -/
  | vmadI32 (i : IntI)
  /-- R140: Vector bitwise AND. -/
  | vand (i : IntI)
  /-- R140: Vector bitwise OR. -/
  | vor (i : IntI)
  /-- R140: Vector bitwise XOR. -/
  | vxor (i : IntI)
  /-- R140: Vector shift left. -/
  | vshl (i : IntI)
  /-- R140: Vector logical shift right. -/
  | vshr (i : IntI)
  /-- R140: Vector arithmetic shift right. -/
  | vsra (i : IntI)
  /-- R140: Vector 32-bit minimum. -/
  | vminI32 (i : IntI)
  /-- R140: Vector 32-bit maximum. -/
  | vmaxI32 (i : IntI)
  /-- R142: Vector 32-bit compare into a predicate. -/
  | vcmpI32 (i : IntI)
  /-- R142: Vector 64-bit compare into a predicate. -/
  | vcmpI64 (i : IntI)
  /-- R142: Vector select by a predicate. -/
  | vsel (i : IntI)
  /-- R142: Vector move of a register, a pair or an immediate. -/
  | vmov (i : IntI)
  /-- R143: Vector 32-bit bit-field extract. -/
  | vbfx (i : IntI)
  /-- R143: Vector 32-bit bit count operations. -/
  | vbitc (i : IntI)
  /-- R144: Writes a home or slot identity of each active thread. -/
  | vtid (i : IntI)
  /-- R145: Moves 32-bit values between slots of the carriage or path. -/
  | vshfl (i : IntI)
  /-- R146: Inclusive or exclusive scan over the active threads in slot order. -/
  | vscan (i : IntI)
  /-- R147: Combines predicates or converts between predicates and other classes. -/
  | vpred (i : IntI)
  /-- R148: Reduces a vector register over the active threads into an s register. -/
  | vrds (i : IntI)
  /-- R141: Four-way 8-bit dot product accumulated into INT32. -/
  | vdot4I8 (i : IntI)
  /-- R153: Vector FP32 add. -/
  | vfaddF32 (i : FpI)
  /-- R153: Vector FP64 add. -/
  | vfaddF64 (i : FpI)
  /-- R153: Vector FP32 multiply. -/
  | vfmulF32 (i : FpI)
  /-- R153: Vector FP64 multiply. -/
  | vfmulF64 (i : FpI)
  /-- R153: Vector FP32 fused multiply-add. -/
  | vfmaF32 (i : FpI)
  /-- R153: Vector FP64 fused multiply-add. -/
  | vfmaF64 (i : FpI)
  /-- R154: Two independent FP16 fused multiply-adds per thread. -/
  | vfmaH2 (i : FpI)
  /-- R154: Two independent BF16 fused multiply-adds per thread. -/
  | vfmaBf2 (i : FpI)
  /-- R155: Vector FP32 minimum, NUM or NAN selection. -/
  | vfminF32 (i : FpI)
  /-- R155: Vector FP32 maximum, NUM or NAN selection. -/
  | vfmaxF32 (i : FpI)
  /-- R155: Vector FP64 minimum. -/
  | vfminF64 (i : FpI)
  /-- R155: Vector FP64 maximum. -/
  | vfmaxF64 (i : FpI)
  /-- R156: Vector FP32 compare into a predicate. -/
  | vfcmpF32 (i : FpI)
  /-- R156: Vector FP64 compare into a predicate. -/
  | vfcmpF64 (i : FpI)
  /-- R153: Vector FP32 divide, with latency that depends on the operands. -/
  | vfdivF32 (i : FpI)
  /-- R153: Vector FP64 divide. -/
  | vfdivF64 (i : FpI)
  /-- R153: Vector FP32 square root. -/
  | vfsqrtF32 (i : FpI)
  /-- R153: Vector FP64 square root. -/
  | vfsqrtF64 (i : FpI)
  /-- R157: Correctly rounded FP32 reciprocal. -/
  | vfrcpF32 (i : FpI)
  /-- R157: Correctly rounded FP32 reciprocal square root. -/
  | vfrsqF32 (i : FpI)
  /-- R157: Correctly rounded FP32 power of two. -/
  | vfexp2F32 (i : FpI)
  /-- R157: Correctly rounded FP32 base-2 logarithm. -/
  | vflog2F32 (i : FpI)
  /-- R158: Writes a one-hot classification of an FP32 or FP64 source. -/
  | vfclass (i : FpI)
  /-- R159: Rounds to an integral value in the same format. -/
  | vfrnd (i : FpI)
  /-- R161: Converts float to float at element positions. -/
  | vcvtFf (i : CvtI)
  /-- R161: Converts float to integer. -/
  | vcvtFi (i : CvtI)
  /-- R161: Converts integer to float. -/
  | vcvtIf (i : CvtI)
  /-- R163: Quantises one element per thread against block info. -/
  | vqnt (i : CvtI)
  /-- R164: Dequantises one element per thread using block info. -/
  | vdqnt (i : CvtI)
  /-- R162: Chooses the block scale and special byte for each block of 32 slots. -/
  | vbsc (i : FpI)
  /-- R258: Vector load from coach shared memory. -/
  | lds (i : LocI)
  /-- R258: Vector store to coach shared memory. -/
  | sts (i : LocI)
  /-- R258: Vector load from the die scratchpad. -/
  | ldd (i : LocI)
  /-- R258: Vector store to the die scratchpad. -/
  | std (i : LocI)
  /-- R258: Vector load from the carriage's spill stack. -/
  | ldl (i : LocI)
  /-- R258: Vector store to the carriage's spill stack. -/
  | stl (i : LocI)
  /-- R260: Vector atomic on shared memory. -/
  | atoms (i : LocI)
  /-- R260: Vector atomic on the die scratchpad. -/
  | atomd (i : LocI)
  /-- R262: Orders the carriage's accesses at a scope with acquire/release or SC ordering. -/
  | fence (i : LocI)
  /-- R261: Scalar load from shared memory or the scratchpad. -/
  | sld (i : LocI)
  /-- R261: Scalar store to shared memory or the scratchpad. -/
  | sst (i : LocI)
  /-- R261: Scalar returning atomic. -/
  | satom (i : LocI)
  /-- R263: Pops a queue filled by the access processor, waiting while it is empty and open. -/
  | qpop (i : RrrI)
  /-- R263: Pushes a value to the access processor's inbound queue. -/
  | qpush (i : RrrI)
  /-- R267: Engine copy between global, shared and scratchpad spaces. -/
  | cpy (i : EngI)
  /-- R268: Engine copy of a tensor window to or from a dense local array. -/
  | cpyt (i : EngI)
  /-- R269: Forms a gather cart into a dense shared-memory tile. -/
  | gat (i : EngI)
  /-- R269: Forms a pooled gather cart by bag. -/
  | gatp (i : EngI)
  /-- R269: Forms a scatter cart. -/
  | sca (i : EngI)
  /-- R269: Forms a scatter-add cart. -/
  | scaa (i : EngI)
  /-- R270: One global atomic performed at the location's home. -/
  | amog (i : EngI)
  /-- R271: Adds an increment to a trigger counter of a target coach. -/
  | sigN (i : EngI)
  /-- R271: Stores 8 bytes single-copy atomically to a global address. -/
  | sigW (i : EngI)
  /-- R272: Sets, adds to, binds or unbinds a counter of the issuing coach. -/
  | ctrs (i : EngI)
  /-- R273: Arms an embedded CPY, SIG, COLL or LAUNCH behind a counter predicate. -/
  | triga (i : EngI)
  /-- R275: Starts a collective program on a port's collective sequencer. -/
  | coll (i : EngI)
  /-- R277: Appends positions to a sequence cache. -/
  | kvapp (i : EngI)
  /-- R277: Forks a sequence into a free sequence, sharing pages. -/
  | kvfork (i : EngI)
  /-- R277: Looks up residency keys per thread into shared memory. -/
  | kvmap (i : EngI)
  /-- R277: Frees a sequence or removes a prefix entry. -/
  | kvfree (i : EngI)
  /-- R277: Looks up a prefix key, optionally attaching its pages to a sequence slot. -/
  | pfxf (i : EngI)
  /-- R277: Inserts a prefix entry for a page list. -/
  | pfxi (i : EngI)
  /-- R278: Hands a routing descriptor to the die's routing engine. -/
  | route (i : EngI)
  /-- R279: Handle that completes after every earlier outstanding engine operation. -/
  | edrn (i : EngI)
  /-- R173: Dense E4M3 matrix pass with block scales. -/
  | mmaE4 (i : PassI)
  /-- R173: Dense E5M2 matrix pass with block scales. -/
  | mmaE5 (i : PassI)
  /-- R173: Dense NX4 matrix pass with scales and specials. -/
  | mmaNx4 (i : PassI)
  /-- R173: Dense BF16 matrix pass. -/
  | mmaBf16 (i : PassI)
  /-- R173: Dense FP16 matrix pass. -/
  | mmaF16 (i : PassI)
  /-- R173: Dense FP32 matrix pass. -/
  | mmaF32 (i : PassI)
  /-- R173: Dense FP64 matrix pass into an FP64 pair. -/
  | mmaF64 (i : PassI)
  /-- R173: Dense INT8 matrix pass into INT32. -/
  | mmaI8 (i : PassI)
  /-- R174: Matrix pass with sparse E4M3 A. -/
  | mmspE4 (i : PassI)
  /-- R174: Matrix pass with sparse BF16 A. -/
  | mmspBf16 (i : PassI)
  /-- R174: Matrix pass with both operands sparse, in two phases. -/
  | mmssBf16 (i : PassI)
  /-- R176: Computes BF16 scores and offers them to ranked lists, or is dropped at issue by its bound. -/
  | mmrkBf16 (i : PassI)
  /-- R177: Declares an accumulator name as a SUM or RANK tile. -/
  | accdef (i : RriI)
  /-- R178: Loads accumulator rows from an image in shared memory or the scratchpad. -/
  | accld (i : MemI)
  /-- R178: Drains accumulator rows to an image, converting each element. -/
  | accst (i : MemI)
  /-- R180: Reads a state word or a list length, optionally clearing the flags. -/
  | accstat (i : RrrI)
  /-- R185: Copies a tensor window into a tile-memory region. -/
  | tld (i : EngI)
  /-- R185: Copies a tile-memory region into a tensor. -/
  | tst (i : EngI)
  /-- R167: Builds, clears or reads a tile handle. -/
  | tdesc (i : RrrI)
  /-- R181: Makes one offer per active thread to a ranked list. -/
  | rkins (i : PassI)
  /-- R182: Merges ranked lists from registers, images or another tile. -/
  | rkmrg (i : PassI)
  /-- R183: Reads the threshold or length of each thread's own list. -/
  | rkthr (i : PassI)
  /-- R184: Reads list entries into registers, optionally clearing the lists. -/
  | rkout (i : PassI)
  /-- R390: Reads a system register. -/
  | sysrd (i : RriI)
  /-- R390: Writes a system register. -/
  | syswr (i : RriI)
  /-- R391: Leaves handler mode and resumes at TRES. -/
  | eret (i : RrrI)
  /-- R392: Calls the monitor with a function code and waits for its reply. -/
  | monc (i : RriI)
  /-- R393: Removes translations of a page, a space or the whole world. -/
  | tlbi (i : RrrI)
  /-- R394: Saves a target carriage's context to a save area. -/
  | ctxsv (i : MemI)
  /-- R394: Restores a target carriage's context from a save area. -/
  | ctxld (i : MemI)
  /-- R395: Halts, releases or reads the debug status of a carriage. -/
  | haltc (i : RriI)
  /-- R396: Checks one sealed page's CRC on demand. -/
  | pgchk (i : EngI)
  /-- R242: Access-processor load from shared memory or the scratchpad, or a residency lookup. -/
  | apSld (i : LocI)
  /-- R242: Access processor pops its inbound queue, waiting while it is empty. -/
  | apQpop (i : RrrI)
  /-- R242: Access processor pushes to a carriage queue, waiting while it is full. -/
  | apQpush (i : RrrI)
  /-- R243: Access-processor EXIT closes all eight queues. -/
  | apExit (i : RrrI)
  /-- R29: Data of a local load, atomic or pop arrives and is written to its destination registers. -/
  | loadDataArrival (load elem : Nat)
  /-- R197: A store becomes performed at its scope and leaves the store class. -/
  | storePerformed (store : Nat)
  /-- R192: An engine operation obtains its last local line and counts as issued. -/
  | ownershipGrant (op : Nat)
  /-- R193: The engine has read a source line and releases it, applying waiting stores. -/
  | sourceLineRelease (op line : Nat)
  /-- R195: An engine operation completes: data lands, lines release, counter, ring record and handle update in order. -/
  | engineCompletion (op : Nat)
  /-- R198: A started cancelled copy stops at its next 4 KiB destination boundary. -/
  | cancelStop (op : Nat)
  /-- R217: The local switch folds duplicate indices and partitions the cart by home package. -/
  | cartLocalSwitch (op : Nat)
  /-- R218: A home switch checks the world and partitions a sub-cart by home die and stack. -/
  | cartHomeSwitch (sub : Nat)
  /-- R219: A row engine translates, reads, pools or adds its part of a sub-cart and replies. -/
  | rowEngineCart (part : Nat)
  /-- R221: A die's bridge interface combines row-engine bag partials once every row engine has replied. -/
  | bridgePoolCombine (sub die : Nat)
  /-- R221: A switch combines an arriving die partial into a bag in arrival order. -/
  | replySwitchCombine (reply : Nat)
  /-- R223: The requester's copy engine places the rows of an arriving reply by position. -/
  | cartReplyPlace (reply : Nat)
  /-- R226: A held sub-cart proceeds in the cycle after its next hop becomes ready. -/
  | subcartHoldRelease (sub : Nat)
  /-- R226: A sub-cart held for 1 ms faults every position with NOTREADY. -/
  | subcartNotreadyTimeout (sub : Nat)
  /-- R247: Step word END ends the collective program. -/
  | collEnd (coll : Nat)
  /-- R247: Step word SEND sends a chunk to a peer or to every other rank. -/
  | collSend (coll : Nat)
  /-- R247: Step word RECV receives into a chunk, optionally combining. -/
  | collRecv (coll : Nat)
  /-- R247: Step word RRS receives, combines and forwards without writing. -/
  | collRrs (coll : Nat)
  /-- R247: Step word COPY copies a chunk to another buffer. -/
  | collCopy (coll : Nat)
  /-- R247: Step word WAIT waits for earlier steps and optionally a counter. -/
  | collWait (coll : Nat)
  /-- R247: Step word LOOP steps a loop counter and branches. -/
  | collLoop (coll : Nat)
  /-- R247: Step word CMB contributes a chunk to a switch combining table. -/
  | collCmb (coll : Nat)
  /-- R252: A slotted step starts once its time slot T0 + a × W has begun. -/
  | collSlotStart (coll : Nat)
  /-- R249: A step waiting on another party for 1 ms ends the collective with NOTREADY. -/
  | collStepTimeout (coll : Nat)
  /-- R275: A COLL held 1 ms on a port that is not ready completes with NOTREADY. -/
  | collStartTimeout (op : Nat)
  /-- R250: A contribution reaches a combining table: it allocates, combines, retires or bypasses RAW. -/
  | combineContribution (msg : Nat)
  /-- R250: A destination combines an arriving RAW contribution or partial result. -/
  | rawContributionArrival (msg : Nat)
  /-- R250: An entry not retired 1 ms after its last contribution is freed without a result. -/
  | combineEntryTimeout (entry : Nat)
  /-- R250: A bypass record incomplete 1 ms after its last contribution is dropped. -/
  | bypassRecordTimeout (rec : Nat)
  /-- R254: A trigger whose predicate first holds fires its armed operation once. -/
  | triggerFire (trig : Nat)
  /-- R254: A timebase term is evaluated every nanosecond. -/
  | triggerTimebaseTick (trig : Nat)
  /-- R340: A yielded carriage resumes at its continuation once its condition holds. -/
  | yieldResume (cid : Nat)
  /-- R282: The dispatcher accepts a head record once every dependence holds. -/
  | launchAccept (world : Bool) (q : Nat)
  /-- R286: A coach is placed on its tile once every core meets every condition. -/
  | coachPlace (launch : Nat)
  /-- R288: A coach retires once its carriages have exited, its engine work has completed and no trigger is armed. -/
  | coachRetire (coach : Nat)
  /-- R292: A successor starts on the same tile once its resources fit. -/
  | successorStart (coach : Nat)
  /-- R302: A bin's timer expires and it fires until empty. -/
  | binTimerExpiry (core bin : Nat)
  /-- R302: A fired carriage is placed on its core once a slot, registers and spill are free. -/
  | spawnedCarriagePlace (firing : Nat)
  /-- R304: A spawn coach retires when its bins are empty and every spawned carriage has exited. -/
  | spawnCoachRetire (coach : Nat)
  /-- R294: Once every concerned carriage has reached the DBR, threads are regrouped into path carriages. -/
  | dbrRegroup (cid : Nat)
  /-- R296: A deferred path carriage is formed when a carriage slot frees. -/
  | pathCarriageForm (path : Nat)
  /-- R299: When both paths have arrived, the entry frees and the parent grouping resumes at JOIN + 12. -/
  | joinReconverge (coach entry : Nat)
  /-- R342: A barrier releases its carriages when the last awaited one arrives or exits. -/
  | barRelease (coach : Nat) (coreOnly : Option Nat)
  /-- R314: A lowering ends after 4,096 cycles. -/
  | spinTimeout (cid : Nat)
  /-- R315: The arbiter grants the waiting pass of highest effective priority on a free array. -/
  | passGrant (quad : Nat)
  /-- R105: A running pass stops at a k-step boundary for a higher-priority pass. -/
  | passOvertake (quad : Nat)
  /-- R104: A pass finishes, writes back and frees its reservation-table entry. -/
  | passWriteback (quad : Nat)
  /-- R233: An append arrives at the managing row engine and reserves positions and pages. -/
  | kvReserve (op : Nat)
  /-- R233: An append's data lands, FILL rises and CURSOR publishes the ranges in order. -/
  | appendLand (op : Nat)
  /-- R327: A held append of a higher instance is released once every lower instance has appended, reached SPEND or been rejected. -/
  | specKvappRelease (op : Nat)
  /-- R236: A fork is performed all or nothing at the managing row engine. -/
  | kvforkArrive (op : Nat)
  /-- R237: A free waits for landed appends and sealing, then releases pages in one step. -/
  | kvfreeArrive (op : Nat)
  /-- R239: A prefix lookup or attach is performed at the bucket's home. -/
  | pfxLookupArrive (op : Nat)
  /-- R240: A prefix insert is tested at the bucket's home in arrival order. -/
  | pfxInsertArrive (op : Nat)
  /-- R385: Every SCRBINT µs the scrubber checks one sealed page and poisons it on a mismatch. -/
  | scrubberTick (pool : Nat)
  /-- R385: The managing row engine performs a PGCHK page check. -/
  | pgchkCheck (op : Nat)
  /-- R228: Clearing PCFG.EN takes effect after operations already arrived have completed. -/
  | poolDisable (pool : Nat)
  /-- R121: The routing engine ranks, claims and writes the choices of a ROUTE. -/
  | routeRun (op : Nat)
  /-- R386: A ROUTE held 1 ms for a routing engine that is not ready completes with NOTREADY. -/
  | routeNotreadyTimeout (op : Nat)
  /-- R321: A speculation window takes marks, runs the guess routine and forms instances. -/
  | windowStart (cid : Nat)
  /-- R324: When no instance runs, the surviving instance becomes the carriage and the loop continues or exits. -/
  | windowEnd (cid : Nat)
  /-- R361: A TLBI completes after every operation using the old entry has finished. -/
  | tlbiComplete (cid : Nat)
  /-- R308: The host advances a queue tail; an excess over the ring size stops the queue. -/
  | hostQtailWrite (world : Bool) (q : Nat) (tail : DWord)
  /-- R308: Clearing STOP discards a malformed head record or resumes the queue. -/
  | qstatStopClear (world : Bool) (q : Nat)
  /-- R228: Setting PCFG.EN checks the configuration and builds the free list. -/
  | poolEnable (pool : Nat) (cfg : DWord)
  /-- R373: A PRQ GO write with RST 0 starts saving a coach. -/
  | preemptSaveRequest (world : Bool) (prq : DWord)
  /-- R373: The coach, now without open regions or handler mode, is stopped, drained and saved. -/
  | preemptEligible (world : Bool)
  /-- R373: The deadline passes before eligibility; PRS reads REGIONS. -/
  | preemptDeadline (world : Bool)
  /-- R375: A PRQ GO write with RST 1 starts restoring a saved coach. -/
  | preemptRestoreRequest (world : Bool) (prq : DWord)
  /-- R375: A restored coach is placed once a fitting tile frees and CTXLD succeeds. -/
  | restorePlace (world : Bool)
  /-- R377: A debugger request halts a carriage at an instruction boundary. -/
  | debuggerHalt (cid : Nat)
  /-- R377: A debugger read or write of a local store at COACH scope. -/
  | debuggerAccess (core addr : Nat) (data : Option (List Byte))
  /-- R389: A write to a system register that has no behaviour of its own. -/
  | mgmtRegisterWrite (world : Bool) (reg : Word) (data : DWord)
  /-- R387: The host writes the reset key and the package resets. -/
  | resetKeyWrite (key : DWord)
  /-- R363: A host CXL.mem request is checked against the world and served. -/
  | cxlMemRequest (world : Bool) (hpa : Nat) (data : Option (List Byte))
  /-- R366: SPDM GET_VERSION over the DOE mailbox. -/
  | getVersion (request : List Byte)
  /-- R366: SPDM GET_CAPABILITIES. -/
  | getCapabilities (request : List Byte)
  /-- R366: SPDM NEGOTIATE_ALGORITHMS. -/
  | negotiateAlgorithms (request : List Byte)
  /-- R366: SPDM GET_DIGESTS. -/
  | getDigests (request : List Byte)
  /-- R366: SPDM GET_CERTIFICATE, slot 0 holding the Sareithar chain. -/
  | getCertificate (request : List Byte)
  /-- R366: SPDM CHALLENGE. -/
  | challenge (request : List Byte)
  /-- R366: SPDM GET_MEASUREMENTS of firmware, monitor, configuration and identity. -/
  | getMeasurements (request : List Byte)
  /-- R364: A port exchanges and verifies identity records before bringing up its link. -/
  | akbexLinkTraining (port : Nat) (peerRecord : List Byte)
  /-- R381: A flit failing its link CRC is replayed; eight failures take the link down. -/
  | linkCrcReplay (port : Nat) (good : Bool)
  /-- R365: At boot the configuration record's signature is checked and its settings applied. -/
  | bootConfigVerify (record : BootRecord)
  /-- R386: A function passes its self-test and sets its readiness bit. -/
  | selfTestPass (fn : Nat) (vrcap : Nat)
  /-- R382: A corrected error delivers data corrected and increments CECNT. -/
  | correctedError (fn : Nat)
  /-- R383: An uncorrectable data error poisons the affected units and increments UECNT. -/
  | containedError (fn : Nat) (places : List PoisonPlace)
  /-- R382: An error in control state is logged to UNCLOG and the package resets. -/
  | uncontainedError (fn : Nat) (cls loc : BitVec 24)
  /-- R387: Reset clears all state, drops links and restarts boot and self-tests. -/
  | packageReset
  /-- R422: Every 10 µs the power manager samples power and steps the clock down when over 2,400 W. -/
  | powerSample (milliwatt : Nat) (milliCelsius : List Nat)
  /-- R422: After 1 ms below 2,300 W the clock rises one 125 MHz step. -/
  | clockStepUp
  /-- R423: A junction at 115 °C resets the package with a thermal cause. -/
  | thermalTrip (celsius : Nat)
  /-- R423: Module input below 40 V for over 1 ms drops power to the package. -/
  | inputUndervoltage (millivolt micros : Nat)
  /-- R387: An Akbex link goes down because the peer resets or drops it, and the port's readiness bit clears. -/
  | peerLinkDown (port : Nat)
  /-- R386: The CXL link goes down and readiness bit 159 clears. -/
  | cxlLinkDown
  /-- R270: An AMOG, SIG, peer copy access, fabric TLBI or collective flit from a peer package arrives at an Akbex port and is checked against the world and served. -/
  | peerRequestArrival (port : Nat) (req : PeerRequest)
  /-- R384: A host read of a management register with a behaviour of its own, such as ERRADDR, which frees it to latch the next poisoned address. -/
  | mgmtRegisterRead (world : Bool) (reg : Word)
  deriving DecidableEq, Repr

end Sys2Proof
end

