-- ==== Sys2Proof/Machine/Checks.lean ====
section
/-! DEFINITION. The decode checks that need no state (03 R63, steps 4 and 5 of R64): for every instruction whether its
modifiers are reserved and whether its operand fields are illegal, from the field table of each entry. -/
namespace Sys2Proof.Machine

/-! ## Operand fields (02 R26-R28) -/

/-- The field names a v register (0-1535). -/
def fV (f : OpField) : Bool := f.toNat < 1536
/-- The field names an s register (1536-1791). -/
def fS (f : OpField) : Bool := 1536 ≤ f.toNat && f.toNat < 1792
/-- A v register, or an s register read as a uniform operand. -/
def fVS (f : OpField) : Bool := f.toNat < 1792
/-- A register pair of v registers (02 R28). -/
def fPair (f : OpField) : Bool := fV f && f.toNat % 2 == 0
/-- A 64-bit operand: a pair of v registers, or one s register. -/
def fPairS (f : OpField) : Bool := fS f || fPair f
/-- Four v registers from a multiple of 4 (03 R61). -/
def fQuad (f : OpField) : Bool := fV f && f.toNat % 4 == 0
/-- A register number of a class of `n` registers (02 R27). -/
def fN (n : Nat) (f : OpField) : Bool := f.toNat < n
def f0 (f : OpField) : Bool := f == 0

/-- A v operand, or a pair when `wide`. -/
def fVw (wide : Bool) (f : OpField) : Bool := if wide then fPair f else fV f
/-- A v or uniform operand, or a 64-bit one when `wide`. -/
def fVSw (wide : Bool) (f : OpField) : Bool := if wide then fPairS f else fVS f

/-! ## Word 2 -/

/-- RND is one of the defined modes (03 R49). -/
def rndOk (r : BitVec 3) : Bool := r.toNat ≤ 4
/-- No XMOD bit and no RND in an instruction that does not round (03 R49, 08 R130). -/
def plainRrr (t : Rrr) : Bool := t.xmod == 0 && t.rnd == 0
/-- XMOD clear and RND a mode. -/
def roundRrr (t : Rrr) : Bool := t.xmod == 0 && rndOk t.rnd

def isRri : AluTail → Bool
  | .rrr _ => false
  | .rri _ => true

/-- The RRR tail passes `p`; the RRI tail has no such field. -/
def rrrAnd (p : Rrr → Bool) : AluTail → Bool
  | .rrr t => p t
  | .rri _ => true

/-- DBR, JOIN, BAR, SPLOOP, SPEND and ERET have no guard (03 R52). -/
def noGuard (h : Head) : Bool := h.guard == 0 && !h.gneg

/-! ## Integer instructions (08) -/

/-- Which bits of the integer MOD an instruction may set (08 R130). -/
def intModOk (i : IntI) (imm sat u : Bool) (subMax lowMax : Nat) : Bool :=
  (imm || !isRri i.t) && (sat || !i.sat) && (u || !i.u) && i.sub.toNat ≤ subMax && i.low.toNat ≤ lowMax

/-- 08 R131-R136: the modifiers of the two-operand scalar instructions. -/
def scalarMod (i : IntI) (imm sat u : Bool) (subMax lowMax : Nat) : Bool :=
  intModOk i imm sat u subMax lowMax && rrrAnd plainRrr i.t

/-- 08 R127: D, A, B name s registers; in the RRI form B is 0 (R129). -/
def scalarOps (i : IntI) : Bool :=
  fS i.h.d && fS i.h.a && (if isRri i.t then f0 i.h.b else fS i.h.b) && rrrAnd (fun t => f0 t.c) i.t

/-- 08 R134: SCMP's D is a k register. -/
def scmpOps (i : IntI) : Bool :=
  fN 16 i.h.d && fS i.h.a && (if isRri i.t then f0 i.h.b else fS i.h.b) && rrrAnd (fun t => f0 t.c) i.t

/-- 08 R135: SMOV's selector, and U only with an immediate. -/
def smovMod (i : IntI) : Bool :=
  !i.sat && i.sub == 0 && i.low.toNat ≤ 3 && (i.low == 0 || !isRri i.t) && (!i.u || isRri i.t) &&
    rrrAnd plainRrr i.t

def smovOps (i : IntI) : Bool :=
  f0 i.h.b && rrrAnd (fun t => f0 t.c) i.t &&
    (if i.low == 0 then fS i.h.d && (if isRri i.t then f0 i.h.a else fS i.h.a)
     else if i.low == 1 then fS i.h.d && f0 i.h.a
     else if i.low == 2 then f0 i.h.d && fS i.h.a
     else fS i.h.d && fN 8 i.h.a)

/-- 08 R136: SBITC has no B and no immediate. -/
def sbitcOps (i : IntI) : Bool :=
  fS i.h.d && fS i.h.a && f0 i.h.b && rrrAnd (fun t => f0 t.c) i.t

/-- 08 R138: SFMA's MOD holds F32 and the two negations; it rounds. -/
def sfmaMod (i : IntI) : Bool := !i.sat && !i.u && i.sub == 0 && rrrAnd roundRrr i.t

def sfmaOps (i : IntI) : Bool :=
  fS i.h.d && fS i.h.a && (if isRri i.t then f0 i.h.b else fS i.h.b) && rrrAnd (fun t => fS t.c) i.t

/-- 08 R139: the pairs of SFCVT with the U and SAT each defines. -/
def sfcvtMod (i : IntI) : Bool :=
  i.sub.toNat ≤ 8 && i.low == 0 && (!i.u || 2 ≤ i.sub.toNat) &&
    (!i.sat || i.sub == 1 || i.sub == 2 || i.sub == 3 || i.sub == 6 || i.sub == 7) && rrrAnd roundRrr i.t

/-- 08 R139: in the RRI form the source is the immediate, so A is unused. -/
def sfcvtOps (i : IntI) : Bool :=
  fS i.h.d && (if isRri i.t then f0 i.h.a else fS i.h.a) && f0 i.h.b && rrrAnd (fun t => f0 t.c) i.t

/-- 08 R137: SGET and SPUT with the selectors of 02 R32. -/
def sgetOps (i : RriI) : Bool := fS i.h.d && f0 i.h.a && f0 i.h.b && i.imm.toNat ≤ 10
def sputOps (i : RriI) : Bool := f0 i.h.d && fS i.h.a && f0 i.h.b && i.imm.toNat ≤ 1

/-- 08 R128, R140: a vector instruction with sources A and B; `wide` when they are 64 bits. -/
def vecOps (wide : Bool) (i : IntI) : Bool :=
  fVw wide i.h.d && fVSw wide i.h.a && (if isRri i.t then f0 i.h.b else fVSw wide i.h.b) &&
    rrrAnd (fun t => f0 t.c) i.t

/-- The same with a third source C, D in the RRI form (08 R129). -/
def vecOps3 (i : IntI) : Bool :=
  fV i.h.d && fVS i.h.a && (if isRri i.t then f0 i.h.b else fVS i.h.b) && rrrAnd (fun t => fVS t.c) i.t

/-- One source A, no B (08 R143, R146). -/
def vecOps1 (i : IntI) : Bool := fV i.h.d && fVS i.h.a && f0 i.h.b && rrrAnd (fun t => f0 t.c) i.t

def vcmpOps (wide : Bool) (i : IntI) : Bool :=
  fN 16 i.h.d && fVSw wide i.h.a && (if isRri i.t then f0 i.h.b else fVSw wide i.h.b) &&
    rrrAnd (fun t => f0 t.c) i.t

def vmulMod (i : IntI) : Bool :=
  intModOk i true true true 1 0 && !(i.sat && i.sub == 1) && rrrAnd plainRrr i.t

/-- 08 R142: VSEL and VMOV admit U only with W64. -/
def w64Mod (i : IntI) (subMax : Nat) : Bool :=
  intModOk i true false true subMax 1 && (!i.u || i.low == 1) && rrrAnd plainRrr i.t

def vmovOps (i : IntI) : Bool :=
  let w := i.low == 1
  fVw w i.h.d && f0 i.h.b && (if isRri i.t then f0 i.h.a else fVSw w i.h.a) && rrrAnd (fun t => f0 t.c) i.t

def vtidOps (i : IntI) : Bool := fV i.h.d && f0 i.h.a && f0 i.h.b && rrrAnd (fun t => f0 t.c) i.t

/-- 08 R146, R148: SAT only with the kind ADD. -/
def reduceMod (i : IntI) : Bool :=
  intModOk i false true true 5 1 && (!i.sat || i.sub == 0) && rrrAnd plainRrr i.t

/-- 08 R147: the operands of each VPRED form. -/
def vpredOps (i : IntI) : Bool :=
  rrrAnd (fun t => f0 t.c) i.t &&
    (if i.sub.toNat ≤ 3 then fN 16 i.h.d && fN 16 i.h.a && fN 16 i.h.b
     else if i.sub == 4 then fN 16 i.h.d && fVS i.h.a && f0 i.h.b
     else if i.sub == 5 then fV i.h.d && fN 16 i.h.a && f0 i.h.b
     else fS i.h.d && fN 16 i.h.a && f0 i.h.b)

def vrdsOps (i : IntI) : Bool :=
  fS i.h.d && fVSw (i.low == 1) i.h.a && f0 i.h.b && rrrAnd (fun t => f0 t.c) i.t

/-! ## Vector floating point (09 R151, R152) -/

def fpNeg2 (i : FpI) : Bool := !i.negc
def fpNeg1 (i : FpI) : Bool := !i.negb && !i.absb && !i.negc

def fpMod (neg : FpI → Bool) (rounds : Bool) (subMax : Nat) (i : FpI) : Bool :=
  neg i && i.sub.toNat ≤ subMax && rrrAnd (if rounds then roundRrr else plainRrr) i.t

def fpBinOps (wide : Bool) (i : FpI) : Bool :=
  fVw wide i.h.d && fVSw wide i.h.a && (if isRri i.t then f0 i.h.b else fVSw wide i.h.b) &&
    rrrAnd (fun t => f0 t.c) i.t

def fpFmaOps (wide : Bool) (i : FpI) : Bool :=
  fVw wide i.h.d && fVSw wide i.h.a && (if isRri i.t then f0 i.h.b else fVSw wide i.h.b) &&
    rrrAnd (fun t => fVSw wide t.c) i.t

def fpCmpOps (wide : Bool) (i : FpI) : Bool :=
  fN 16 i.h.d && fVSw wide i.h.a && (if isRri i.t then f0 i.h.b else fVSw wide i.h.b) &&
    rrrAnd (fun t => f0 t.c) i.t

/-- Unary: the RRI immediate stands in the place of A. -/
def fpUnOps (dWide aWide : Bool) (i : FpI) : Bool :=
  fVw dWide i.h.d && f0 i.h.b && (if isRri i.t then f0 i.h.a else fVSw aWide i.h.a) &&
    rrrAnd (fun t => f0 t.c) i.t

/-! ## Conversions (09 R160-R164) -/

/-- Bits of an element of a format code (09 R160, 03 R60). -/
def fmtBits (c : BitVec 4) : Nat :=
  match c.toNat with
  | 0 => 64
  | 1 => 32
  | 2 => 16
  | 3 => 16
  | 4 => 8
  | 5 => 8
  | 6 => 4
  | 7 => 8
  | 8 => 8
  | 9 => 32
  | 10 => 64
  | 11 => 8
  | 12 => 32
  | 13 => 64
  | _ => 0

def spos (t : Rrr) : Nat := (t.xmod.extractLsb' 0 3).toNat
def dpos (t : Rrr) : Nat := (t.xmod.extractLsb' 3 3).toNat

/-- A position fits its element width (09 R160). -/
def posOk (bits pos : Nat) : Bool := if bits ≥ 32 then pos == 0 else pos < 32 / bits

def cvtMod (legal : Bool) (i : CvtI) : Bool :=
  legal && rndOk i.t.rnd && i.t.xmod.extractLsb' 6 12 == 0 && posOk (fmtBits i.srcf) (spos i.t) &&
    posOk (fmtBits i.dstf) (dpos i.t) && (!i.zx || fmtBits i.dstf < 32) && (i.dstf != 6 || i.t.rnd == 0)

def isFloat8 (c : BitVec 4) : Bool := c.toNat ≤ 7
def isFloat6 (c : BitVec 4) : Bool := c.toNat ≤ 5
def isIntFmt (c : BitVec 4) : Bool := 8 ≤ c.toNat && c.toNat ≤ 13
def isWideF (c : BitVec 4) : Bool := c == 1 || c == 2 || c == 3
def isQuant (c : BitVec 4) : Bool := c == 6 || c == 4 || c == 5

def cvtOps (block : Bool) (i : CvtI) : Bool :=
  fVw (fmtBits i.dstf == 64) i.h.d && fVSw (fmtBits i.srcf == 64) i.h.a &&
    (if block then fVS i.h.b else f0 i.h.b) && f0 i.t.c

/-! ## Local memory (16 R258-R263) -/

def locMod (load : Bool) (i : LocI) : Bool :=
  i.wid.toNat ≤ 4 && i.aop == 0 && i.low == 0 && (!i.u || (load && i.wid.toNat ≤ 1))

def widReg (wid : BitVec 3) (f : OpField) : Bool :=
  if wid == 3 then fPair f else if wid == 4 then fQuad f else fV f

def locOps (i : LocI) : Bool := widReg i.wid i.h.d && fVS i.h.a && fVS i.h.b

/-- AOP and width of an atomic (03 R61, 16 R260): FADD and FMAX need 32 bits. -/
def atomMod (i : LocI) : Bool :=
  (i.wid == 2 || i.wid == 3) && i.aop.toNat ≤ 11 && (i.aop.toNat < 10 || i.wid == 2) && !i.u

def atomOps (i : LocI) : Bool :=
  fVS i.h.a && fVSw (i.wid == 3) i.h.b &&
    (if i.low.getLsbD 0 && i.aop != 9 then f0 i.h.d else fVw (i.wid == 3) i.h.d)

/-- 16 R261: with MDEF the three fields of word 2 must be 0. -/
def mdefOk (i : LocI) : Bool :=
  !i.low.getLsbD 1 || (i.t.order == 0 && i.t.scope == 0 && i.t.evict == 0)

def sldMod (i : LocI) : Bool :=
  i.wid.toNat ≤ 3 && i.aop == 0 && (!i.u || i.wid.toNat ≤ 2) && mdefOk i
def sstMod (i : LocI) : Bool := i.wid.toNat ≤ 3 && i.aop == 0 && !i.u && mdefOk i
def sssOps (h : Head) : Bool := fS h.d && fS h.a && fS h.b

def fenceMod (i : LocI) : Bool :=
  i.wid == 0 && !i.u && i.aop == 0 && i.low == 0 && 2 ≤ i.t.order.toNat && i.t.ofs == 0
def zeroDab (h : Head) : Bool := f0 h.d && f0 h.a && f0 h.b

/-! ## RRR, RRI, BR and MEM instructions of 21, 25, 10 -/

def rrrMod (mask : BitVec 10) (i : RrrI) : Bool := (i.mod &&& ~~~mask) == 0 && plainRrr i.t
def rriMod (immMask : Word) (i : RriI) : Bool := i.mod == 0 && (i.imm &&& ~~~immMask) == 0

/-! ## Engine instructions (16 R264-R279) -/

def engMod (modMask : BitVec 9) (emodMask : BitVec 16) (i : EngI) : Bool :=
  (i.mod &&& ~~~modMask) == 0 && (i.t.emod &&& ~~~emodMask) == 0 && i.t.ctr.toNat ≤ 8

def engH (i : EngI) : Bool := fN 16 i.h.d
def engSS (i : EngI) : Bool := engH i && fS i.h.a && fS i.h.b
def engS0 (i : EngI) : Bool := engH i && fS i.h.a && f0 i.h.b
def engTS (i : EngI) : Bool := engH i && fN 32 i.h.a && fS i.h.b

def cpyMod (i : EngI) : Bool :=
  engMod 0x1F8 0xFFFF i && (i.mod.extractLsb' 6 3).toNat ≤ 3 && (i.mod.extractLsb' 3 3).toNat ≤ 3
def gatpMod (i : EngI) : Bool :=
  engMod 0x1FF 0x0FFF i && (i.t.emod.extractLsb' 10 2 == 1 || i.t.emod.extractLsb' 10 2 == 2)
def amogMod (i : EngI) : Bool :=
  engMod 0 0x007F i && (i.t.emod.extractLsb' 0 4).toNat ≤ 11 &&
    ((i.t.emod.extractLsb' 0 4).toNat < 10 || !i.t.emod.getLsbD 6)
/-- 16 R271: an inc of 0 is reserved. -/
def sigNMod (i : EngI) : Bool := engMod 0 0x7FFF i && i.t.emod.extractLsb' 3 12 != 0
def sigWMod (i : EngI) : Bool := engMod 0 0x8000 i && i.t.emod.getLsbD 15
/-- 16 R272: BIND and UNBIND only on n7. -/
def ctrsMod (i : EngI) : Bool :=
  engMod 0 0x001F i && (!i.t.emod.getLsbD 4 || i.t.emod.extractLsb' 0 3 == 7)
def ctrsOps (i : EngI) : Bool := engH i && f0 i.h.b && (if i.t.emod.getLsbD 4 then f0 i.h.a else fS i.h.a)
def collMod (i : EngI) : Bool := engMod 0 0x000F i && (i.t.emod.extractLsb' 0 4).toNat ≤ 11

/-! ## Matrix and ranked lists (10 R168-R184) -/

/-- A pass: the bits of XMOD and of the low MOD bits it may set, its ASRC and whether PI may be nonzero. -/
def passMod (piOk avOk : Bool) (low : BitVec 5) (xmod : BitVec 18) (i : PassI) : Bool :=
  (piOk || i.pi == 0) && i.asrc != 3 && (avOk || i.asrc != 0) && (i.low &&& ~~~low) == 0 &&
    (i.t.xmod &&& ~~~xmod) == 0 && i.t.rnd == 0

def passA (i : PassI) : Bool :=
  if i.asrc == 0 then fV i.h.a else if i.asrc == 1 then fS i.h.a else fN 32 i.h.a

def passOps (cOk : OpField → Bool) (i : PassI) : Bool :=
  fN 32 i.h.d && passA i && fN 32 i.h.b && cOk i.t.c

def rkMod (low : BitVec 5) (i : PassI) : Bool :=
  i.pi == 0 && i.asrc == 0 && (i.low &&& ~~~low) == 0 && plainRrr i.t

/-- 10 R182: J only with the REG form. -/
def rkmrgMod (i : PassI) : Bool :=
  rkMod 0x1F i && (i.low.extractLsb' 0 3).toNat ≤ 3 && (i.low.extractLsb' 0 3 == 0 || i.low.extractLsb' 3 2 == 0)

def rkmrgOps (i : PassI) : Bool :=
  fN 32 i.h.d && f0 i.h.b && f0 i.t.c &&
    (if i.low.extractLsb' 0 3 == 0 then fV i.h.a
     else if i.low.extractLsb' 0 3 == 3 then fN 32 i.h.a else fS i.h.a)

/-- 10 R177: what ACCDEF's immediate may hold. -/
def accdefMod (i : RriI) : Bool :=
  let kind := i.imm.getLsbD 0
  let fmt := i.imm.extractLsb' 1 2
  let k := (i.imm.extractLsb' 4 7).toNat
  i.mod == 0 && i.imm.extractLsb' 11 21 == 0 && fmt != 3 &&
    (if kind then fmt == 0 && 1 ≤ k && k ≤ 64 else k == 0 && !i.imm.getLsbD 3)

/-- 10 R178: MOD of ACCLD and ACCST. -/
def accMemMod (store : Bool) (i : MemI) : Bool :=
  i.mod.extractLsb' 0 5 == 0 &&
    (if store then i.mod.extractLsb' 7 3 != 7 else i.mod.extractLsb' 7 3 == 0 && !i.mod.getLsbD 6)

def accMemOps (i : MemI) : Bool := fN 32 i.h.d && fS i.h.a && fS i.h.b

def accstatOps (i : RrrI) : Bool :=
  fS i.h.d && fN 32 i.h.a && (if i.mod.getLsbD 1 then fS i.h.b else f0 i.h.b) && f0 i.t.c

/-- 10 R167: MOD[2] HI only in GET. -/
def tdescMod (i : RrrI) : Bool := rrrMod 0x7 i && (!i.mod.getLsbD 2 || i.mod.extractLsb' 0 2 == 3)
def tdescOps (i : RrrI) : Bool :=
  f0 i.t.c &&
    (if i.mod.extractLsb' 0 2 == 3 then fS i.h.d && fN 32 i.h.a && f0 i.h.b
     else if i.mod.extractLsb' 0 2 == 2 then fN 32 i.h.d && f0 i.h.a && f0 i.h.b
     else fN 32 i.h.d && fS i.h.a && fS i.h.b)

/-! ## Control and speculation (21 R331, R332) -/

/-- 21 R335: the 21-bit JOIN offset of DBR. -/
def dbrJofs (i : BrI) : Nat := i.mod.toNat * 2048 + i.h.b.toNat

def yieldOps (i : BrI) : Bool :=
  f0 i.h.d &&
    (if i.mod == 0 then fN 16 i.h.a && f0 i.h.b
     else if i.mod == 1 then fS i.h.a && f0 i.h.b else fN 8 i.h.a && fS i.h.b)

/-- An h number, or an s register with TOK. -/
def hOrTok (i : RrrI) : Bool := if i.mod.getLsbD 0 then fS i.h.a else fN 16 i.h.a

def guessMod (i : RrrI) : Bool :=
  rrrMod 0xF i && (if i.mod.getLsbD 3 then i.mod.extractLsb' 0 3 == 0 else i.mod.extractLsb' 0 3 != 0)
def guessOps (i : RrrI) : Bool :=
  f0 i.h.b && f0 i.t.c &&
    (if i.mod.getLsbD 3 then f0 i.h.d && f0 i.h.a else (fV i.h.d && fV i.h.a) || (fS i.h.d && fS i.h.a))
def acceptMod (i : RrrI) : Bool :=
  plainRrr i.t && (i.mod.extractLsb' 0 2 == 1 || i.mod.extractLsb' 2 8 == 0)
def acceptOps (i : RrrI) : Bool :=
  fVS i.h.d && f0 i.h.a && f0 i.t.c && (if i.mod.getLsbD 1 then fS i.h.b else f0 i.h.b)

def tlbiMod (i : RrrI) : Bool := rrrMod 0xF i && (i.mod.extractLsb' 0 3).toNat ≤ 2
def tlbiOps (i : RrrI) : Bool :=
  f0 i.h.d && f0 i.t.c &&
    (if i.mod.extractLsb' 0 3 == 0 then fS i.h.a && fS i.h.b
     else if i.mod.extractLsb' 0 3 == 1 then f0 i.h.a && fS i.h.b else f0 i.h.a && f0 i.h.b)

/-- Bits of an immediate that 25 R388 marks 0 are no modifier bits. -/
def haltcOps (i : RriI) : Bool :=
  i.imm.toNat < 4 && f0 i.h.b && (if i.imm == 2 then fS i.h.d && f0 i.h.a else f0 i.h.d && fS i.h.a)

/-! ## Access processor (14 R242) -/

/-- The fields of access-processor code name s0-s31 and k0-k7. -/
def apS (f : OpField) : Bool := 1536 ≤ f.toNat && f.toNat < 1568
def apGuard (h : Head) : Bool := h.guard.toNat < 8
def apSldMod (i : LocI) : Bool := i.wid.toNat ≤ 3 && i.aop == 0 && (!i.u || i.wid.toNat ≤ 2) && i.low != 3
def apSldOps (i : LocI) : Bool := apGuard i.h && apS i.h.d && apS i.h.a && apS i.h.b

/-! ## The checks per instruction -/

/-- One of the 80 unassigned opcodes (03 R55, R63). -/
def unassigned (o : BitVec 8) : Bool :=
  !([(0x00, 0x19), (0x20, 0x35), (0x38, 0x3D), (0x40, 0x5A), (0x60, 0x7D), (0x80, 0x8D), (0x90, 0xA2), (0xB0, 0xC6),
    (0xE0, 0xE8)].any (fun r => r.1 ≤ o.toNat && o.toNat ≤ r.2))

/-- The modifiers of the instruction are defined and their values not reserved (03 R63, step 4 of R64). -/
def modOk : Instr → Bool
  | .ill _ => true
  | .reservedOpcode o _ => unassigned o
  | .sadd i => scalarMod i true true true 0 0
  | .ssub i => scalarMod i true true true 0 0
  | .smul i => scalarMod i true true true 0 0
  | .smulh i => scalarMod i true false true 0 0
  | .sdiv i => scalarMod i true true true 0 0
  | .srem i => scalarMod i true false true 0 0
  | .sand i => scalarMod i true false true 0 0
  | .sor i => scalarMod i true false true 0 0
  | .sxor i => scalarMod i true false true 0 0
  | .sshl i => scalarMod i true false true 0 0
  | .sshr i => scalarMod i true false true 0 0
  | .ssra i => scalarMod i true false true 0 0
  | .smin i => scalarMod i true false true 0 0
  | .smax i => scalarMod i true false true 0 0
  | .scmp i => scalarMod i true false true 5 0
  | .ssel i => scalarMod i true false true 15 0
  | .smov i => smovMod i
  | .sbfx i => scalarMod i true false true 0 0
  | .sbfi i => scalarMod i true false false 0 0
  | .sbitc i => scalarMod i false false false 4 0
  | .slea i => scalarMod i true false true 0 7
  | .sget i => i.mod == 0
  | .sput i => i.mod == 0
  | .sfma i => sfmaMod i
  | .sfcvt i => sfcvtMod i
  | .bra i => i.mod == 0
  | .brx i => rriMod 0xFFFF i
  | .lpad i => rriMod 0xFFFF i
  | .call i => i.mod == 0
  | .ret i => rrrMod 0 i
  | .loop i => i.mod == 0
  | .dbr _ => true
  | .join i => rrrMod 0 i
  | .exit i => rrrMod 1 i
  | .yield i => i.mod.toNat ≤ 2
  | .waitc i => i.mod == 0
  | .waith i => rrrMod 1 i
  | .tsth i => rrrMod 3 i && i.mod != 3
  | .canh i => rrrMod 1 i
  | .bar i => rriMod 7 i && (i.imm == 0 || i.imm == 1 || i.imm == 3)
  | .launch i => rrrMod 1 i
  | .spawn i => rrrMod 0 i
  | .spawnf i => rrrMod 0 i
  | .trap i => i.mod == 0
  | .brk i => i.mod == 0
  | .sysc i => i.mod == 0
  | .pause i => rriMod 0xFFFF i
  | .sploop i => i.mod == 0
  | .guess i => guessMod i
  | .accept i => acceptMod i
  | .spend i => rrrMod 1 i
  | .spmark i => rrrMod 0 i
  | .spquit i => rrrMod 0 i
  | .vaddI32 i => intModOk i true true true 0 0 && rrrAnd plainRrr i.t
  | .vaddI64 i => intModOk i true true true 0 0 && rrrAnd plainRrr i.t
  | .vsubI32 i => intModOk i true true true 0 0 && rrrAnd plainRrr i.t
  | .vsubI64 i => intModOk i true true true 0 0 && rrrAnd plainRrr i.t
  | .vmulI32 i => vmulMod i
  | .vmulI64 i => intModOk i true true true 0 0 && rrrAnd plainRrr i.t
  | .vmadI32 i => intModOk i true true true 0 0 && rrrAnd plainRrr i.t
  | .vand i => intModOk i true false false 0 0 && rrrAnd plainRrr i.t
  | .vor i => intModOk i true false false 0 0 && rrrAnd plainRrr i.t
  | .vxor i => intModOk i true false false 0 0 && rrrAnd plainRrr i.t
  | .vshl i => intModOk i true false false 0 0 && rrrAnd plainRrr i.t
  | .vshr i => intModOk i true false false 0 0 && rrrAnd plainRrr i.t
  | .vsra i => intModOk i true false false 0 0 && rrrAnd plainRrr i.t
  | .vminI32 i => intModOk i true false true 0 0 && rrrAnd plainRrr i.t
  | .vmaxI32 i => intModOk i true false true 0 0 && rrrAnd plainRrr i.t
  | .vcmpI32 i => intModOk i true false true 5 0 && rrrAnd plainRrr i.t
  | .vcmpI64 i => intModOk i true false true 5 0 && rrrAnd plainRrr i.t
  | .vsel i => w64Mod i 15
  | .vmov i => w64Mod i 0
  | .vbfx i => intModOk i true false true 0 0 && rrrAnd plainRrr i.t
  | .vbitc i => intModOk i false false false 4 0 && rrrAnd plainRrr i.t
  | .vtid i => intModOk i false false false 4 0 && rrrAnd plainRrr i.t
  | .vshfl i => intModOk i true false false 3 7 && rrrAnd plainRrr i.t
  | .vscan i => reduceMod i
  | .vpred i => intModOk i false false false 7 0 && rrrAnd plainRrr i.t
  | .vrds i => reduceMod i
  | .vdot4I8 i => intModOk i true true false 0 3 && rrrAnd plainRrr i.t
  | .vfaddF32 i => fpMod fpNeg2 true 0 i
  | .vfaddF64 i => fpMod fpNeg2 true 0 i
  | .vfmulF32 i => fpMod fpNeg2 true 0 i
  | .vfmulF64 i => fpMod fpNeg2 true 0 i
  | .vfmaF32 i => fpMod (fun _ => true) true 0 i
  | .vfmaF64 i => fpMod (fun _ => true) true 0 i
  | .vfmaH2 i => fpMod (fun _ => true) true 0 i
  | .vfmaBf2 i => fpMod (fun _ => true) true 0 i
  | .vfminF32 i => fpMod fpNeg2 false 1 i
  | .vfmaxF32 i => fpMod fpNeg2 false 1 i
  | .vfminF64 i => fpMod fpNeg2 false 1 i
  | .vfmaxF64 i => fpMod fpNeg2 false 1 i
  | .vfcmpF32 i => fpMod fpNeg2 false 7 i
  | .vfcmpF64 i => fpMod fpNeg2 false 7 i
  | .vfdivF32 i => fpMod fpNeg2 true 0 i
  | .vfdivF64 i => fpMod fpNeg2 true 0 i
  | .vfsqrtF32 i => fpMod fpNeg1 true 0 i
  | .vfsqrtF64 i => fpMod fpNeg1 true 0 i
  | .vfrcpF32 i => fpMod fpNeg1 true 0 i
  | .vfrsqF32 i => fpMod fpNeg1 true 0 i
  | .vfexp2F32 i => fpMod fpNeg1 true 0 i
  | .vflog2F32 i => fpMod fpNeg1 true 0 i
  | .vfclass i => fpMod fpNeg1 false 1 i
  | .vfrnd i => fpMod fpNeg1 true 3 i
  | .vcvtFf i => cvtMod (isFloat8 i.srcf && isFloat8 i.dstf && i.srcf != i.dstf) i
  | .vcvtFi i => cvtMod (isFloat6 i.srcf && isIntFmt i.dstf) i
  | .vcvtIf i => cvtMod (isIntFmt i.srcf && isFloat6 i.dstf) i
  | .vqnt i => cvtMod (isWideF i.srcf && isQuant i.dstf) i
  | .vdqnt i => cvtMod (isQuant i.srcf && isWideF i.dstf) i
  | .vbsc i => fpMod fpNeg1 false 3 i
  | .lds i => locMod true i
  | .sts i => locMod false i
  | .ldd i => locMod true i
  | .std i => locMod false i
  | .ldl i => locMod true i
  | .stl i => locMod false i
  | .atoms i => atomMod i && !i.low.getLsbD 1
  | .atomd i => atomMod i && !i.low.getLsbD 1
  | .fence i => fenceMod i
  | .sld i => sldMod i
  | .sst i => sstMod i
  | .satom i => atomMod i && mdefOk i
  | .qpop i => rrrMod 0 i
  | .qpush i => rrrMod 0 i
  | .cpy i => cpyMod i
  | .cpyt i => engMod 0x1FF 0x3FFF i
  | .gat i => engMod 0 0x03FF i
  | .gatp i => gatpMod i
  | .sca i => engMod 0 0x03FF i
  | .scaa i => engMod 0 0x03FF i
  | .amog i => amogMod i
  | .sigN i => sigNMod i
  | .sigW i => sigWMod i
  | .ctrs i => ctrsMod i
  | .triga i => engMod 0 1 i
  | .coll i => collMod i
  | .kvapp i => engMod 0 0xFF01 i
  | .kvfork i => engMod 0 1 i
  | .kvmap i => engMod 0 0 i
  | .kvfree i => engMod 0 1 i
  | .pfxf i => engMod 0 1 i
  | .pfxi i => engMod 0 0 i
  | .route i => engMod 0 0 i
  | .edrn i => engMod 0 1 i
  | .mmaE4 i => passMod true true 0x10 0xC000 i
  | .mmaE5 i => passMod true true 0x10 0xC000 i
  | .mmaNx4 i => passMod true true 0x10 0xC000 i
  | .mmaBf16 i => passMod true true 0x10 0 i
  | .mmaF16 i => passMod true true 0x10 0 i
  | .mmaF32 i => passMod false true 0x10 0 i
  | .mmaF64 i => passMod false true 0x10 0 i
  | .mmaI8 i => passMod false true 0x13 0 i
  | .mmspE4 i => passMod true false 0x10 0xC000 i
  | .mmspBf16 i => passMod true false 0x10 0 i
  | .mmssBf16 i => passMod false false 0x10 0xF i
  | .mmrkBf16 i => passMod true true 0 0 i
  | .accdef i => accdefMod i
  | .accld i => accMemMod false i
  | .accst i => accMemMod true i
  | .accstat i => rrrMod 3 i
  | .tld i => engMod 0 1 i
  | .tst i => engMod 0 1 i
  | .tdesc i => tdescMod i
  | .rkins i => rkMod 0x3 i
  | .rkmrg i => rkmrgMod i
  | .rkthr i => rkMod 0x7 i
  | .rkout i => rkMod 0x7 i
  | .sysrd i => i.mod == 0
  | .syswr i => i.mod == 0
  | .eret i => rrrMod 0 i
  | .monc i => i.mod == 0
  | .tlbi i => tlbiMod i
  | .ctxsv i => i.mod == 0
  | .ctxld i => i.mod == 0
  | .haltc i => i.mod == 0 && (i.imm &&& 3) != 3
  | .pgchk i => engMod 0 0 i
  | .apSld i => apSldMod i
  | .apQpop i => rrrMod 0 i
  | .apQpush i => rrrMod 0 i
  | .apExit i => rrrMod 0 i
  | .loadDataArrival _ _ => true
  | .storePerformed _ => true
  | .ownershipGrant _ => true
  | .sourceLineRelease _ _ => true
  | .engineCompletion _ => true
  | .cancelStop _ => true
  | .cartLocalSwitch _ => true
  | .cartHomeSwitch _ => true
  | .rowEngineCart _ => true
  | .bridgePoolCombine _ _ => true
  | .replySwitchCombine _ => true
  | .cartReplyPlace _ => true
  | .subcartHoldRelease _ => true
  | .subcartNotreadyTimeout _ => true
  | .collEnd _ => true
  | .collSend _ => true
  | .collRecv _ => true
  | .collRrs _ => true
  | .collCopy _ => true
  | .collWait _ => true
  | .collLoop _ => true
  | .collCmb _ => true
  | .collSlotStart _ => true
  | .collStepTimeout _ => true
  | .collStartTimeout _ => true
  | .combineContribution _ => true
  | .rawContributionArrival _ => true
  | .combineEntryTimeout _ => true
  | .bypassRecordTimeout _ => true
  | .triggerFire _ => true
  | .triggerTimebaseTick _ => true
  | .yieldResume _ => true
  | .hostQtailWrite _ _ _ => true
  | .qstatStopClear _ _ => true
  | .launchAccept _ _ => true
  | .coachPlace _ => true
  | .coachRetire _ => true
  | .successorStart _ => true
  | .binTimerExpiry _ _ => true
  | .spawnedCarriagePlace _ => true
  | .spawnCoachRetire _ => true
  | .dbrRegroup _ => true
  | .pathCarriageForm _ => true
  | .joinReconverge _ _ => true
  | .barRelease _ _ => true
  | .spinTimeout _ => true
  | .passGrant _ => true
  | .passOvertake _ => true
  | .passWriteback _ => true
  | .kvReserve _ => true
  | .appendLand _ => true
  | .specKvappRelease _ => true
  | .kvforkArrive _ => true
  | .kvfreeArrive _ => true
  | .pfxLookupArrive _ => true
  | .pfxInsertArrive _ => true
  | .scrubberTick _ => true
  | .pgchkCheck _ => true
  | .poolEnable _ _ => true
  | .poolDisable _ => true
  | .routeRun _ => true
  | .routeNotreadyTimeout _ => true
  | .windowStart _ => true
  | .windowEnd _ => true
  | .tlbiComplete _ => true
  | .preemptSaveRequest _ _ => true
  | .preemptEligible _ => true
  | .preemptDeadline _ => true
  | .preemptRestoreRequest _ _ => true
  | .restorePlace _ => true
  | .debuggerHalt _ => true
  | .debuggerAccess _ _ _ => true
  | .mgmtRegisterWrite _ _ _ => true
  | .resetKeyWrite _ => true
  | .cxlMemRequest _ _ _ => true
  | .getVersion _ => true
  | .getCapabilities _ => true
  | .negotiateAlgorithms _ => true
  | .getDigests _ => true
  | .getCertificate _ => true
  | .challenge _ => true
  | .getMeasurements _ => true
  | .akbexLinkTraining _ _ => true
  | .linkCrcReplay _ _ => true
  | .bootConfigVerify _ => true
  | .selfTestPass _ _ => true
  | .correctedError _ => true
  | .containedError _ _ => true
  | .uncontainedError _ _ _ => true
  | .packageReset => true
  | .powerSample _ _ => true
  | .clockStepUp => true
  | .thermalTrip _ => true
  | .inputUndervoltage _ _ => true
  | .peerLinkDown _ => true
  | .cxlLinkDown => true
  | .peerRequestArrival _ _ => true
  | .mgmtRegisterRead _ _ => true

/-- The operand fields hold values of their classes, unused fields and forbidden guards are 0 (03 R63, step 5 of
R64). -/
def opsOk : Instr → Bool
  | .ill _ => true
  | .reservedOpcode _ _ => true
  | .sadd i => scalarOps i
  | .ssub i => scalarOps i
  | .smul i => scalarOps i
  | .smulh i => scalarOps i
  | .sdiv i => scalarOps i
  | .srem i => scalarOps i
  | .sand i => scalarOps i
  | .sor i => scalarOps i
  | .sxor i => scalarOps i
  | .sshl i => scalarOps i
  | .sshr i => scalarOps i
  | .ssra i => scalarOps i
  | .smin i => scalarOps i
  | .smax i => scalarOps i
  | .scmp i => scmpOps i
  | .ssel i => scalarOps i
  | .smov i => smovOps i
  | .sbfx i => scalarOps i
  | .sbfi i => scalarOps i
  | .sbitc i => sbitcOps i
  | .slea i => scalarOps i
  | .sget i => sgetOps i
  | .sput i => sputOps i
  | .sfma i => sfmaOps i
  | .sfcvt i => sfcvtOps i
  | .bra i => zeroDab i.h
  | .brx i => f0 i.h.d && fS i.h.a && fS i.h.b
  | .lpad i => zeroDab i.h
  | .call i => fS i.h.d && f0 i.h.a && f0 i.h.b
  | .ret i => f0 i.h.d && fS i.h.a && f0 i.h.b && f0 i.t.c
  | .loop i => fS i.h.d && f0 i.h.a && f0 i.h.b
  | .dbr i => f0 i.h.d && fN 16 i.h.a && dbrJofs i != 0 && noGuard i.h
  | .join i => zeroDab i.h && f0 i.t.c && noGuard i.h
  | .exit i => f0 i.h.d && f0 i.h.b && f0 i.t.c && (if i.mod.getLsbD 0 then fS i.h.a else f0 i.h.a)
  | .yield i => yieldOps i
  | .waitc i => zeroDab i.h
  | .waith i => fS i.h.d && hOrTok i && f0 i.h.b && f0 i.t.c
  | .tsth i => fS i.h.d && hOrTok i && f0 i.h.b && (if i.mod.getLsbD 1 then f0 i.t.c else fN 16 i.t.c)
  | .canh i => f0 i.h.d && hOrTok i && f0 i.h.b && f0 i.t.c
  | .bar i => zeroDab i.h && noGuard i.h
  | .launch i => (fS i.h.d || f0 i.h.d) && fS i.h.a && (if i.mod.getLsbD 0 then fS i.h.b else f0 i.h.b) && f0 i.t.c
  | .spawn i => f0 i.h.d && fS i.h.a && fVS i.h.b && fVS i.t.c
  | .spawnf i => f0 i.h.d && fS i.h.a && f0 i.h.b && f0 i.t.c
  | .trap i => zeroDab i.h
  | .brk i => zeroDab i.h
  | .sysc i => zeroDab i.h
  | .pause i => zeroDab i.h
  | .sploop i => f0 i.h.d && fS i.h.a && fS i.h.b && noGuard i.h
  | .guess i => guessOps i
  | .accept i => acceptOps i
  | .spend i => fS i.h.d && f0 i.h.a && f0 i.h.b && (if i.mod.getLsbD 0 then fN 16 i.t.c else f0 i.t.c) && noGuard i.h
  | .spmark i => f0 i.h.d && fS i.h.a && f0 i.h.b && f0 i.t.c
  | .spquit i => zeroDab i.h && f0 i.t.c
  | .vaddI32 i => vecOps false i
  | .vaddI64 i => vecOps true i
  | .vsubI32 i => vecOps false i
  | .vsubI64 i => vecOps true i
  | .vmulI32 i => vecOps false i
  | .vmulI64 i => vecOps true i
  | .vmadI32 i => vecOps3 i
  | .vand i => vecOps false i
  | .vor i => vecOps false i
  | .vxor i => vecOps false i
  | .vshl i => vecOps false i
  | .vshr i => vecOps false i
  | .vsra i => vecOps false i
  | .vminI32 i => vecOps false i
  | .vmaxI32 i => vecOps false i
  | .vcmpI32 i => vcmpOps false i
  | .vcmpI64 i => vcmpOps true i
  | .vsel i => vecOps (i.low == 1) i
  | .vmov i => vmovOps i
  | .vbfx i => vecOps false i
  | .vbitc i => vecOps1 i
  | .vtid i => vtidOps i
  | .vshfl i => vecOps false i
  | .vscan i => vecOps1 i
  | .vpred i => vpredOps i
  | .vrds i => vrdsOps i
  | .vdot4I8 i => vecOps3 i
  | .vfaddF32 i => fpBinOps false i
  | .vfaddF64 i => fpBinOps true i
  | .vfmulF32 i => fpBinOps false i
  | .vfmulF64 i => fpBinOps true i
  | .vfmaF32 i => fpFmaOps false i
  | .vfmaF64 i => fpFmaOps true i
  | .vfmaH2 i => fpFmaOps false i
  | .vfmaBf2 i => fpFmaOps false i
  | .vfminF32 i => fpBinOps false i
  | .vfmaxF32 i => fpBinOps false i
  | .vfminF64 i => fpBinOps true i
  | .vfmaxF64 i => fpBinOps true i
  | .vfcmpF32 i => fpCmpOps false i
  | .vfcmpF64 i => fpCmpOps true i
  | .vfdivF32 i => fpBinOps false i
  | .vfdivF64 i => fpBinOps true i
  | .vfsqrtF32 i => fpUnOps false false i
  | .vfsqrtF64 i => fpUnOps true true i
  | .vfrcpF32 i => fpUnOps false false i
  | .vfrsqF32 i => fpUnOps false false i
  | .vfexp2F32 i => fpUnOps false false i
  | .vflog2F32 i => fpUnOps false false i
  | .vfclass i => fpUnOps false (i.sub.getLsbD 0) i
  | .vfrnd i => fpUnOps (i.sub.getLsbD 0) (i.sub.getLsbD 0) i
  | .vcvtFf i => cvtOps false i
  | .vcvtFi i => cvtOps false i
  | .vcvtIf i => cvtOps false i
  | .vqnt i => cvtOps true i
  | .vdqnt i => cvtOps true i
  | .vbsc i => fpUnOps false false i
  | .lds i => locOps i
  | .sts i => locOps i
  | .ldd i => locOps i
  | .std i => locOps i
  | .ldl i => locOps i
  | .stl i => locOps i
  | .atoms i => atomOps i
  | .atomd i => atomOps i
  | .fence i => zeroDab i.h
  | .sld i => sssOps i.h
  | .sst i => sssOps i.h
  | .satom i => sssOps i.h
  | .qpop i => fS i.h.d && fN 8 i.h.a && f0 i.h.b && f0 i.t.c
  | .qpush i => f0 i.h.d && fS i.h.a && f0 i.h.b && f0 i.t.c
  | .cpy i => engSS i
  | .cpyt i => engTS i
  | .gat i => engTS i
  | .gatp i => engTS i
  | .sca i => engTS i
  | .scaa i => engTS i
  | .amog i => engSS i
  | .sigN i => engSS i
  | .sigW i => engSS i
  | .ctrs i => ctrsOps i
  | .triga i => engS0 i
  | .coll i => engS0 i
  | .kvapp i => engSS i
  | .kvfork i => engSS i
  | .kvmap i => engH i && fPair i.h.a && fS i.h.b
  | .kvfree i => engH i && fS i.h.a && (if i.t.emod.getLsbD 0 then fS i.h.b else f0 i.h.b)
  | .pfxf i => engSS i
  | .pfxi i => engSS i
  | .route i => engS0 i
  | .edrn i => engH i && f0 i.h.a && f0 i.h.b
  | .mmaE4 i => passOps fV i
  | .mmaE5 i => passOps fV i
  | .mmaNx4 i => passOps fV i
  | .mmaBf16 i => passOps f0 i
  | .mmaF16 i => passOps f0 i
  | .mmaF32 i => passOps f0 i
  | .mmaF64 i => passOps f0 i
  | .mmaI8 i => passOps f0 i
  | .mmspE4 i => passOps fV i
  | .mmspBf16 i => passOps f0 i
  | .mmssBf16 i => passOps f0 i
  | .mmrkBf16 i => passOps fS i
  | .accdef i => fN 32 i.h.d && f0 i.h.a && f0 i.h.b
  | .accld i => accMemOps i
  | .accst i => accMemOps i
  | .accstat i => accstatOps i
  | .tld i => engH i && fN 32 i.h.a && fN 32 i.h.b
  | .tst i => engH i && fN 32 i.h.a && fN 32 i.h.b
  | .tdesc i => tdescOps i
  | .rkins i => fN 32 i.h.d && fVS i.h.a && fVS i.h.b && fVS i.t.c
  | .rkmrg i => rkmrgOps i
  | .rkthr i => fV i.h.d && fN 32 i.h.a && f0 i.h.b && f0 i.t.c
  | .rkout i => fV i.h.d && fN 32 i.h.a && fS i.h.b && f0 i.t.c
  | .sysrd i => fS i.h.d && fS i.h.a && f0 i.h.b
  | .syswr i => f0 i.h.d && fS i.h.a && fS i.h.b
  | .eret i => zeroDab i.h && f0 i.t.c && noGuard i.h
  | .monc i => fS i.h.d && fS i.h.a && f0 i.h.b && i.imm.toNat < 2 ^ 16
  | .tlbi i => tlbiOps i
  | .ctxsv i => sssOps i.h
  | .ctxld i => sssOps i.h
  | .haltc i => haltcOps i
  | .pgchk i => engS0 i
  | .apSld i => apSldOps i
  | .apQpop i => apGuard i.h && apS i.h.d && f0 i.h.a && f0 i.h.b && f0 i.t.c
  | .apQpush i => apGuard i.h && fN 8 i.h.d && apS i.h.a && f0 i.h.b && f0 i.t.c
  | .apExit i => apGuard i.h && zeroDab i.h && f0 i.t.c
  | .loadDataArrival _ _ => true
  | .storePerformed _ => true
  | .ownershipGrant _ => true
  | .sourceLineRelease _ _ => true
  | .engineCompletion _ => true
  | .cancelStop _ => true
  | .cartLocalSwitch _ => true
  | .cartHomeSwitch _ => true
  | .rowEngineCart _ => true
  | .bridgePoolCombine _ _ => true
  | .replySwitchCombine _ => true
  | .cartReplyPlace _ => true
  | .subcartHoldRelease _ => true
  | .subcartNotreadyTimeout _ => true
  | .collEnd _ => true
  | .collSend _ => true
  | .collRecv _ => true
  | .collRrs _ => true
  | .collCopy _ => true
  | .collWait _ => true
  | .collLoop _ => true
  | .collCmb _ => true
  | .collSlotStart _ => true
  | .collStepTimeout _ => true
  | .collStartTimeout _ => true
  | .combineContribution _ => true
  | .rawContributionArrival _ => true
  | .combineEntryTimeout _ => true
  | .bypassRecordTimeout _ => true
  | .triggerFire _ => true
  | .triggerTimebaseTick _ => true
  | .yieldResume _ => true
  | .hostQtailWrite _ _ _ => true
  | .qstatStopClear _ _ => true
  | .launchAccept _ _ => true
  | .coachPlace _ => true
  | .coachRetire _ => true
  | .successorStart _ => true
  | .binTimerExpiry _ _ => true
  | .spawnedCarriagePlace _ => true
  | .spawnCoachRetire _ => true
  | .dbrRegroup _ => true
  | .pathCarriageForm _ => true
  | .joinReconverge _ _ => true
  | .barRelease _ _ => true
  | .spinTimeout _ => true
  | .passGrant _ => true
  | .passOvertake _ => true
  | .passWriteback _ => true
  | .kvReserve _ => true
  | .appendLand _ => true
  | .specKvappRelease _ => true
  | .kvforkArrive _ => true
  | .kvfreeArrive _ => true
  | .pfxLookupArrive _ => true
  | .pfxInsertArrive _ => true
  | .scrubberTick _ => true
  | .pgchkCheck _ => true
  | .poolEnable _ _ => true
  | .poolDisable _ => true
  | .routeRun _ => true
  | .routeNotreadyTimeout _ => true
  | .windowStart _ => true
  | .windowEnd _ => true
  | .tlbiComplete _ => true
  | .preemptSaveRequest _ _ => true
  | .preemptEligible _ => true
  | .preemptDeadline _ => true
  | .preemptRestoreRequest _ _ => true
  | .restorePlace _ => true
  | .debuggerHalt _ => true
  | .debuggerAccess _ _ _ => true
  | .mgmtRegisterWrite _ _ _ => true
  | .resetKeyWrite _ => true
  | .cxlMemRequest _ _ _ => true
  | .getVersion _ => true
  | .getCapabilities _ => true
  | .negotiateAlgorithms _ => true
  | .getDigests _ => true
  | .getCertificate _ => true
  | .challenge _ => true
  | .getMeasurements _ => true
  | .akbexLinkTraining _ _ => true
  | .linkCrcReplay _ _ => true
  | .bootConfigVerify _ => true
  | .selfTestPass _ _ => true
  | .correctedError _ => true
  | .containedError _ _ => true
  | .uncontainedError _ _ _ => true
  | .packageReset => true
  | .powerSample _ _ => true
  | .clockStepUp => true
  | .thermalTrip _ => true
  | .inputUndervoltage _ _ => true
  | .peerLinkDown _ => true
  | .cxlLinkDown => true
  | .peerRequestArrival _ _ => true
  | .mgmtRegisterRead _ _ => true

/-- The constructor is an instruction of a stream, not an event of the machine. -/
def isStream : Instr → Bool
  | .ill _ => true
  | .reservedOpcode _ _ => true
  | .sadd _ => true
  | .ssub _ => true
  | .smul _ => true
  | .smulh _ => true
  | .sdiv _ => true
  | .srem _ => true
  | .sand _ => true
  | .sor _ => true
  | .sxor _ => true
  | .sshl _ => true
  | .sshr _ => true
  | .ssra _ => true
  | .smin _ => true
  | .smax _ => true
  | .scmp _ => true
  | .ssel _ => true
  | .smov _ => true
  | .sbfx _ => true
  | .sbfi _ => true
  | .sbitc _ => true
  | .slea _ => true
  | .sget _ => true
  | .sput _ => true
  | .sfma _ => true
  | .sfcvt _ => true
  | .bra _ => true
  | .brx _ => true
  | .lpad _ => true
  | .call _ => true
  | .ret _ => true
  | .loop _ => true
  | .dbr _ => true
  | .join _ => true
  | .exit _ => true
  | .yield _ => true
  | .waitc _ => true
  | .waith _ => true
  | .tsth _ => true
  | .canh _ => true
  | .bar _ => true
  | .launch _ => true
  | .spawn _ => true
  | .spawnf _ => true
  | .trap _ => true
  | .brk _ => true
  | .sysc _ => true
  | .pause _ => true
  | .sploop _ => true
  | .guess _ => true
  | .accept _ => true
  | .spend _ => true
  | .spmark _ => true
  | .spquit _ => true
  | .vaddI32 _ => true
  | .vaddI64 _ => true
  | .vsubI32 _ => true
  | .vsubI64 _ => true
  | .vmulI32 _ => true
  | .vmulI64 _ => true
  | .vmadI32 _ => true
  | .vand _ => true
  | .vor _ => true
  | .vxor _ => true
  | .vshl _ => true
  | .vshr _ => true
  | .vsra _ => true
  | .vminI32 _ => true
  | .vmaxI32 _ => true
  | .vcmpI32 _ => true
  | .vcmpI64 _ => true
  | .vsel _ => true
  | .vmov _ => true
  | .vbfx _ => true
  | .vbitc _ => true
  | .vtid _ => true
  | .vshfl _ => true
  | .vscan _ => true
  | .vpred _ => true
  | .vrds _ => true
  | .vdot4I8 _ => true
  | .vfaddF32 _ => true
  | .vfaddF64 _ => true
  | .vfmulF32 _ => true
  | .vfmulF64 _ => true
  | .vfmaF32 _ => true
  | .vfmaF64 _ => true
  | .vfmaH2 _ => true
  | .vfmaBf2 _ => true
  | .vfminF32 _ => true
  | .vfmaxF32 _ => true
  | .vfminF64 _ => true
  | .vfmaxF64 _ => true
  | .vfcmpF32 _ => true
  | .vfcmpF64 _ => true
  | .vfdivF32 _ => true
  | .vfdivF64 _ => true
  | .vfsqrtF32 _ => true
  | .vfsqrtF64 _ => true
  | .vfrcpF32 _ => true
  | .vfrsqF32 _ => true
  | .vfexp2F32 _ => true
  | .vflog2F32 _ => true
  | .vfclass _ => true
  | .vfrnd _ => true
  | .vcvtFf _ => true
  | .vcvtFi _ => true
  | .vcvtIf _ => true
  | .vqnt _ => true
  | .vdqnt _ => true
  | .vbsc _ => true
  | .lds _ => true
  | .sts _ => true
  | .ldd _ => true
  | .std _ => true
  | .ldl _ => true
  | .stl _ => true
  | .atoms _ => true
  | .atomd _ => true
  | .fence _ => true
  | .sld _ => true
  | .sst _ => true
  | .satom _ => true
  | .qpop _ => true
  | .qpush _ => true
  | .cpy _ => true
  | .cpyt _ => true
  | .gat _ => true
  | .gatp _ => true
  | .sca _ => true
  | .scaa _ => true
  | .amog _ => true
  | .sigN _ => true
  | .sigW _ => true
  | .ctrs _ => true
  | .triga _ => true
  | .coll _ => true
  | .kvapp _ => true
  | .kvfork _ => true
  | .kvmap _ => true
  | .kvfree _ => true
  | .pfxf _ => true
  | .pfxi _ => true
  | .route _ => true
  | .edrn _ => true
  | .mmaE4 _ => true
  | .mmaE5 _ => true
  | .mmaNx4 _ => true
  | .mmaBf16 _ => true
  | .mmaF16 _ => true
  | .mmaF32 _ => true
  | .mmaF64 _ => true
  | .mmaI8 _ => true
  | .mmspE4 _ => true
  | .mmspBf16 _ => true
  | .mmssBf16 _ => true
  | .mmrkBf16 _ => true
  | .accdef _ => true
  | .accld _ => true
  | .accst _ => true
  | .accstat _ => true
  | .tld _ => true
  | .tst _ => true
  | .tdesc _ => true
  | .rkins _ => true
  | .rkmrg _ => true
  | .rkthr _ => true
  | .rkout _ => true
  | .sysrd _ => true
  | .syswr _ => true
  | .eret _ => true
  | .monc _ => true
  | .tlbi _ => true
  | .ctxsv _ => true
  | .ctxld _ => true
  | .haltc _ => true
  | .pgchk _ => true
  | .apSld _ => true
  | .apQpop _ => true
  | .apQpush _ => true
  | .apExit _ => true
  | .loadDataArrival _ _ => false
  | .storePerformed _ => false
  | .ownershipGrant _ => false
  | .sourceLineRelease _ _ => false
  | .engineCompletion _ => false
  | .cancelStop _ => false
  | .cartLocalSwitch _ => false
  | .cartHomeSwitch _ => false
  | .rowEngineCart _ => false
  | .bridgePoolCombine _ _ => false
  | .replySwitchCombine _ => false
  | .cartReplyPlace _ => false
  | .subcartHoldRelease _ => false
  | .subcartNotreadyTimeout _ => false
  | .collEnd _ => false
  | .collSend _ => false
  | .collRecv _ => false
  | .collRrs _ => false
  | .collCopy _ => false
  | .collWait _ => false
  | .collLoop _ => false
  | .collCmb _ => false
  | .collSlotStart _ => false
  | .collStepTimeout _ => false
  | .collStartTimeout _ => false
  | .combineContribution _ => false
  | .rawContributionArrival _ => false
  | .combineEntryTimeout _ => false
  | .bypassRecordTimeout _ => false
  | .triggerFire _ => false
  | .triggerTimebaseTick _ => false
  | .yieldResume _ => false
  | .hostQtailWrite _ _ _ => false
  | .qstatStopClear _ _ => false
  | .launchAccept _ _ => false
  | .coachPlace _ => false
  | .coachRetire _ => false
  | .successorStart _ => false
  | .binTimerExpiry _ _ => false
  | .spawnedCarriagePlace _ => false
  | .spawnCoachRetire _ => false
  | .dbrRegroup _ => false
  | .pathCarriageForm _ => false
  | .joinReconverge _ _ => false
  | .barRelease _ _ => false
  | .spinTimeout _ => false
  | .passGrant _ => false
  | .passOvertake _ => false
  | .passWriteback _ => false
  | .kvReserve _ => false
  | .appendLand _ => false
  | .specKvappRelease _ => false
  | .kvforkArrive _ => false
  | .kvfreeArrive _ => false
  | .pfxLookupArrive _ => false
  | .pfxInsertArrive _ => false
  | .scrubberTick _ => false
  | .pgchkCheck _ => false
  | .poolEnable _ _ => false
  | .poolDisable _ => false
  | .routeRun _ => false
  | .routeNotreadyTimeout _ => false
  | .windowStart _ => false
  | .windowEnd _ => false
  | .tlbiComplete _ => false
  | .preemptSaveRequest _ _ => false
  | .preemptEligible _ => false
  | .preemptDeadline _ => false
  | .preemptRestoreRequest _ _ => false
  | .restorePlace _ => false
  | .debuggerHalt _ => false
  | .debuggerAccess _ _ _ => false
  | .mgmtRegisterWrite _ _ _ => false
  | .resetKeyWrite _ => false
  | .cxlMemRequest _ _ _ => false
  | .getVersion _ => false
  | .getCapabilities _ => false
  | .negotiateAlgorithms _ => false
  | .getDigests _ => false
  | .getCertificate _ => false
  | .challenge _ => false
  | .getMeasurements _ => false
  | .akbexLinkTraining _ _ => false
  | .linkCrcReplay _ _ => false
  | .bootConfigVerify _ => false
  | .selfTestPass _ _ => false
  | .correctedError _ => false
  | .containedError _ _ => false
  | .uncontainedError _ _ _ => false
  | .packageReset => false
  | .powerSample _ _ => false
  | .clockStepUp => false
  | .thermalTrip _ => false
  | .inputUndervoltage _ _ => false
  | .peerLinkDown _ => false
  | .cxlLinkDown => false
  | .peerRequestArrival _ _ => false
  | .mgmtRegisterRead _ _ => false

end Sys2Proof.Machine
end

