-- ==== Sys2Proof/Config.lean ====
section
/-! DEFINITION. What the manual leaves to the implementation or leaves open: free values with no body (nothing can be
proved about what they are) and the figures of the part that never change. -/
namespace Sys2Proof.Config

/-! ## Free values: applied to the counter State.tick and a salt that names the place of use -/

/-- A choice the manual calls unspecified (00 R3): which agent moves, in which order threads are served. -/
opaque freeNat : Nat → Nat → Nat
/-- A byte the manual calls undefined (00 R3), by the counter and the byte's key. -/
opaque freeByte : Nat → Nat → Byte

/-- What HBM holds after a reset (24 R387), by the counter: any bytes, listed where they are not 0. -/
opaque hbmContents : Nat → List (Nat × Byte)

/-! ## What the manual does not give -/

/-- The monitor's version (25 R392 fn 0x0000). -/
opaque monitorVersion : Word
/-- Whether the monitor's policy grants a request (25 R392: DENIED otherwise). -/
opaque monitorGrants : Nat → DWord → Bool
/-- The reset key of the management register space (24 R387). -/
opaque resetKey : DWord
/-- Whether a completion ring base names HBM or the scratchpad of the core (11 R196 gives no encoding). -/
opaque ringInHbm : DWord → Bool
/-- The die whose scratchpad a capacity counter base names (07 R120 gives no encoding). -/
opaque counterDie : DWord → Bool
/-- ECDSA P-521 over SHA-512 (22 R364, R365): whether a signature of a message verifies under a public key. -/
opaque ecdsaVerifies : List Byte → List Byte → List Byte → Bool
/-- The key in the boot firmware, and whether the configuration record's signature verifies against it (22 R365). -/
opaque bootKey : List Byte
def configVerifies (record signature : List Byte) : Bool := ecdsaVerifies bootKey record signature
/-- Whether a peer's identity record verifies (22 R364): the signature over its first 0xE0 bytes, by the key it holds. -/
def recordVerifies (r : List Byte) : Bool := ecdsaVerifies ((r.drop 0x10).take 132) (r.take 0xE0) ((r.drop 0xE0).take 132)
/-- Whether the debug unit is enabled for a world (21 R345); no rule says what enables it. -/
opaque debugOn : Bool → Bool
/-- The words UNCLOG takes for an error's function, class and location, and for a thermal reset (24 R387, 33 R423): its
layout is not given. -/
opaque unclogWord : Nat → Nat → Nat → DWord
opaque unclogThermal : DWord
/-- The bytes of a reply to an SPDM message (22 R366) around the parts that the manual fixes: they depend on keys and nonces
not given. The arguments: the step, the message, the request, which run of bytes. -/
opaque spdmFrame : Nat → Nat → List Byte → Nat → List Byte
/-- The Sareithar chain of slot 0, and the part of it and the measurements that a request asks for (22 R366). -/
opaque certChain : List Byte
opaque chainAsked : List Byte → Nat × Nat
opaque measurementAsked : List Byte → Nat → Bool
/-- The identity key (22 R364), derived from the silicon: its public half, x then y, and what it signs. -/
opaque identityKey : List Byte
opaque identitySign : List Byte → List Byte
/-- The management firmware and the monitor, and the firmware's version; the version a configuration record states. -/
opaque firmware : List Byte
opaque monitor : List Byte
opaque firmwareVersion : Word
opaque recordVersion : List Byte → Word
/-- The average power and the junction temperature the manager acts on are inputs; this is a measured offset of
timebases between packages, in ns (15 R252). -/
opaque timeSkew : Nat → Nat → Nat

/-! ## Figures of the part -/

/-- Ends of the scratchpad's spill area (11 R189): the manual leaves it to the host's configuration. -/
def spillLo : Nat := 352 * 2 ^ 20
def spillHi : Nat := 384 * 2 ^ 20
/-- 384 MiB of scratchpad per die (01 R14). -/
def scratchBytes : Nat := 384 * 2 ^ 20
/-- The fabric number of this package; the manual gives none. -/
def ownPackage : Nat := 0

end Sys2Proof.Config
end

