-- ==== Sys2Proof/Machine/Cells.lean ====
section
/-! DEFINITION. The one sparse store of the model: key and value pairs in a canonical form. Every memory and every
indexed register file is one of these; an unlisted key reads as 0. -/
namespace Sys2Proof.Machine

/-- Keys with values of `w` bits. With `w = 8` the entries are the host's memory cells. -/
abbrev Cells (w : Nat) := List (Nat × BitVec w)

/-- The value at a key; an unlisted key reads as 0. -/
def cget {w : Nat} : Cells w → Nat → BitVec w
  | [], _ => 0
  | (k', v) :: r, k => if k' = k then v else cget r k

/-- Put a nonzero value at a key of a rising list. -/
def cins {w : Nat} (k : Nat) (v : BitVec w) : Cells w → Cells w
  | [] => [(k, v)]
  | (k', v') :: r =>
    if k < k' then (k, v) :: (k', v') :: r
    else if k = k' then (k, v) :: r
    else (k', v') :: cins k v r

/-- Remove a key. -/
def cdel {w : Nat} (k : Nat) (c : Cells w) : Cells w := c.filter (fun e => e.1 != k)

/-- Write a value: 0 removes the entry, so that equal stores are equal lists. -/
def cset {w : Nat} (c : Cells w) (k : Nat) (v : BitVec w) : Cells w :=
  if v = 0 then cdel k c else cins k v c

/-- Drop every key in `lo ≤ key < hi`. -/
def cclear {w : Nat} (c : Cells w) (lo hi : Nat) : Cells w :=
  c.filter (fun e => e.1 < lo || hi ≤ e.1)

/-- Keys rise strictly from above `lo` and no value is 0. -/
def cwfFrom {w : Nat} : Nat → Cells w → Bool
  | _, [] => true
  | lo, (k, v) :: r => (lo ≤ k) && v != 0 && cwfFrom (k + 1) r

/-- The canonical form. -/
def cwf {w : Nat} (c : Cells w) : Bool := cwfFrom 0 c

/-- Write many values, in order. -/
def csetAll {w : Nat} (c : Cells w) (es : List (Nat × BitVec w)) : Cells w :=
  es.foldl (fun acc e => cset acc e.1 e.2) c

/-- Values at consecutive keys, lowest first. -/
def cgetN {w : Nat} (c : Cells w) (k : Nat) : Nat → List (BitVec w)
  | 0 => []
  | n + 1 => cget c k :: cgetN c (k + 1) n

/-- Write values at consecutive keys. -/
def csetN {w : Nat} (c : Cells w) (k : Nat) : List (BitVec w) → Cells w
  | [] => c
  | v :: r => csetN (cset c k v) (k + 1) r

end Sys2Proof.Machine
end

