-- ==== Sys2Proof/Machine/State.lean ====
section
/-! DEFINITION. The state of the machine as plain data: memories, register files, carriages, coaches, launches, engine
operations, passes, carts, collectives, pools, triggers, bins, loops and the package's registers. -/
namespace Sys2Proof.Machine

/-- Why the machine stops. -/
inductive Fault where
  /-- Raised by `step` alone, when the turn is a fetch and no carriage stands: the scheduler never chooses that.
  Safe: it forbids a behaviour, and adds none. -/
  | noCarriage
  deriving DecidableEq, Repr

/-- Why an instruction has no meaning. -/
inductive Refusal where
  /-- Raised by `exec` for an instruction not modelled yet. Safe: the model stops where the hardware goes on. -/
  | notModelled (mnemonic : String)
  deriving DecidableEq, Repr

/-- The bytes of every memory space in one store (see `memKey`). -/
abbrev Memory := Cells 8

/-! ## Carriages -/

/-- A store in an instance's write log: its bytes by key, and whether it stored a poisoned element (12 R210). -/
structure LogStore where
  cells : List (Nat × Byte)
  bad : Bool
  deriving DecidableEq, Repr

/-- Why a carriage does not issue (17 R289, 19 R313). -/
inductive Wait where
  /-- It issues. -/
  | run
  /-- It stands at a BAR of this scope: 1 CORE, 3 COACH (21 R342). -/
  | bar (scope : Nat)
  /-- It stands at a DBR: predicate, taken target, JOIN address (18 R293). -/
  | dbr (pred : Nat) (taken join : DWord)
  /-- Its threads run in path carriages of this reconvergence entry (18 R298). -/
  | regrouped (entry : Nat)
  /-- A path carriage parked at its JOIN (18 R299). -/
  | parked
  /-- It yielded (21 R340): kind, register or token, compare value, continuation. -/
  | yielded (kind : Nat) (ref : DWord) (imm : Word) (cont : DWord)
  /-- It waits for its TLBI to complete: once the entries are removed, the operations still to finish (25 R393). -/
  | tlbi (ops : Option (List Nat)) (kind : Nat) (fab : Bool) (va : DWord) (space : BitVec 16)
  /-- It waits for its engine operation to own its lines (11 R192). -/
  | issuing (op : Nat)
  /-- SPLOOP done, the window has not started (20 R321). -/
  | window
  /-- An instance that reached SPEND (20 R323): its stop condition. -/
  | spend (stop : Bool) (dest : Nat)
  /-- A poisoned instance (20 R326). -/
  | poisoned
  /-- Every thread has exited (21 R337). -/
  | exited
  /-- A pre-empted carriage: saved, its slots freed (23 R373). -/
  | saved
  deriving DecidableEq, Repr

inductive CarKind where
  | home
  | spawned
  | path
  /-- Instance j of a speculative loop, j above 0 (20 R320). -/
  | inst
  deriving DecidableEq, Repr

/-- The trap record (23 R369). -/
structure TrapRec where
  cause : DWord
  tpc : DWord
  tres : DWord
  taddr : DWord
  tinfo : DWord
  ttok : DWord
  deriving DecidableEq, Repr

/-- An access-processor context (14 R241). -/
structure ApCtx where
  s : Cells 64
  k : BitVec 8
  pc : DWord
  running : Bool
  exited : Bool
  faulted : Bool
  cause : BitVec 8
  inbound : List DWord
  sPoison : BitVec 32
  deriving DecidableEq, Repr

/-- The spin detector of a carriage (19 R314). -/
structure Spin where
  branch : DWord
  target : DWord
  count : Nat
  s : Cells 64
  k : BitVec 16
  /-- What the trip under way has read, with the address of each read. -/
  trip : List (DWord × Nat)
  /-- The lines and counters read in the trips counted. -/
  marks : List Nat
  lowered : Bool
  deadline : Nat
  deriving DecidableEq, Repr

/-- The standing of a carriage at its issue stage (19 R313, R314, 03 R53). -/
structure Issue where
  /-- It issues nothing before this cycle (STALL, PAUSE). -/
  stall : Nat
  /-- Its last instruction carried YLD. -/
  yld : Bool
  /-- Destinations of its instructions whose interlocked results may take more than a cycle (03 R54). -/
  slow : List Nat
  /-- The cycle at which its last vector instruction has left the lanes (17 R289). -/
  lanes : Nat
  /-- Cycles in which it was ready, lowered, and did not issue. -/
  waited : Nat
  deriving DecidableEq, Repr

/-- One carriage: its uniform registers and its standing. Its threads' registers lie in `State.v`, `State.p`,
`State.live` by thread id. -/
structure Carriage where
  id : Nat
  kind : CarKind
  coach : Nat
  launch : Nat
  core : Nat
  slot : Nat
  index : Nat
  /-- Thread id + 1 of each slot, 0 for an empty slot; the length is the carriage width. -/
  slots : List Nat
  nreg : Nat
  accs : Nat
  spillBytes : Nat
  spillBase : Nat
  /-- Base of the regions reserved for it and its instances (17 R286). -/
  spillBlock : Nat
  prio : Nat
  world : Bool
  space : BitVec 16
  pc : DWord
  s : Cells 64
  k : BitVec 16
  t : Cells 128
  hTok : Cells 64
  /-- The operation behind each handle, by the model's number: instances of one carriage issue equal tokens. -/
  hOp : Cells 64
  hStat : Cells 64
  hDone : BitVec 16
  hTf : BitVec 16
  hAddr : Cells 64
  ast : DWord
  mdef : DWord
  pathix : BitVec 32
  spinst : Nat
  trap : TrapRec
  handler : Bool
  halted : Bool
  seq : Nat
  q : List (Nat × DWord)
  qClosed : BitVec 8
  ap : Option ApCtx
  wait : Wait
  spin : Spin
  issue : Issue
  sPoison : BitVec 256
  /-- Its placement cycle, and what orders the carriages of one coach or of one cycle's firings: the carriage index, or
  the number of the bin (19 R309). -/
  age : Nat
  tie : Nat
  /-- The carriage it was formed from: the lead of a path (18 R297), instance 0 of an instance. -/
  lead : Nat
  /-- Reconvergence entry of a path carriage. -/
  entry : Nat
  /-- Write log of an instance, oldest first (12 R210). -/
  wlog : List LogStore
  deriving DecidableEq, Repr

/-! ## Coaches, launches, bins -/

/-- A path carriage no slot is free for yet (18 R296). -/
structure Deferred where
  id : Nat
  path : Nat
  number : Nat
  core : Nat
  slots : List Nat
  /-- The carriage whose uniform state it starts with, and the s registers that one held at the DBR with their poison, which
  a load that arrives later does not change (18 R297). -/
  lead : Nat
  s : Cells 64
  sPoison : BitVec 256
  start : DWord
  deriving DecidableEq, Repr

/-- A reconvergence entry (18 R298). -/
structure Recon where
  idx : Nat
  joinAddr : DWord
  dbrAddr : DWord
  /-- The carriages that were regrouped: the parent's grouping. -/
  members : List Nat
  deferred : List Deferred
  /-- Parent entry and path. -/
  parent : Option (Nat × Nat)
  deriving DecidableEq, Repr

/-- A dependence entry of a launch record (17 R282). -/
structure Dep where
  lid : DWord
  imm : Nat
  kind : Nat
  ctr : Nat
  coach : Nat
  deriving DecidableEq, Repr

/-- The launch record (17 R281). -/
structure LaunchRec where
  entry : DWord
  argp : DWord
  apentry : DWord
  coaches : Nat
  x0 : Nat
  y0 : Nat
  wid : Nat
  hgt : Nat
  a : Nat
  b : Nat
  width : Nat
  n : Nat
  nreg : Nat
  accs : Nat
  carve : Nat
  spec : Nat
  prio : Nat
  heavy : Bool
  sok : Bool
  spill : Nat
  space : BitVec 16
  world : Bool
  twin : Nat
  deps : List Dep
  deriving DecidableEq, Repr

/-- An accepted launch, or a device launch that has reached the dispatcher (17 R284, R290). -/
structure Launch where
  id : Nat
  lid : DWord
  rcd : LaunchRec
  accepted : Bool
  /-- The step at which its first coach was placed (03 R46). -/
  placedAt : Option Nat
  /-- The cycle since which its dependences hold (19 R309). -/
  since : Option Nat
  /-- Next coach to place (17 R285). -/
  nextCoach : Nat
  /-- Coaches that have retired. -/
  retired : Nat
  /-- Retired coach indices (17 R282: a counter entry holds once that coach has retired). -/
  retiredIx : List Nat
  /-- Spawned carriages fired so far per core and entry (18 R303). -/
  fired : List (Nat × DWord × Nat)
  done : Bool
  deriving DecidableEq, Repr

/-- A record of a launch queue that the queue's tail has passed: its number in the queue and its bytes. Once it is the
head record, `head` says that its bytes are what the dispatcher took, and `since` since when its dependences hold
(17 R282, 19 R309). -/
structure HeldRecord where
  world : Bool
  queue : Nat
  num : Nat
  bytes : List Byte
  head : Bool
  since : Option Nat
  deriving DecidableEq, Repr

/-- A handle as its carriage holds it. -/
structure HandleView where
  tok : DWord
  op : Nat
  done : Bool
  stat : DWord
  tf : Bool
  addr : DWord
  deriving DecidableEq, Repr

/-- A resident coach (17 R288), or the spawn coach of a launch (18 R304). -/
structure Coach where
  id : Nat
  launch : Nat
  index : Nat
  spawn : Bool
  x : Nat
  y : Nat
  rcd : LaunchRec
  ctag : Nat
  n7 : Bool
  recons : List Recon
  /-- The successor carriage 0 named: record address and record (17 R291). -/
  succ : Option (DWord × LaunchRec)
  /-- Other carriages' EXIT.S addresses by carriage index, for the comparison with carriage 0's (17 R291). -/
  succNamed : List (Nat × DWord)
  /-- Retired, waiting for its successor to fit (17 R292). -/
  waiting : Bool
  /-- Pre-emption has stopped its issue (23 R373 step 2), and has saved it (step 9). -/
  stopped : Bool
  saved : Bool
  /-- Arrivals at the coach barrier beside those of the carriages that wait there: what a coach section brought
  (02 R41, 25 R394). -/
  arrived : Int
  /-- Its shared-memory area of each core's local store, core by core (11 R190). -/
  areas : List Nat
  /-- Handles of path carriages whose threads had all exited when their region was left: their tokens stay usable until the
  coach retires (21 R337). -/
  kept : List HandleView
  /-- While it is saved, what its carriages' spill regions held: carriage, offset and byte, and the poisoned units; the
  manual gives them no place in the image (23 R376). -/
  spill : List (Nat × List (Nat × Byte) × List Nat)
  placed : Nat
  deriving DecidableEq, Repr

/-- A bin of a core (18 R301, R302). -/
structure Bin where
  core : Nat
  idx : Nat
  launch : Nat
  entry : DWord
  /-- Argument words of its children, oldest first. -/
  children : List (Word × Word)
  deadline : Nat
  /-- How many of its oldest children the firing that awaits placement takes; 0 when none does. -/
  pend : Nat
  /-- The cycle of that firing. -/
  firedAt : Nat
  /-- Children still to be fired by a SPAWNF. -/
  force : Nat
  /-- Its timer has expired: it fires until empty. -/
  drain : Bool
  deriving DecidableEq, Repr

/-- A tile window (17 R287). -/
structure TileWin where
  /-- Its number: what its bytes hold at allocation depends on it and on nothing else. -/
  gen : Nat
  launch : Nat
  quad : Nat
  base : Nat
  units : Nat
  deriving DecidableEq, Repr

/-! ## Local accesses in flight -/

/-- One element of an outstanding load (02 R29). -/
inductive LoadElem where
  | v (cells : List (Nat × Word)) (poison : Bool)
  | s (cid reg : Nat) (val : DWord) (poison : Bool)
  /-- Bytes of an accumulator image from a key on (10 R178). -/
  | img (key : Nat) (bytes : List Byte) (poison : Bool)
  deriving DecidableEq, Repr

/-- Where a load or atomic writes what it read: v registers of a thread from `reg` on, an s register, or a tile. -/
inductive LoadDst where
  | v (tid reg : Nat)
  | s (cid reg : Nat)
  | img
  | none
  deriving DecidableEq, Repr

/-- What one thread's local access does to its bytes. -/
inductive LocAct where
  /-- Extend to `regs` registers (or one s register), by zeros when `u`. -/
  | load (dst : LoadDst) (u : Bool)
  | store (data : List Byte) (poison : Bool)
  | atomic (aop : BitVec 4) (b cmp : DWord) (dst : LoadDst)
  /-- A FENCE that earlier accesses still hold up: it stands among the accesses and touches no byte (12 R204). -/
  | fence
  deriving DecidableEq, Repr

/-- One thread's access of local bytes that is not performed yet: a line of it is owned (11 R193), an earlier access
goes first (12 R204), or it takes its time. -/
structure LocAcc where
  /-- The outstanding load or store it belongs to. -/
  id : Nat
  /-- The accessing carriage, an agent (12 R199). -/
  cid : Nat
  /-- The home carriages of its threads. -/
  homes : List Nat
  /-- Its ORDER and SCOPE as they act on its space (12 R203-R205, 03 R51). -/
  order : BitVec 2
  scope : BitVec 3
  /-- It waited for nothing when it was issued: it is performed at a later turn of its own. -/
  later : Bool
  keys : List Nat
  act : LocAct
  deriving DecidableEq, Repr

/-- A performed store that some carriages do not see yet (12 R203, R207). -/
structure Stale where
  /-- The store or operation, and its carriage. -/
  id : Nat
  cid : Nat
  /-- The carriages whose later accesses it happens before (12 R204, R205). -/
  before : List Nat
  /-- Every other carriage comes to see it at the same moment. -/
  whole : Bool
  /-- What its bytes held before: key, byte, and whether the unit was poisoned. -/
  old : List (Nat × Byte × Bool)
  /-- The carriages that still see the old bytes. -/
  blind : List Nat
  deriving DecidableEq, Repr

/-- A release while hidden stores happened before it (12 R205): its carriage and scope, where it can be read (keys of bytes
or marks of counters), and those stores. -/
structure Sync where
  cid : Nat
  scope : BitVec 3
  keys : List Nat
  ids : List Nat
  deriving DecidableEq, Repr

/-- The image of an ACCLD or RKMRG on its way (10 R178, R182): whether it is merged, the name, the home carriages and
rows that move, and the image's key. -/
structure ImgLoad where
  merge : Bool
  acc : Nat
  rows : List (Nat × Nat)
  key : Nat
  deriving DecidableEq, Repr

/-- An outstanding local load, atomic or pop (11 R197). -/
structure PendLoad where
  id : Nat
  homes : List Nat
  elems : List LoadElem
  img : Option ImgLoad
  deriving DecidableEq, Repr

/-- A store not yet performed at its scope (11 R197). -/
structure PendStore where
  id : Nat
  homes : List Nat
  deriving DecidableEq, Repr

/-! ## Engine operations -/

/-- Where an engine writes: a local or tile byte by key, or a global virtual address. -/
inductive Dest where
  | loc (key : Nat)
  | glob (va : Nat)
  deriving DecidableEq, Repr

structure Chunk where
  dest : Dest
  bytes : List Byte
  deriving DecidableEq, Repr

/-- A tensor descriptor (10 R165). -/
structure TensorDesc where
  base : DWord
  rows : Nat
  rowBytes : Nat
  fmt : Nat
  hash : Bool
  logn : Nat
  stride : Nat
  pkgs : Nat
  dies : BitVec 2
  seed : Word
  map : DWord
  deriving DecidableEq, Repr

/-- The header of a cart (13 R215); `op` is the operation of this package that waits for it, 0 for a peer's. -/
structure CartHead where
  op : Nat
  /-- 1 GAT, 2 GATP, 3 SCA, 4 SCAA. -/
  typ : Nat
  world : Bool
  /-- 1 SUM, 2 MAX. -/
  pool : Nat
  space : BitVec 16
  reqPkg : Nat
  /-- Requester core: x + 16 y + 128 die; and the token of its handle. -/
  reqCore : Nat
  token : DWord
  fmt : Nat
  rowBytes : Nat
  base : DWord
  stride : Nat
  deriving DecidableEq, Repr

/-- An entry of a cart or of a reply (13 R215): row index, position, bag, multiplicity, home, row data, and the status
of a reply with its trap cause. -/
structure CartEntry where
  row : Nat
  pos : Nat
  bag : Nat
  mult : Nat
  slot : Nat
  die : Nat
  stack : Nat
  data : List Byte
  /-- The units of its row that were read poisoned at the requester, or became so on the way. -/
  bad : List Nat
  code : Nat
  cause : BitVec 8
  /-- Where its row lies, once its row engine has translated it, and the bytes of it that have been written. -/
  keys : List (Nat × Nat)
  done : List Nat
  deriving DecidableEq, Repr

/-- A cart at the requesting copy engine (13 R213-R224). -/
structure Cart where
  head : CartHead
  /-- Positions and bags. -/
  c : Nat
  m : Nat
  x : Nat
  maskAt : Nat
  /-- The address of the descriptor, and what it held at issue. -/
  daddr : Nat
  desc : TensorDesc
  rowo : Nat
  map : List Nat
  /-- The address of an index array in shared memory. -/
  idxAt : Option Nat
  idx : List Nat
  bags : List Nat
  entries : List CartEntry
  /-- Position and the position kept for it (13 R217). -/
  kept : List (Nat × Nat)
  /-- Faulted positions with code and cause. -/
  faults : List (Nat × Nat × BitVec 8)
  sent : Bool
  dup : Bool
  /-- Replies still awaited. -/
  await : Nat
  /-- Rows by kept position, and pooled bags, so far. -/
  rows : List (Nat × List Byte)
  bagAcc : List (Nat × List Word)
  deriving DecidableEq, Repr

/-- A sub-cart on its way to its home switch, or standing there for its dies' partials (13 R216). -/
structure SubCart where
  id : Nat
  head : CartHead
  pkg : Nat
  /-- 0 held at the local switch, 1 arrived at the home switch, 2 split into parts. -/
  stage : Nat
  deadline : Nat
  entries : List CartEntry
  diesLeft : Nat
  /-- What the home switch has combined. -/
  got : List CartEntry
  bagAcc : List (Nat × List Word)
  deriving DecidableEq, Repr

/-- The part of a sub-cart at one row engine (13 R219). -/
structure CartPart where
  id : Nat
  sub : Nat
  head : CartHead
  pkg : Nat
  stack : Nat
  held : Bool
  deadline : Nat
  /-- The step in which it reached its row engine; whether the row engine has translated it. -/
  born : Nat
  begun : Bool
  entries : List CartEntry
  /-- The row engine has replied: entries carry its rows and codes. -/
  replied : Bool
  partials : List (Nat × List Word)
  deriving DecidableEq, Repr

/-- A reply on its way back (13 R216): stage 0 at the home switch of sub-cart `sub`, 1 at the requester's switch, 2 at
its copy engine. -/
structure CartReply where
  id : Nat
  op : Nat
  sub : Nat
  stage : Nat
  entries : List CartEntry
  bags : List (Nat × List Word)
  deriving DecidableEq, Repr

/-- A routing descriptor (07 R120). -/
structure RouteDesc where
  score : DWord
  t : Nat
  e : Nat
  expert : Bool
  norm : Bool
  tstride : DWord
  estride : DWord
  k : Nat
  cap : Nat
  ctrs : DWord
  idxOut : DWord
  wgtOut : DWord
  hist : DWord
  resid : DWord
  first : Nat
  lists : DWord
  deriving DecidableEq, Repr

/-- A token under routing: the experts it has not tried, and those it holds in claim order, with their scores. -/
structure RouteTok where
  tok : Nat
  rest : List (Word × Word)
  got : List (Word × Word)
  deriving DecidableEq, Repr

/-- A ROUTE under way: its scores by token and expert as of issue, its tokens, and the claims of the round still to be
presented (07 R121). -/
structure RouteRun where
  scores : List (List Word)
  begun : Bool
  toks : List RouteTok
  queue : List (Word × Word × Word)
  deriving DecidableEq, Repr

/-- What an operation does when it runs. Ranges are (space code, address, length) with the codes of 16 R267. -/
inductive OpKind where
  /-- CPY and CPYT: the source ranges and the destination ranges in order. -/
  | copy (src dst : List (Nat × Nat × Nat))
  /-- A CPYT before its issue: whether it stores to the tensor, the descriptor's address, the window's first row and
  byte, its rows and row bytes, the local array. -/
  | copyT (st : Bool) (daddr rowo colb n rb : Nat) (loc : Nat × Nat × Nat)
  /-- A TLD or TST before its issue: its handles, and the tile window with its quad when the region fits it. -/
  | tileT (toTile tposed : Bool) (ta tb : BitVec 128) (win : Option (Nat × Nat))
  /-- TLD and TST: the region, and the virtual addresses and length of the window's rows. -/
  | tileCopy (toTile tposed sparse : Bool) (fmt k ofs gen quad : Nat) (rows : List Nat) (rowb : Nat)
  /-- It completes with the fault it carries and moves nothing. -/
  | failed
  | cart (c : Cart)
  | amog (addr blk : Nat) (wide nr : Bool) (aop : BitVec 4) (b cmp : DWord)
  | sigN (lid : DWord) (coach pkg ctr inc : Nat)
  | sigW (addr : Nat) (data : DWord)
  | ctrs (op ctr : Nat) (val : Word)
  | coll (blk : Nat) (port : Nat)
  | armed (trig : Nat)
  /-- A fired LAUNCH: its record's address and argument; its record, not taken by the dispatcher yet; or the launch whose
  acceptance it awaits. -/
  | launchAt (addr : DWord) (arg : Option DWord)
  | launch (rcd : LaunchRec)
  | launched (launch : Nat)
  /-- The source key, its record stride's D16, the records as of issue, and the first position once reserved. -/
  | kvapp (pool seq n heads : Nat) (rsv : Bool) (d16 src : Nat) (data : List Byte) (first : Option Nat)
  | kvfork (pool seq dst : Nat) (rsv : Bool)
  /-- Slots with their residency keys, and the key of the destination. -/
  | kvmap (keys : List (Nat × DWord)) (dst : Nat)
  | kvfree (pool seq : Nat) (pfx : Option DWord)
  /-- `attach`: sequence and slot. -/
  | pfxf (pool : Nat) (key : DWord) (attach : Option (Nat × Nat)) (dst : Nat)
  /-- The key of the list and its words as of issue. -/
  | pfxi (pool : Nat) (key : DWord) (list : Nat) (words : List Nat)
  /-- The descriptor and, once its scores are read, the run. -/
  | route (d : RouteDesc) (run : Option RouteRun)
  | edrn (joined : List Nat) (faults : Nat) (total : Nat)
  | pgchk (pool page : Nat)
  deriving DecidableEq, Repr

inductive OpStage where
  /-- Lines requested, not all held (11 R192). -/
  | requesting
  /-- Issued: every local line held, sources read. -/
  | issued
  /-- Its work at another unit is done: only completion is left. -/
  | ready
  /-- Its bytes have landed and its lines are released; its counter, record and handle wait (11 R195). -/
  | landed
  /-- Held in the engine queue of a speculation instance (16 R266). -/
  | held
  deriving DecidableEq, Repr

structure EngOp where
  id : Nat
  cid : Nat
  homes : List Nat
  coach : Nat
  core : Nat
  world : Bool
  space : BitVec 16
  tok : DWord
  eaddr : DWord
  tf : Bool
  ring : Nat
  ctr : Nat
  order : BitVec 2
  scope : BitVec 3
  isTile : Bool
  stage : OpStage
  kind : OpKind
  shared : List Nat
  excl : List Nat
  /-- How many of its lines it holds while it requests them in order, and the turn its present request arrived
  (11 R192). -/
  held : Nat
  asked : Nat
  /-- Its reads of global memory are over (12 R208). -/
  fetched : Bool
  out : List Chunk
  /-- Bytes that landed before its completion, by key (12 R200). -/
  early : List Nat
  cause : BitVec 8
  faultBit : Bool
  /-- Per-instruction fields of the status word: [60:56], [47:40], [39:0] (11 R194). -/
  hiBits : BitVec 5
  midBits : BitVec 8
  lowBits : BitVec 40
  bytes : Nat
  /-- Bytes it wrote beside those that land with its completion (11 R196). -/
  wrote : Nat
  started : Bool
  cancel : Bool
  /-- Cancelled by pre-emption (23 R373 step 5). -/
  preempted : Bool
  late : Bool
  inst : Nat
  /-- Issued inside a speculation window by an instance that has not committed (14 R233). -/
  win : Bool
  deadline : Nat
  deriving DecidableEq, Repr

/-- A term of a trigger predicate (15 R254). -/
structure TrigTerm where
  imm : Word
  ctr : Nat
  deriving DecidableEq, Repr

/-- An armed trigger (15 R254, 16 R273). -/
structure Trigger where
  id : Nat
  op : Nat
  coach : Nat
  core : Nat
  orJoin : Bool
  terms : List TrigTerm
  instr : Instr
  aval : DWord
  bval : DWord
  lateAtArm : Bool
  /-- When the predicate first held: the nanosecond, and the step. -/
  due : Option (Nat × Nat)
  deriving DecidableEq, Repr

/-! ## Collectives (15) -/

/-- Where a collective stands in its step (15 R247, R249, R252). -/
inductive CollRun where
  /-- The step word is not read yet. -/
  | fresh
  /-- The slot of the step has not begun. -/
  | slot
  /-- The slot has begun. -/
  | body
  /-- It waits for its peer's chunk. -/
  | recv
  /-- Ranks that have not accepted the chunk yet, the chunk, and whether what came in was too long. -/
  | send (left : List Nat) (data : Payload) (excess : Bool)
  /-- Units whose contribution is not accepted yet, and units whose result is awaited. -/
  | cmb (left units : List Nat)
  deriving DecidableEq, Repr

/-- A collective at its sequencer, numbered as its operation. -/
structure Coll where
  id : Nat
  port : Nat
  world : Bool
  prog : Nat
  rank : Nat
  size : Nat
  group : Nat
  rk : Nat
  rd : Nat
  map : List Nat
  t0 : Nat
  w : Nat
  bufs : List Nat
  /-- The machine's step at which it began, and at which its present step did. -/
  born : Nat
  since : Nat
  step : DWord
  lcs : List Nat
  run : CollRun
  /-- The step word of a step under way. -/
  word : DWord
  deadline : Nat
  late : Bool
  skew : Bool
  raw : Bool
  bytes : Nat
  deriving DecidableEq, Repr

/-- From one rank of a group to another (15 R248). -/
structure CollLink where
  world : Bool
  group : Nat
  src : Nat
  dst : Nat
  deriving DecidableEq, Repr

/-- A chunk that a rank of this package has not received yet, and when it came (15 R248, R249). -/
structure CollMsg where
  link : CollLink
  data : Payload
  ns : Nat
  deriving DecidableEq, Repr

/-- Key of a combining entry (15 R250). -/
structure CombKey where
  world : Bool
  group : Nat
  step : DWord
  lcs : List Nat
  unit : Nat
  deriving DecidableEq, Repr

/-- What a combining step fixes for its key: expected count, operator with RK and RD, and the one rank that receives the
result (none: every contributor). -/
structure CombForm where
  expect : Nat
  oper : Nat
  rk : Nat
  rd : Nat
  dest : Option Nat
  deriving DecidableEq, Repr

/-- A contribution on its way to the table (`toRank` none; `coll` is its collective here, 0 for a peer's), or a result
or RAW contribution of `count` contributors on its way to a rank of this package (15 R250). -/
structure CombMsg where
  id : Nat
  key : CombKey
  form : CombForm
  coll : Nat
  src : Nat
  count : Nat
  data : Payload
  toRank : Option Nat
  deriving DecidableEq, Repr

/-- A combining entry: its place in the tables (22 R353), contributors so far with whether each is of this package, and
the partial. -/
structure CombEntry where
  id : Nat
  place : Nat
  key : CombKey
  form : CombForm
  srcs : List (Nat × Bool)
  data : Payload
  deadline : Nat
  deriving DecidableEq, Repr

/-- A key that bypasses, with its RAW contributions so far; `recorded` when it takes a place of the bypass record. -/
structure Bypass where
  id : Nat
  key : CombKey
  form : CombForm
  recorded : Bool
  got : List (Nat × Bool × Payload)
  deadline : Nat
  deriving DecidableEq, Repr

/-- What a destination has combined so far for a key (15 R250). -/
structure DestAcc where
  key : CombKey
  rank : Nat
  count : Nat
  /-- Contributors of a complete result. -/
  expect : Nat
  data : Payload
  deadline : Nat
  deriving DecidableEq, Repr

/-! ## Matrix passes (06) -/

/-- What a pass computes: the pass instructions (10 R173, R174, R176). -/
inductive PassOp where
  | e4 | e5 | nx4 | bf16 | f16 | f32 | f64
  /-- Whether A and B are unsigned. -/
  | i8 (ua ub : Bool)
  | spE4 | spBf16
  | ssBf16
  /-- MMRK.BF16. -/
  | rk
  deriving DecidableEq, Repr

/-- An active row of a pass: the home carriage, the row, the bytes of its A row as they were last read, the aligned
4-byte words of them that were read poisoned, and its (scale, special) bytes by block. -/
structure PassRow where
  home : Nat
  row : Nat
  bytes : List Byte
  bad : List Nat
  scales : List (Byte × Byte)
  deriving DecidableEq, Repr

/-- A reservation-table entry (06 R104, R105). -/
structure Pass where
  id : Nat
  quad : Nat
  cid : Nat
  homes : List Nat
  /-- The home carriages whose tile class counts it (18 R297). -/
  counted : List Nat
  coach : Nat
  prio : Nat
  /-- Its posting cycle, and the quad core rank of its core (19 R309). -/
  posted : Nat
  rank : Nat
  op : PassOp
  acc : Nat
  kLen : Nat
  interval : Nat
  zero : Bool
  rows : List PassRow
  /-- The v registers it reads, by key (10 R172). -/
  regs : List Nat
  /-- The shared-memory base of an `.AS` array. -/
  aAddr : Option Nat
  /-- By block: the B scale and the B special register of slots 0 to 31. -/
  bScale : List (List Word × List Word)
  /-- Every column takes byte 0 of slot 0. -/
  uni : Bool
  /-- The window's number and the region's byte offset within it. -/
  gen : Nat
  bOfs : Nat
  /-- Words of tile memory as they stood before a tile copy wrote them while the pass was posted (06 R95). -/
  oldB : List (Nat × Word)
  /-- Index base of MMRK, and its scores by (row place × 128 + column). -/
  base : Word
  scores : Cells 32
  scoreBad : Cells 1
  /-- The token of MMSS, and the excess pairs so far. -/
  tok : DWord
  excess : Nat
  /-- Its k-blocks that hold an excess pair, as far as phase 1 has come (06 R103). -/
  overAt : List Nat
  /-- k-steps done. -/
  done : Nat
  /-- A pass over the same B was granted while it waited: it is next (20 R321). -/
  follow : Bool
  running : Bool
  /-- The effective priority it was granted at, the cycle of that grant, and the cycles it held the array before. -/
  held : Nat
  granted : Nat
  ran : Nat
  deriving DecidableEq, Repr

/-! ## Sequence caches (14) -/

/-- A reserved range of an append (14 R233), kept until it is published and its pages are sealed. `n` shrinks when a
rollback cuts it; `inst` is the uncommitted instance that appended it, 0 for none; `unpub` says that it publishes only at
its instance's commit; a rollback has counted its positions from `counted` on in their page's FILL (14 R235 step 3). -/
structure KvRange where
  op : Nat
  pool : Nat
  seq : Nat
  first : Nat
  n : Nat
  landed : Bool
  inst : Nat
  unpub : Bool
  counted : Nat
  coach : Nat
  deriving DecidableEq, Repr

/-! ## Speculative loops (20) -/

/-- A carried value: register code (v number, or 1536 + s number), the thread's home index or 0, the value, and
whether it is poisoned. -/
structure CarryVal where
  code : Nat
  idx : Nat
  val : DWord
  bad : Bool
  deriving DecidableEq, Repr

/-- An instance's bookkeeping: carriage, accept declarations (register code, mode, n, parameter), produced carry. -/
structure Inst where
  j : Nat
  cid : Nat
  accept : List (Nat × Nat × Nat × DWord)
  produced : List CarryVal
  stop : Bool
  reached : Bool
  /-- Pool, sequence, and 0 while its append has not arrived, else 1 + the positions reserved (20 R327). -/
  appended : List (Nat × Nat × Nat)
  rejected : Bool
  committed : Bool
  deriving DecidableEq, Repr

structure Loop where
  /-- The loop's carriage, instance 0. -/
  cid : Nat
  body : DWord
  gent : DWord
  limit : Nat
  exita : DWord
  w : Nat
  vregs : List Nat
  sregs : List Nat
  seqs : List (Nat × Nat)
  iter : Nat
  i : Nat
  wNow : Nat
  serial : Bool
  inGuess : Bool
  /-- Guesses by instance. -/
  guesses : List (Nat × CarryVal)
  /-- The true carry at the window's start. -/
  carry : List CarryVal
  insts : List Inst
  /-- Pool, sequence, mark (14 R235). -/
  marks : List (Nat × Nat × Nat)
  deriving DecidableEq, Repr

/-- Bytes of global memory that a write replaced while coaches stood, for fetches that may still return them (03 R46):
the step, the operation that wrote (0 for none), whether all that it writes is one write, the key and what stood
there. -/
structure Past where
  at' : Nat
  op : Nat
  one : Bool
  key : Nat
  old : List Byte
  deriving DecidableEq, Repr

/-- Trap causes (23 R368). -/
inductive Cause where
  | pcAlign | fetchFault | illegalInstruction | reservedOpcode | reservedModifier | illegalOperand | regRange
  | accUnbound | accKind | accFormat | tileInvalid | tileMismatch | tileRange | handleStale | poison
  | addrRange | addrAlign | xlateForm | xlateNone | xlatePerm | world | homeStack | indexRange | notready
  | cancelled | preempted | baddesc | badstep | length | notarget | triggerBlock
  | jtabFault | lpadFault | dbrMismatch | joinMismatch | stackOverflow | divergeIllegal | successorMismatch
  | launchRecord | specSetup | specIllegal | apIllegal | apFault | trap | syscall | breakpoint
  | saveCorrupt | restoreShort | privilege | doubleFault | queueTail
  deriving DecidableEq, Repr

/-- A translation that a unit of a package may use for a page: its leaf, or the cause that a walk gave (22 R360, R361). -/
structure TlbEntry where
  pkg : Nat
  engine : Nat
  world : Bool
  space : BitVec 16
  page : Nat
  bits : Nat
  leaf : DWord
  fail : Option Cause
  deriving DecidableEq, Repr

/-- A walk that failed with WORLD and was counted: its block, its page and its step (22 R360). -/
structure Walked where
  blk : Nat
  world : Bool
  space : BitVec 16
  page : Nat
  at' : Nat
  deriving DecidableEq, Repr

/-- A pre-emption request under way (23 R372-R375): its world, whether it restores, its coach, its limit in ns (0:
none) and the base of its image. -/
structure Preempt where
  world : Bool
  restore : Bool
  coach : Nat
  limit : Nat
  base : Nat
  deriving DecidableEq, Repr

/-- The boot of the management processor (22 R365). -/
inductive Boot where
  | pending | failed | verified
  deriving DecidableEq, Repr

/-- Whose turn it is to move. -/
inductive Turn where
  /-- The carriage `self` fetches and runs its next instruction. -/
  | fetch
  /-- The access-processor context of `self` does. -/
  | ap
  /-- An event of the machine happens. -/
  | event (e : Instr)
  /-- A pre-emption request of a world may proceed: 0 PREEMPT_ELIGIBLE, 1 PREEMPT_DEADLINE, 2 RESTORE_PLACE. -/
  | preempt (k : Nat) (world : Bool)
  /-- Something inside the memory system or outside the package moves: the k-th of its sort (see `innerTurn`). -/
  | inner (sort k : Nat)
  /-- Time passes. -/
  | idle
  deriving DecidableEq, Repr

/-- What may move next. -/
inductive Move where
  | fetch (cid : Nat)
  | ap (cid : Nat)
  | event (e : Instr)
  | preempt (k : Nat) (world : Bool)
  | inner (sort k : Nat)
  | input
  | idle
  deriving DecidableEq, Repr

/-- The whole machine. -/
structure State where
  /-- The carriage whose turn it is (an exited one when none stands), and the others. -/
  self : Carriage
  rest : List Carriage
  apMode : Bool
  turn : Turn
  tick : Nat
  /-- The turn at which a move that is due must be taken, and the moves due, oldest first (19 R312). The model's own. -/
  fairAt : Nat
  due : List Move
  cyc : Nat
  ns : Nat
  nextId : Nat
  inputs : List Instr
  v : Cells 32
  p : Cells 1
  live : Cells 1
  vPoison : Cells 1
  accSt : Cells 64
  accData : Cells 32
  accLen : Cells 7
  accPoison : Cells 1
  mem : Memory
  mPoison : Cells 1
  ctr : Cells 32
  sysr : Cells 64
  loads : List PendLoad
  stores : List PendStore
  /-- Accesses not performed yet, in their order of arrival (11 R193). -/
  waits : List LocAcc
  /-- Performed stores that some carriages do not see yet, oldest first (12 R203, R207). -/
  stale : List Stale
  /-- Releases that an acquire may still meet, oldest first (12 R205). -/
  syncs : List Sync
  /-- How this turn's accesses take effect: 0 at once and for all, 1 later, 2 at once but not for all. The model's own. -/
  lag : Nat
  ops : List EngOp
  passes : List Pass
  triggers : List Trigger
  coaches : List Coach
  launches : List Launch
  /-- Records that their queues' tails have passed, not accepted yet. -/
  records : List HeldRecord
  devCount : Nat
  /-- Device launches that reached the dispatcher in its last cycle: the cycle of the switch die, PATHIX [15:0] and core of the
  issuer (17 R290). -/
  devSeen : List (Nat × Nat × Nat)
  bins : List Bin
  windows : List TileWin
  subs : List SubCart
  parts : List CartPart
  replies : List CartReply
  colls : List Coll
  msgs : List CollMsg
  combMsgs : List CombMsg
  combs : List CombEntry
  bypass : List Bypass
  bypassHold : Bool
  /-- The switch's overflow count (15 R250). -/
  overflow : Word
  /-- Receives that ended without their chunk, which is dropped when it comes (15 R248). -/
  owed : List CollLink
  destAccs : List DestAcc
  ranges : List KvRange
  freeHead : Cells 33
  poolClosing : List Nat
  scrubNext : Cells 32
  loops : List Loop
  tlb : List TlbEntry
  walked : List Walked
  /-- Newest first. -/
  past : List Past
  routes : List (Nat × List Nat)
  preempt : List Preempt
  unread : Cells 1
  /-- Lines and counters written since the last turn, each with the carriage that wrote it where that is known, for the spin
  detector (19 R314). The model's own. -/
  wrote : List (Nat × Nat)
  /-- Replays that failed in a row, by port (24 R381). -/
  crcFails : Cells 8
  boot : Boot
  /-- The configuration record (22 R365). -/
  record : List Byte
  /-- The HDM decoders, at most two, as the host has configured them over CXL.io: base and size of host addresses and the
  physical address of the first (22 R362); the 64-byte lines of HBM that the host caches. -/
  hdm : List (Nat × Nat × Nat)
  hostLines : List Nat
  /-- Functions that passed their self-test, and ports whose link is established (24 R386). -/
  tested : Cells 1
  linked : Cells 1
  /-- The samples of the last 100 us in milliwatts, newest first; steps of 125 MHz below 4.0 GHz; time below 2,300 W in
  us (33 R422). -/
  power : List Nat
  clockStep : Nat
  coolUs : Nat
  /-- What the part last answered: over the DOE mailbox; over CXL with its units marked poisoned; to the debugger. -/
  spdmOut : List Byte
  cxlOut : List Byte
  cxlBad : List Bool
  dbgOut : List Byte
  /-- What it last sent over an Akbex port: a packed cart or reply (13 R215), or the bytes a peer's copy reads. -/
  akbexOut : List Byte
  /-- Which 8-byte units of it are poisoned; those past the end of the list are not (24 R383). -/
  akbexBad : List Bool
  /-- The debug unit's fault log: carriage and record (23 R370). -/
  faultLog : List (Nat × TrapRec)
  deriving DecidableEq, Repr

/-! ## Reset (24 R387: every register, SRAM, queue, poison mark and error counter is cleared) -/

/-- The trap record before any trap: SLOT reads 0xFFFF (23 R369). -/
def TrapRec.reset : TrapRec :=
  { cause := 0xFFFF0000#64, tpc := 0, tres := 0, taddr := 0, tinfo := 0, ttok := 0 }

def Spin.reset : Spin :=
  { branch := 0, target := 0, count := 0, s := [], k := 0, trip := [], marks := [], lowered := false, deadline := 0 }

/-- No instruction issued yet. -/
def Issue.reset : Issue := { stall := 0, yld := false, slow := [], lanes := 0, waited := 0 }

/-- No carriage: the value of `self` while none stands. Its AST, MDEF and PATHIX are the reset values of R30, R31
and R32. -/
def Carriage.none : Carriage :=
  { id := 0, kind := .home, coach := 0, launch := 0, core := 0, slot := 0, index := 0, slots := [], nreg := 0
    accs := 0, spillBytes := 0, spillBase := 0, spillBlock := 0, prio := 0, world := false, space := 0, pc := 0, s := [], k := 0
    t := [], hTok := [], hOp := [], hStat := [], hDone := 0, hTf := 0, hAddr := [], ast := 0, mdef := 0x60#64
    pathix := 0xFFFF#32, spinst := 0, trap := TrapRec.reset, handler := false, halted := false, seq := 0, q := []
    qClosed := 0xFF#8, ap := Option.none, wait := .exited, spin := Spin.reset, issue := Issue.reset, sPoison := 0, age := 0, tie := 0, lead := 0
    entry := 0, wlog := [] }

/-- The machine right after reset: no coach, launch or operation stands, nothing is ready, memory lists nothing. -/
def State.reset : State :=
  { self := Carriage.none, rest := [], apMode := false, turn := .idle, tick := 0, fairAt := 0, due := [], cyc := 0, ns := 0, nextId := 1
    inputs := [], v := [], p := [], live := [], vPoison := [], accSt := [], accData := [], accLen := []
    accPoison := [], mem := [], mPoison := [], ctr := [], sysr := [], loads := [], stores := [], waits := [], stale := [], syncs := []
    lag := 0, ops := []
    passes := [], triggers := [], coaches := [], launches := [], records := [], devCount := 0, devSeen := [], bins := []
    windows := [], subs := [], parts := [], replies := [], colls := [], msgs := [], combMsgs := [], combs := []
    bypass := [], bypassHold := false, overflow := 0, owed := [], destAccs := [], ranges := [], freeHead := [], poolClosing := []
    scrubNext := [], loops := [], tlb := [], walked := [], past := [], routes := [], preempt := [], unread := [], wrote := [], crcFails := []
    boot := .pending, record := [], hdm := [], hostLines := [], tested := [], linked := [], power := [], clockStep := 0, coolUs := 0, spdmOut := [], cxlOut := []
    cxlBad := [], dbgOut := [], akbexOut := [], akbexBad := [], faultLog := [] }

end Sys2Proof.Machine
end

