-- ==== Sys2Proof/Machine/Ops.lean ====
section
/-! DEFINITION. The named operations over registers, counters, handles and memory, and taking a trap and returning from
one (02 R23-R39, 23 R367-R371, 24 R383). -/
namespace Sys2Proof.Machine

/-- What a meaning answers. -/
abbrev Out := Host.Outcome State Fault Refusal

/-! ## Free values and the outcome of a wait -/

/-- A choice the manual leaves unspecified; `salt` names the place of use. -/
def free (s : State) (salt : Nat) : Nat := Config.freeNat s.tick salt

/-- The code of a cause (23 R368). -/
def causeCode : Cause → BitVec 8
  | .pcAlign => 0x01
  | .fetchFault => 0x02
  | .illegalInstruction => 0x03
  | .reservedOpcode => 0x04
  | .reservedModifier => 0x05
  | .illegalOperand => 0x06
  | .regRange => 0x07
  | .accUnbound => 0x10
  | .accKind => 0x11
  | .accFormat => 0x12
  | .tileInvalid => 0x13
  | .tileMismatch => 0x14
  | .tileRange => 0x15
  | .handleStale => 0x16
  | .poison => 0x17
  | .addrRange => 0x20
  | .addrAlign => 0x21
  | .xlateForm => 0x22
  | .xlateNone => 0x23
  | .xlatePerm => 0x24
  | .world => 0x25
  | .homeStack => 0x26
  | .indexRange => 0x27
  | .notready => 0x28
  | .cancelled => 0x30
  | .preempted => 0x31
  | .baddesc => 0x32
  | .badstep => 0x33
  | .length => 0x34
  | .notarget => 0x35
  | .triggerBlock => 0x36
  | .jtabFault => 0x40
  | .lpadFault => 0x41
  | .dbrMismatch => 0x42
  | .joinMismatch => 0x43
  | .stackOverflow => 0x44
  | .divergeIllegal => 0x45
  | .successorMismatch => 0x46
  | .launchRecord => 0x47
  | .specSetup => 0x48
  | .specIllegal => 0x49
  | .apIllegal => 0x4A
  | .apFault => 0x4B
  | .trap => 0x50
  | .syscall => 0x51
  | .breakpoint => 0x52
  | .saveCorrupt => 0x60
  | .restoreShort => 0x61
  | .privilege => 0x62
  | .doubleFault => 0x63
  | .queueTail => 0x64

/-! ## Carriages -/

/-- Every carriage that stands. -/
def cars (s : State) : List Carriage := if s.self.id = 0 then s.rest else s.self :: s.rest

/-- A carriage by number. -/
def car? (s : State) (cid : Nat) : Option Carriage := (cars s).find? (fun c => c.id == cid)
def car (s : State) (cid : Nat) : Carriage := (car? s cid).getD Carriage.none
/-- The carriage of a number; the moving one costs no search. -/
def theCar (s : State) (cid : Nat) : Carriage := if s.self.id = cid then s.self else car s cid

/-- Change the moving carriage. -/
def onSelf (s : State) (f : Carriage → Carriage) : State := { s with self := f s.self }
/-- Change every carriage. -/
def mapCars (s : State) (f : Carriage → Carriage) : State :=
  { s with self := (if s.self.id = 0 then s.self else f s.self), rest := s.rest.map f }
/-- Another carriage becomes the moving one. -/
def focus (s : State) (cid : Nat) : State :=
  if s.self.id = cid then s
  else match s.rest.find? (fun c => c.id == cid) with
    | none => s
    | some c =>
      let others := s.rest.filter (fun x => x.id != cid)
      { s with self := c, rest := if s.self.id = 0 then others else s.self :: others }
/-- Change one carriage by number. -/
def onCar (s : State) (cid : Nat) (f : Carriage → Carriage) : State :=
  mapCars s (fun c => if c.id = cid then f c else c)

def coach? (s : State) (k : Nat) : Option Coach := s.coaches.find? (fun c => c.id == k)
def onCoach (s : State) (k : Nat) (f : Coach → Coach) : State :=
  { s with coaches := s.coaches.map (fun c => if c.id = k then f c else c) }
def launch? (s : State) (k : Nat) : Option Launch := s.launches.find? (fun l => l.id == k)
def onLaunch (s : State) (k : Nat) (f : Launch → Launch) : State :=
  { s with launches := s.launches.map (fun l => if l.id = k then f l else l) }
def op? (s : State) (k : Nat) : Option EngOp := s.ops.find? (fun o => o.id == k)
def onOp (s : State) (k : Nat) (f : EngOp → EngOp) : State :=
  { s with ops := s.ops.map (fun o => if o.id = k then f o else o) }
def loop? (s : State) (cid : Nat) : Option Loop := s.loops.find? (fun l => l.cid == cid)
def onLoop (s : State) (cid : Nat) (f : Loop → Loop) : State :=
  { s with loops := s.loops.map (fun l => if l.cid = cid then f l else l) }

/-- The coach of the moving carriage. -/
def ownCoach (s : State) : Option Coach := coach? s s.self.coach
/-- The launch of the moving carriage. -/
def ownLaunch (s : State) : Option Launch := launch? s s.self.launch

/-- The lowest-numbered unfinished coach of a running launch (19 R311). -/
def isLowest (l : Launch) (k : Coach) : Bool :=
  !k.spawn && l.accepted && !l.done && (nubNat (l.retiredIx.filter (fun i => i < k.index))).length == k.index

/-! ## The access-processor context in place of the control thread (14 R241, R242) -/

def ApCtx.none : ApCtx :=
  { s := [], k := 0, pc := 0, running := false, exited := false, faulted := false, cause := 0, inbound := [], sPoison := 0 }
def apOf (s : State) : ApCtx := s.self.ap.getD ApCtx.none
def onAp (s : State) (f : ApCtx → ApCtx) : State := onSelf s (fun c => { c with ap := some (f (apOf s)) })

/-! ## Program counter -/

def pcOf (s : State) : DWord := if s.apMode then (apOf s).pc else s.self.pc
def setPc (s : State) (a : DWord) : State :=
  if s.apMode then onAp s (fun c => { c with pc := a }) else onSelf s (fun c => { c with pc := a })
/-- PC + 12 (03 R44). -/
def nextPc (s : State) : State := setPc s (pcOf s + 12)

/-! ## s and k registers (02 R23, R25) -/

/-- The number of the s register an operand field names (02 R26). -/
def sNum (f : OpField) : Nat := f.toNat - 1536
/-- The field names an s register. -/
def isS (f : OpField) : Bool := 1536 ≤ f.toNat && f.toNat < 1792

def sFile (s : State) : Cells 64 := if s.apMode then (apOf s).s else s.self.s
/-- s[n]; s0 reads 0. -/
def rsN (s : State) (n : Nat) : DWord := if n = 0 then 0 else cget (sFile s) n
/-- The s register a field names. -/
def rs (s : State) (f : OpField) : DWord := rsN s (sNum f)

/-- One bit of a register set or cleared. -/
def setBitTo {w : Nat} (x : BitVec w) (n : Nat) (b : Bool) : BitVec w :=
  if b then x ||| (1#w <<< n) else x &&& ~~~(1#w <<< n)

/-- s[n] written, its poison cleared; a write to s0 is discarded (02 R25). -/
def wsN (s : State) (n : Nat) (x : DWord) : State :=
  if n = 0 then s
  else if s.apMode then onAp s (fun c => { c with s := cset c.s n x, sPoison := setBitTo c.sPoison n false })
  else onSelf s (fun c => { c with s := cset c.s n x, sPoison := setBitTo c.sPoison n false })
def ws (s : State) (f : OpField) (x : DWord) : State := wsN s (sNum f) x

/-- k[n]; k0 reads true. -/
def rk (s : State) (n : Nat) : Bool :=
  n == 0 || (if s.apMode then (apOf s).k.getLsbD n else s.self.k.getLsbD n)
/-- k[n] written; a write to k0 is discarded (02 R25). -/
def wk (s : State) (n : Nat) (b : Bool) : State :=
  if n = 0 then s
  else if s.apMode then onAp s (fun c => { c with k := setBitTo c.k n b })
  else onSelf s (fun c => { c with k := setBitTo c.k n b })

/-- The guard condition of a scalar instruction, after negation (00 R4, 03 R52). -/
def kGuard (h : Head) (s : State) : Bool := rk s h.guard.toNat != h.gneg

/-! ## v and p registers by thread (02 R23, R28) -/

def vKey (tid n : Nat) : Nat := tid * 2048 + n
def pKey (tid n : Nat) : Nat := tid * 16 + n

def rv (s : State) (tid n : Nat) : Word := cget s.v (vKey tid n)
/-- The pair v(n):v(n+1), the low word in the even register. -/
def rv64 (s : State) (tid n : Nat) : DWord := rv s tid (n + 1) ++ rv s tid n
/-- Write v registers, element by element; a full overwrite clears their poison (24 R383). -/
def wvAll (s : State) (es : List (Nat × Word)) : State :=
  { s with v := csetAll s.v es, vPoison := csetAll s.vPoison (es.map (fun e => (e.1, 0))) }
/-- The cells of a 64-bit value in a pair. -/
def pairCells (tid n : Nat) (x : DWord) : List (Nat × Word) :=
  [(vKey tid n, x.setWidth 32), (vKey tid (n + 1), (x >>> 32).setWidth 32)]

/-- p[n] of a thread; p0 reads 1. -/
def rp (s : State) (tid n : Nat) : Bool := n == 0 || cget s.p (pKey tid n) == 1
/-- Write predicate n of threads; a write to p0 is discarded. -/
def wpAll (s : State) (n : Nat) (es : List (Nat × Bool)) : State :=
  if n = 0 then s
  else { s with p := csetAll s.p (es.map (fun e => (pKey e.1 n, BitVec.ofBool e.2))) }

/-- The thread has not exited. -/
def isLive (s : State) (tid : Nat) : Bool := cget s.live tid == 1
/-- Slots and threads of a carriage, empty slots left out, in ascending slot order. -/
def slotsFrom : Nat → List Nat → List (Nat × Nat)
  | _, [] => []
  | i, 0 :: r => slotsFrom (i + 1) r
  | i, (t + 1) :: r => (i, t) :: slotsFrom (i + 1) r
def slotsOf (c : Carriage) : List (Nat × Nat) := slotsFrom 0 c.slots
/-- Live threads of a carriage: slot and thread. -/
def liveOf (s : State) (c : Carriage) : List (Nat × Nat) := (slotsOf c).filter (fun st => isLive s st.2)
/-- Active threads of a vector instruction (00 R4): slot and thread. -/
def active (s : State) (h : Head) : List (Nat × Nat) :=
  (liveOf s s.self).filter (fun st => rp s st.2 h.guard.toNat != h.gneg)
/-- The carriage width. -/
def widthOf (c : Carriage) : Nat := c.slots.length

/-- Home carriage and home index of a thread (06 R101). -/
def homeCar (tid : Nat) : Nat := tid / 128
def homeIdx (tid : Nat) : Nat := tid % 128
/-- The home carriages whose threads a carriage holds (18 R297): itself, when it is a home of its threads. -/
def homesOf (c : Carriage) : List Nat :=
  match c.kind with
  | .path => nubNat ((slotsOf c).map (fun st => homeCar st.2))
  | _ => [c.id]

/-! ## Poison (24 R383): by register element, accumulator word and 8-byte unit -/

def vBad (s : State) (tid n : Nat) : Bool := cget s.vPoison (vKey tid n) == 1
def sBad (s : State) (n : Nat) : Bool :=
  if s.apMode then (apOf s).sPoison.getLsbD n else s.self.sPoison.getLsbD n
/-- Poison or clear elements of v registers by key. -/
def markV (s : State) (keys : List Nat) (b : Bool) : State :=
  { s with vPoison := csetAll s.vPoison (keys.map (fun k => (k, BitVec.ofBool b))) }
def markS (s : State) (n : Nat) (b : Bool) : State :=
  onSelf s (fun c => { c with sPoison := if n = 0 then c.sPoison else setBitTo c.sPoison n b })

/-! ## Memory: one store for every space, keyed by tag, index and offset -/

inductive Space where
  /-- Coach shared memory, by coach. -/
  | shm
  /-- Die scratchpad, by die. -/
  | scr
  /-- Tile memory, by quad: slice n at n * 65,536. -/
  | tile
  /-- HBM, by package fabric number. -/
  | hbm
  /-- Host memory. -/
  | host
  deriving DecidableEq, Repr

def spaceTag : Space → Nat
  | .shm => 0
  | .scr => 1
  | .tile => 2
  | .hbm => 3
  | .host => 4

/-- Offsets take 48 bits; the tag 3; the index the rest. -/
def memKey (sp : Space) (idx off : Nat) : Nat := (idx * 8 + spaceTag sp) * 2 ^ 48 + off

/-- One byte; an unlisted byte reads 0. -/
def mget (s : State) (key : Nat) : Byte := cget s.mem key
def mread (s : State) (key n : Nat) : List Byte := cgetN s.mem key n
/-- `n` bytes as a little-endian number. -/
def mnum (s : State) (key n : Nat) : Nat := leNat (mread s key n)

/-- The 8-byte units that n bytes touch, and those they cover whole. -/
def unitsTouched (key n : Nat) : List Nat := if n = 0 then [] else span (key / 8) ((key + n - 1) / 8 - key / 8 + 1)
def unitsCovered (key n : Nat) : List Nat := span ((key + 7) / 8) ((key + n) / 8 - (key + 7) / 8)
def mBad (s : State) (key n : Nat) : Bool := (unitsTouched key n).any (fun u => cget s.mPoison u == 1)
/-- The 128-byte lines that n bytes touch. -/
def linesTouched (key n : Nat) : List Nat :=
  if n = 0 then [] else span (key / 128) ((key + n - 1) / 128 - key / 128 + 1)

/-- Poison or clear units of memory. -/
def markM (s : State) (units : List Nat) (b : Bool) : State :=
  { s with mPoison := csetAll s.mPoison (units.map (fun u => (u, BitVec.ofBool b))) }
/-- What a write of global memory replaces is kept while coaches stand (03 R46). -/
def keepPast (s : State) (key n : Nat) : List Past :=
  if s.coaches.isEmpty || key / 2 ^ 48 % 8 < spaceTag .hbm then s.past
  else { at' := s.tick, op := 0, one := false, key := key, old := mread s key n } :: s.past
/-- What was written since the list of replaced bytes was `n` long is an operation's, and part of one write of its. -/
def ofWrite (s : State) (n op : Nat) (one : Bool) : State :=
  let k := s.past.length - n
  { s with past := (s.past.take k).map (fun e => { e with op := op, one := one }) ++ s.past.drop k }
/-- Lines of HBM that the host caches are recalled before they are written (22 R362). -/
def recallLines (s : State) (key n : Nat) : List Nat :=
  if key / 2 ^ 48 % 8 != spaceTag .hbm || key / 2 ^ 51 != Config.ownPackage then s.hostLines
  else s.hostLines.filter (fun l => 64 * l + 64 ≤ key % 2 ^ 48 || key % 2 ^ 48 + n ≤ 64 * l)
/-- Hidden stores to bytes that are written now come to be seen (12 R202). -/
def unhidden (p : Nat → Bool) (es : List Stale) : List Stale := es.filter (fun e => !e.old.any (fun o => p o.1))
/-- What a release wrote there is overwritten (12 R205). -/
def unsynced (p : Nat → Bool) (ys : List Sync) : List Sync :=
  (ys.map (fun y => { y with keys := y.keys.filter (fun k => !p k) })).filter (fun y => !y.keys.isEmpty)
def inRun (key n k : Nat) : Bool := key ≤ k && k < key + n
/-- Write bytes: units covered whole lose their poison. -/
def mwrite (s : State) (key : Nat) (bs : List Byte) : State :=
  { s with stale := unhidden (inRun key bs.length) s.stale, syncs := unsynced (inRun key bs.length) s.syncs
           mem := csetN s.mem key bs, wrote := (linesTouched key bs.length).map (fun l => (l, 0)) ++ s.wrote, past := keepPast s key bs.length
           hostLines := recallLines s key bs.length
           mPoison := csetAll s.mPoison ((unitsCovered key bs.length).map (fun u => (u, 0))) }

/-! ## Trigger counters (02 R38) -/

def ctrKey (coach j : Nat) : Nat := coach * 8 + j
/-- A counter's value; n7 bound to the timebase reads its low 32 bits. -/
def rctr (s : State) (coach j : Nat) : Word :=
  match coach? s coach with
  | some c => if j = 7 && c.n7 then BitVec.ofNat 32 s.ns else cget s.ctr (ctrKey coach j)
  | none => cget s.ctr (ctrKey coach j)

/-- n7 of a coach is bound to the timebase. -/
def n7Bound (s : State) (coach : Nat) : Bool :=
  match coach? s coach with
  | some c => c.n7
  | none => false
/-- A term of a trigger: the counter reads at or above the immediate; on a bound n7 the difference, read as signed,
is not negative (15 R254). -/
def termHolds (s : State) (coach : Nat) (t : TrigTerm) : Bool :=
  if t.ctr = 7 && n7Bound s coach then 0 ≤ (rctr s coach 7 - t.imm).toInt
  else t.imm.toNat ≤ (rctr s coach t.ctr).toNat
def trigHolds (s : State) (t : Trigger) : Bool :=
  t.terms.isEmpty || (if t.orJoin then t.terms.any (termHolds s t.coach) else t.terms.all (termHolds s t.coach))

/-- Triggers and counter yields of a coach are evaluated at a change of its counters (15 R254, 21 R340): one that
holds stays due, from then on. Kind 3 is a counter yield whose term has held. -/
def evalCtrs (s : State) (coach : Nat) : State :=
  mapCars { s with triggers := s.triggers.map (fun t =>
              if t.coach = coach && t.due.isNone && trigHolds s t then { t with due := some (s.ns, s.tick) } else t) }
    (fun c =>
      match c.wait with
      | .yielded 2 ref imm cont =>
        if c.coach = coach && termHolds s coach { imm := imm, ctr := ref.toNat } then
          { c with wait := .yielded 3 ref imm cont }
        else c
      | _ => c)

/-- Numbers above every line, for the counters among what a step wrote. -/
def ctrMark (coach j : Nat) : Nat := 2 ^ 128 + ctrKey coach j

/-- The spin detector of the moving carriage sees reads; what it read more than 64 instructions away is forgotten
(19 R314). -/
def noteMarks (s : State) (marks : List Nat) : State :=
  if s.apMode || s.self.spin.lowered then s
  else onSelf s (fun c =>
    let near (a : DWord) : Bool := a.toNat ≤ c.pc.toNat + 768 && c.pc.toNat ≤ a.toNat + 768
    { c with spin := { c.spin with
      trip := c.spin.trip.filter (fun r => near r.1 && !(r.1 == c.pc && marks.contains r.2)) ++ marks.map (fun m => (c.pc, m)) } })

/-- What `s` has written since `was` a carriage wrote. -/
def wroteBy (cid : Nat) (was s : State) : State :=
  let n := s.wrote.length - was.wrote.length
  { s with wrote := (s.wrote.take n).map (fun x => (x.1, cid)) ++ s.wrote.drop n }
/-- Write a counter; a write to a bound n7 is discarded. -/
def wctr (s : State) (coach j : Nat) (x : Word) : State :=
  match coach? s coach with
  | some c =>
    if j = 7 && c.n7 then s
    else evalCtrs { s with ctr := cset s.ctr (ctrKey coach j) x, wrote := (ctrMark coach j, 0) :: s.wrote } coach
  | none => s
/-- Add to a counter, mod 2^32. -/
def actr (s : State) (coach j : Nat) (n : Word) : State := wctr s coach j (rctr s coach j + n)

/-! ## System registers: stored as the difference from their reset values -/

/-- A register's key: package, world (0 or 1 for the world blocks), block, offset. -/
def sysKey (pkg w blk off : Nat) : Nat := ((pkg * 2 + w) * 256 + blk) * 2 ^ 24 + off

/-- CAP at reset: ARCH 1, LSKIB 1,024, COACHSLOTS 4, CARRSLOTS 16, VRCAP 768 (02 R39). -/
def capReset : DWord := BitVec.ofNat 64 (2 ^ 32 + 1024 * 2 ^ 18 + 4 * 2 ^ 15 + 16 * 2 ^ 10 + 768)

/-- The reset value of a register (22 R355, 19 R306, 24 R385, 25 R389): 0 but for these. -/
def sysReset (blk off : Nat) : DWord :=
  if blk = 1 then
    let o := off % 2 ^ 16
    if o = 0x400 then 2048 else if o = 0x410 then capReset else 0
  else if blk = 3 then (if off % 0x100 = 0x40 then 100 else 0)
  else if blk = 4 then (if 0x1000 ≤ off ∧ off < 0x2000 ∧ off % 0x40 = 0x08 then 32 else 0)
  else 0

def rsysP (s : State) (pkg w blk off : Nat) : DWord := cget s.sysr (sysKey pkg w blk off) ^^^ sysReset blk off
def wsysP (s : State) (pkg w blk off : Nat) (x : DWord) : State :=
  { s with sysr := cset s.sysr (sysKey pkg w blk off) (x ^^^ sysReset blk off) }
/-- This package's register. -/
def rsys (s : State) (w blk off : Nat) : DWord := rsysP s Config.ownPackage w blk off
def wsys (s : State) (w blk off : Nat) (x : DWord) : State := wsysP s Config.ownPackage w blk off x

/-- The world's number in a key: 1 for S. -/
def wIdx (world : Bool) : Nat := if world then 1 else 0

/-- Core registers lie at the core's number times 2^16 in block 0x01. -/
def coreReg (core off : Nat) : Nat := core * 2 ^ 16 + off
def rcore (s : State) (core off : Nat) : DWord := rsys s 0 1 (coreReg core off)
def wcore (s : State) (core off : Nat) (x : DWord) : State := wsys s 0 1 (coreReg core off) x

/-- A readiness bit (24 R386). -/
def ready (s : State) (fn : Nat) : Bool := (rsys s 0 2 (8 * (fn / 64))).getLsbD (fn % 64)
def setReady (s : State) (fn : Nat) (b : Bool) : State :=
  wsys s 0 2 (8 * (fn / 64)) (setBitTo (rsys s 0 2 (8 * (fn / 64))) (fn % 64) b)

/-! ## Cores, quads, dies (01 R10, R11). A core's number is x + 16 * y. -/

def coreX (core : Nat) : Nat := core % 16
def coreY (core : Nat) : Nat := core / 16
def dieOf (core : Nat) : Nat := coreX core / 8
def quadOf (core : Nat) : Nat := 16 * dieOf core + 4 * (coreY core / 2) + coreX core % 8 / 2
/-- The four cores of a quad, in rank order. -/
def quadCores (q : Nat) : List Nat :=
  let x := 8 * (q / 16) + 2 * (q % 4)
  let y := 2 * (q % 16 / 4)
  [x + 16 * y, x + 1 + 16 * y, x + 16 * (y + 1), x + 1 + 16 * (y + 1)]

/-- Vector register capacity in bytes (02 R40). -/
def vrcap (s : State) (core : Nat) : Nat := field (rcore s core 0x410) 0 10 * 1024

/-! ## Handles (02 R36, 21 R338) -/

def tokCtag (tok : DWord) : Nat := field tok 16 20
def tokCix (tok : DWord) : Nat := field tok 4 12
def tokH (tok : DWord) : Nat := field tok 0 4
def mkToken (seq ctag cix h : Nat) : DWord :=
  BitVec.ofNat 64 (seq % 2 ^ 28 * 2 ^ 36 + ctag % 2 ^ 20 * 2 ^ 16 + cix % 2 ^ 12 * 16 + h % 16)

def handleOf (c : Carriage) (h : Nat) : HandleView :=
  { tok := cget c.hTok h, op := (cget c.hOp h).toNat, done := c.hDone.getLsbD h, stat := cget c.hStat h, tf := c.hTf.getLsbD h
    addr := cget c.hAddr h }
/-- EMPTY: no token (21 R338). -/
def HandleView.empty (v : HandleView) : Bool := v.tok == 0
def HandleView.pending (v : HandleView) : Bool := v.tok != 0 && !v.done
/-- The status word as WAITH and TSTH read it: [63:62] read 0 (21 R339). -/
def HandleView.status (v : HandleView) : DWord := if v.empty then 0 else v.stat &&& 0x3FFFFFFFFFFFFFFF#64
/-- FAULT of a status word (11 R194). -/
def statFault (x : DWord) : Bool := x.getLsbD 61
def statCause (x : DWord) : BitVec 8 := x.extractLsb' 48 8

/-- The handle a token names, when the token is live for the moving carriage (21 R338). -/
def tokenHandle (s : State) (tok : DWord) : Option HandleView :=
  match ownCoach s with
  | none => none
  | some k =>
    if tokCtag tok ≠ k.ctag then none
    else
      match (cars s).find? (fun c => c.coach == k.id && c.index % 4096 == tokCix tok && cget c.hTok (tokH tok) == tok) with
      | some c => some (handleOf c (tokH tok))
      | none => k.kept.find? (fun v => v.tok == tok)

/-- A handle made PENDING with a new token (02 R36). -/
def pendHandle (c : Carriage) (h op : Nat) (tok : DWord) (tf : Bool) (addr : DWord) : Carriage :=
  { c with
    hTok := cset c.hTok h tok, hOp := cset c.hOp h (BitVec.ofNat 64 op), hStat := cset c.hStat h 0, hDone := setBitTo c.hDone h false
    hTf := setBitTo c.hTf h tf, hAddr := cset c.hAddr h addr }

/-- Every copy of an operation's handle becomes DONE with its status (02 R36, 11 R195). -/
def doneToken (s : State) (op : Nat) (tok status : DWord) : State :=
  let s := { s with coaches := s.coaches.map (fun k => { k with kept := k.kept.map (fun v =>
    if v.tok = tok ∧ v.op = op then { v with stat := status, done := true } else v) }) }
  mapCars s (fun c =>
    if cget c.hTok (tokH tok) == tok && tok != 0 && cget c.hOp (tokH tok) == BitVec.ofNat 64 op then
      { c with hStat := cset c.hStat (tokH tok) status, hDone := setBitTo c.hDone (tokH tok) true }
    else c)

/-! ## Divergent regions (18 R298) -/

/-- The live entry of a coach by index. -/
def recon? (s : State) (coach e : Nat) : Option Recon :=
  match coach? s coach with
  | some k => k.recons.find? (fun r => r.idx == e)
  | none => none

/-- Inside a divergent region (02 R32, PATHIX [20]). -/
def inRegion (c : Carriage) : Bool := c.pathix.getLsbD 20
/-- Innermost reconvergence entry, PATHIX [19:16]. -/
def pathEntry (c : Carriage) : Nat := field c.pathix 16 4
/-- Path number, PATHIX [15]. -/
def pathNo (c : Carriage) : Nat := field c.pathix 15 1

/-- Nesting depth along the parent links (23 R369). -/
def depthFrom (rs : List Recon) : Nat → Nat → Nat
  | 0, _ => 0
  | fuel + 1, e =>
    match rs.find? (fun r => r.idx == e) with
    | none => 0
    | some r =>
      match r.parent with
      | none => 1
      | some p => 1 + depthFrom rs fuel p.1
def depthOf (s : State) (c : Carriage) : Nat :=
  if inRegion c then
    match coach? s c.coach with
    | some k => depthFrom k.recons 16 (pathEntry c)
    | none => 0
  else 0

/-! ## Speculative instances: rejection and poison (20 R323, R326, R328) -/

/-- The loop a carriage's coach runs: its one carriage, the instances and their path carriages (20 R319). -/
def loopOf (s : State) (c : Carriage) : Option Loop := s.loops.find? (fun l => (car s l.cid).coach == c.coach)

/-- It steps a counter or enters a record at its completion. -/
def signals (o : EngOp) : Bool := o.ring != 0 || o.ctr != 0
/-- A held operation of a rejected instance, or one that has not issued, does nothing and completes with CANCELLED
(16 R266). -/
def dropOp (o : EngOp) : EngOp :=
  { o with stage := .ready, kind := .failed, out := [], shared := [], excl := [], faultBit := true, cause := 0x30, bytes := 0 }

/-- An append that has not reserved its positions yet. -/
def unreserved (o : EngOp) : Bool :=
  match o.kind with
  | .kvapp _ _ _ _ _ _ _ _ none => o.stage == .issued
  | _ => false

/-- Remove carriages with their passes and the divergent regions they opened, and drop their held operations: rejected
instances (20 R323). -/
def dropCars (s : State) (ids : List Nat) : State :=
  { s with
    self := if ids.contains s.self.id then Carriage.none else s.self
    rest := s.rest.filter (fun c => !ids.contains c.id)
    passes := s.passes.filter (fun p => !p.homes.any ids.contains)
    ops := s.ops.map (fun o =>
      if !o.homes.any ids.contains then o
      else
        let o' := if o.stage == .held || o.stage == .requesting || unreserved o || (o.stage == .landed && signals o) then dropOp o else o
        -- no counter steps and no record is entered for it (20 R323)
        { o' with ring := 0, ctr := 0 })
    waits := s.waits.filter (fun w => !w.homes.any ids.contains)
    loads := s.loads.filter (fun l => !l.homes.any ids.contains)
    stores := s.stores.filter (fun l => !l.homes.any ids.contains)
    coaches := s.coaches.map (fun k => { k with recons := k.recons.filter (fun r => !r.members.any ids.contains) }) }

/-- Reject every instance of a loop at or above `j`, path carriages included: their slots are freed (20 R323). -/
def rejectFrom (s : State) (loop j : Nat) : State :=
  match loop? s loop with
  | none => s
  | some l =>
    let coach := (car s loop).coach
    let out := (l.insts.filter (fun i => j ≤ i.j && !i.committed && !i.rejected)).map (fun i => i.j)
    let ids := ((cars s).filter (fun c => c.coach == coach && c.spinst != 0 && out.contains c.spinst)).map (fun c => c.id)
    dropCars (onLoop s loop (fun l => { l with insts := l.insts.map (fun i =>
      if out.contains i.j then { i with rejected := true } else i) })) ids

/-! ## Taking a trap (23 R367-R370) -/

/-- What a trap records beside the pc. -/
structure TrapArgs where
  cause : BitVec 8
  slot : Nat
  taddr : DWord
  tinfo : DWord
  ttok : DWord
  /-- The resume address is P + 12 (TRAP, SYSC). -/
  after : Bool
  deriving DecidableEq, Repr

/-- A trap of a cause alone. -/
def justCause (c : Cause) : TrapArgs := { cause := causeCode c, slot := 0xFFFF, taddr := 0, tinfo := 0, ttok := 0, after := false }

/-- The cause word (23 R369). -/
def causeWord (depth slot : Nat) (c : BitVec 8) : DWord :=
  BitVec.ofNat 64 (depth % 256 * 2 ^ 32 + slot % 2 ^ 16 * 2 ^ 16 + c.toNat)

/-- TVEC of a world (25 R389). -/
def tvec (s : State) (world : Bool) : DWord := rsys s (wIdx world) 4 0

/-- The record of a trap at the carriage's pc (23 R369). -/
def trapRecord (s : State) (a : TrapArgs) : TrapRec :=
  { cause := causeWord (depthOf s s.self) a.slot a.cause, tpc := s.self.pc
    tres := if a.after then s.self.pc + 12 else s.self.pc, taddr := a.taddr, tinfo := a.tinfo, ttok := a.ttok }

/-- The record of a trap raised inside the handler (23 R370): TRES stays, TINFO holds both causes. -/
def doubleRecord (s : State) (a : TrapArgs) : TrapRec :=
  { cause := causeWord (depthOf s s.self) a.slot (causeCode .doubleFault), tpc := s.self.pc
    tres := s.self.trap.tres, taddr := a.taddr
    tinfo := BitVec.ofNat 64 (field s.self.trap.cause 0 8 * 256 + a.cause.toNat), ttok := a.ttok }

/-- The carriage halts with a record, which the debug unit's fault log receives. -/
def haltWith (s : State) (r : TrapRec) : State :=
  onSelf { s with faultLog := s.faultLog ++ [(s.self.id, r)] } (fun c => { c with trap := r, halted := true })
/-- Entry by the rules of R370: the record, handler mode and TVEC; a halt where TVEC is 0 or a handler runs. -/
def enterTrap (s : State) (a : TrapArgs) : State :=
  if s.self.handler then haltWith s (doubleRecord s a)
  else if tvec s s.self.world = 0 then haltWith s (trapRecord s a)
  else onSelf s (fun c => { c with trap := trapRecord s a, handler := true, pc := tvec s s.self.world })

/-- Close the queues of a faulted access-processor context (14 R243). -/
def apFaults (s : State) (c : BitVec 8) : State :=
  onSelf s (fun k => { k with ap := some { apOf s with running := false, faulted := true, cause := c }, qClosed := 0xFF })

/-- Poison an instance above 0: it stops at once and counts as rejected, and so does every instance above it
(20 R326). -/
def poisonInstance (s : State) : State :=
  match loopOf s s.self with
  | none => onSelf s (fun c => { c with wait := .poisoned })
  | some l => rejectFrom s l.cid s.self.spinst
/-- A trap of instance 0 first rejects the instances above it; its iteration goes on as a window of width 1
(20 R328). -/
def rejectAbove (s : State) : State :=
  match loopOf s s.self with
  | none => s
  | some l => onLoop (rejectFrom s l.cid 1) l.cid (fun l => { l with wNow := 1 })

/-- Taking a trap, wherever it is raised: an access-processor context faults (14 R243), an instance above 0 is poisoned
(20 R326), instance 0 first rejects the instances above it (20 R328), and the carriage enters its handler. -/
def takeTrap (s : State) (a : TrapArgs) : State :=
  if s.apMode then apFaults s a.cause
  else if s.self.spinst ≠ 0 then poisonInstance s
  else enterTrap (rejectAbove s) a

/-- A trap with a cause alone. -/
def trapC (s : State) (c : Cause) : State := takeTrap s (justCause c)
/-- A trap with a data address. -/
def trapAt (s : State) (c : Cause) (addr : DWord) : State := takeTrap s { justCause c with taddr := addr }
/-- A trap that a thread's element caused. -/
def trapSlot (s : State) (c : Cause) (slot : Nat) (addr : DWord) : State :=
  takeTrap s { justCause c with slot := slot, taddr := addr }

/-- Return from a trap (23 R371): handler mode ends, PC ← TRES; outside handler mode PRIVILEGE. -/
def returnFromTrap (s : State) : State :=
  if s.self.handler then onSelf s (fun c => { c with handler := false, pc := c.trap.tres }) else trapC s .privilege

/-! ## AST (02 R30) -/

/-- OR flags into AST[4:0]. -/
def raiseFlags (s : State) (f : BitVec 5) : State := onSelf s (fun c => { c with ast := c.ast ||| f.setWidth 64 })

/-! ## Numbers of new things -/

def newId (s : State) : Nat × State := (s.nextId, { s with nextId := s.nextId + 1 })

end Sys2Proof.Machine
end

