-- ==== Sys2Proof/Machine/Operands.lean ====
section
/-! DEFINITION. Operand forms: uniform and per-thread operands, immediates, register pairs, the REG_RANGE and POISON
checks, and the frame every scalar and every vector instruction shares (02 R26-R28, 03 R57, R64, 08 R127-R129). -/
namespace Sys2Proof.Machine

/-! ## Immediates (03 R57) -/

/-- Widened to 64 bits: sign-extended, or zero-extended when U = 1. -/
def widenImm (u : Bool) (imm : Word) : DWord := if u then imm.setWidth 64 else imm.signExtend 64

/-! ## Scalar operands -/

/-- Operand B of a scalar instruction: s[b], or the widened immediate (08 R131). -/
def srcB (i : IntI) (s : State) : DWord :=
  match i.t with
  | .rrr _ => rs s i.h.b
  | .rri imm => widenImm i.u imm

/-- The s register of operand B in the RRR form, for the poison check. -/
def bField (i : IntI) : List OpField :=
  match i.t with
  | .rrr _ => [i.h.b]
  | .rri _ => []

/-- Poisoned s registers among operand fields (24 R383). -/
def anyBadS (s : State) (fs : List OpField) : Bool := fs.any (fun f => isS f && sBad s (sNum f))

/-- A scalar instruction: a false guard only advances the PC; a poisoned source traps POISON (08 R127, 24 R383). -/
def scalarOp (h : Head) (srcs : List OpField) (s : State) (body : State → State) : Out :=
  .next (if kGuard h s = false then nextPc s
    else if anyBadS s srcs then trapC s .poison
    else body s)

/-- A scalar instruction that writes s[d] and goes on. -/
def scalarTo (h : Head) (srcs : List OpField) (s : State) (f : State → DWord) : Out :=
  scalarOp h srcs s (fun s => nextPc (ws s h.d (f s)))

/-- The two-operand form s[d] <- f(s[a], b) of 08 R131. -/
def scalarBin (i : IntI) (s : State) (f : DWord → DWord → DWord) : Out :=
  scalarTo i.h (i.h.a :: bField i) s (fun s => f (rs s i.h.a) (srcB i s))

/-! ## Vector operands (08 R128) -/

/-- A 32-bit operand of a thread: a v register, or the low half of a uniform one. -/
def opV (s : State) (f : OpField) (tid : Nat) : Word :=
  if isS f then (rs s f).setWidth 32 else rv s tid f.toNat
/-- A 64-bit operand of a thread: a pair, or one s register (02 R28). -/
def opV64 (s : State) (f : OpField) (tid : Nat) : DWord :=
  if isS f then rs s f else rv64 s tid f.toNat

/-- Operand B of a 32-bit vector integer instruction. -/
def vecB (i : IntI) (s : State) (tid : Nat) : Word :=
  match i.t with
  | .rrr _ => opV s i.h.b tid
  | .rri imm => imm
/-- Operand B of a 64-bit one. -/
def vecB64 (i : IntI) (s : State) (tid : Nat) : DWord :=
  match i.t with
  | .rrr _ => opV64 s i.h.b tid
  | .rri imm => widenImm i.u imm
/-- The third source: C, or D in the RRI form (08 R129). -/
def vecC (i : IntI) (s : State) (tid : Nat) : Word :=
  match i.t with
  | .rrr t => opV s t.c tid
  | .rri _ => opV s i.h.d tid

/-- An operand field and how many v registers it spans. -/
abbrev Use := OpField × Nat

/-- Uses of B and of C in the form at hand, `n` registers each. -/
def useB (i : IntI) (n : Nat) : List Use :=
  match i.t with
  | .rrr _ => [(i.h.b, n)]
  | .rri _ => []
def useC (i : IntI) (n : Nat) : List Use :=
  match i.t with
  | .rrr t => [(t.c, n)]
  | .rri _ => [(i.h.d, n)]

/-- A v register at or above the carriage's count (03 R63). -/
def rangeBad (s : State) (us : List Use) : Bool :=
  us.any (fun u => u.1.toNat < 1536 && s.self.nreg < u.1.toNat + u.2)

/-- A source element of a thread is poisoned. -/
def threadBad (s : State) (us : List Use) (tid : Nat) : Bool :=
  us.any (fun u => u.1.toNat < 1536 && (span u.1.toNat u.2).any (fun n => vBad s tid n))

/-- The slot a POISON trap names: the lowest active slot with a poisoned source element, or no slot for a uniform
source (23 R369, 24 R383). None when no source is poisoned. -/
def poisonSlot (s : State) (h : Head) (us : List Use) : Option Nat :=
  let act := active s h
  if act.isEmpty then none
  else if us.any (fun u => isS u.1 && sBad s (sNum u.1)) then some 0xFFFF
  else (act.find? (fun st => threadBad s us st.2)).map (fun st => st.1)

/-- The instruction's effect writes a v register that a posted pass reads as A or as a scale, be it with the value it
holds: a poison mark laid on those registers beforehand is gone (10 R172). -/
def passReadHit (s : State) (body : State → State) : Bool :=
  let keys := s.passes.flatMap (fun p => p.regs)
  keys.any (fun k => cget (body (markV s keys true)).vPoison k != 1)
/-- An instruction with this effect goes on at PC + 12, but waits while a posted pass reads what it writes. -/
def nextUnlessRead (s : State) (body : State → State) : State := if passReadHit s body then s else nextPc (body s)

/-- A posted pass reads a v register of these that an active thread would write. -/
def passReads (s : State) (h : Head) (us : List Use) : Bool :=
  s.passes.any (fun p => (active s h).any (fun st => us.any (fun u =>
    (span u.1.toNat u.2).any (fun n => p.regs.contains (vKey st.2 n)))))

/-- A vector instruction: REG_RANGE whatever the guard reads, then POISON at the slot `bad` names, then its effect
and PC + 12. -/
def vecOpWith (regs : List Use) (bad : Option Nat) (s : State) (body : State → State) : Out :=
  .next (if rangeBad s regs then trapC s .regRange
    else match bad with
      | some t => trapSlot s .poison t 0
      | none => nextUnlessRead s body)
/-- The same where the poisoned sources are operand fields of the active threads. -/
def vecOp (h : Head) (regs srcs : List Use) (s : State) (body : State → State) : Out :=
  vecOpWith regs (poisonSlot s h srcs) s body

/-- v[d] of every active thread from a function of slot and thread; all operands are read first (08 R128). -/
def setV (s : State) (h : Head) (f : Nat → Nat → Word) : State :=
  wvAll s ((active s h).map (fun st => (vKey st.2 h.d.toNat, f st.1 st.2)))
/-- The same for a pair. -/
def setV64 (s : State) (h : Head) (f : Nat → Nat → DWord) : State :=
  wvAll s ((active s h).flatMap (fun st => pairCells st.2 h.d.toNat (f st.1 st.2)))
/-- p[d] of every active thread. -/
def setP (s : State) (h : Head) (f : Nat → Nat → Bool) : State :=
  wpAll s h.d.toNat ((active s h).map (fun st => (st.2, f st.1 st.2)))

/-- A 32-bit two-operand vector integer instruction (08 R140). -/
def vecBin (i : IntI) (s : State) (f : Word → Word → Word) : Out :=
  vecOp i.h ((i.h.d, 1) :: (i.h.a, 1) :: useB i 1) ((i.h.a, 1) :: useB i 1) s
    (fun s => setV s i.h (fun _ tid => f (opV s i.h.a tid) (vecB i s tid)))
/-- A 64-bit one on pairs. -/
def vecBin64 (i : IntI) (s : State) (f : DWord → DWord → DWord) : Out :=
  vecOp i.h ((i.h.d, 2) :: (i.h.a, 2) :: useB i 2) ((i.h.a, 2) :: useB i 2) s
    (fun s => setV64 s i.h (fun _ tid => f (opV64 s i.h.a tid) (vecB64 i s tid)))

/-! ## Floating-point operands (03 R57, R59, 09 R150, R151) -/

/-- Operand B, or the immediate as it stands, of a 32-bit or packed instruction. -/
def fpB (i : FpI) (s : State) (tid : Nat) : Word :=
  match i.t with
  | .rrr _ => opV s i.h.b tid
  | .rri imm => imm
def fpUseB (i : FpI) (n : Nat) : List Use :=
  match i.t with
  | .rrr _ => [(i.h.b, n)]
  | .rri _ => []
def fpC (i : FpI) (s : State) (tid : Nat) : Word :=
  match i.t with
  | .rrr t => opV s t.c tid
  | .rri _ => opV s i.h.d tid
def fpC64 (i : FpI) (s : State) (tid : Nat) : DWord :=
  match i.t with
  | .rrr t => opV64 s t.c tid
  | .rri _ => opV64 s i.h.d tid
def fpUseC (i : FpI) (n : Nat) : List Use :=
  match i.t with
  | .rrr t => [(t.c, n)]
  | .rri _ => [(i.h.d, n)]
/-- The source of a unary instruction: A, or the immediate in its place. -/
def fpA1 (i : FpI) (s : State) (tid : Nat) : Word :=
  match i.t with
  | .rrr _ => opV s i.h.a tid
  | .rri imm => imm
def fpUseA1 (i : FpI) (n : Nat) : List Use :=
  match i.t with
  | .rrr _ => [(i.h.a, n)]
  | .rri _ => []

/-! ## Memory defaults (02 R31) -/

/-- ORDER, SCOPE, EVICT of a MEM tail. -/
structure MemAttr where
  order : BitVec 2
  scope : BitVec 3
  evict : BitVec 3
  deriving DecidableEq, Repr

def attrOf (t : MemTail) : MemAttr := { order := t.order, scope := t.scope, evict := t.evict }
def attrMdef (m : DWord) : MemAttr :=
  { order := m.extractLsb' 0 2, scope := m.extractLsb' 2 3, evict := m.extractLsb' 5 3 }

end Sys2Proof.Machine
end

