-- ==== Sys2Proof/Machine/Local.lean ====
section
/-! DEFINITION. Local memory: the spaces a carriage reaches, owned lines, write logs of speculative instances, and one
thread's load, store or atomic (11 R188-R193, R197, 12 R200-R202, R210, 16 R258-R261). -/
namespace Sys2Proof.Machine

/-! ## Spaces (11 R188-R190) -/

/-- Shared-memory bytes per core of a carve-out (11 R190). -/
def carveBytes (m : Nat) : Nat :=
  match m with
  | 0 => 128 * 1024
  | 1 => 256 * 1024
  | 2 => 512 * 1024
  | 3 => 768 * 1024
  | 4 => 896 * 1024
  | _ => 0

/-- Bytes of a coach's shared memory; a spawn coach has none (18 R304). -/
def shmSize (s : State) (coach : Nat) : Nat :=
  match coach? s coach with
  | some k => if k.spawn then 0 else 2 ^ (k.rcd.a + k.rcd.b) * carveBytes k.rcd.carve
  | none => 0

/-- First byte of the N part of a die's scratchpad: 16 MiB × SCS (22 R353). -/
def scsBytes (s : State) (die : Nat) : Nat := field (rsys s 0 5 0x018) (4 + 8 * die) 8 * 2 ^ 24
/-- A scratchpad byte a thread of this world may reach: not the other world's part, not the spill area. -/
def scrOk (s : State) (world : Bool) (die a : Nat) : Bool :=
  a < Config.scratchBytes && (if world then a < scsBytes s die else scsBytes s die ≤ a) &&
    !(Config.spillLo ≤ a && a < Config.spillHi)

/-- The local space an instruction names. -/
inductive LocSpace where
  | shm | scr | spill
  deriving DecidableEq, Repr

/-- The address lies within the space. -/
def locOk (s : State) (sp : LocSpace) (a : Nat) : Bool :=
  match sp with
  | .shm => a < shmSize s s.self.coach
  | .scr => scrOk s s.self.world (dieOf s.self.core) a
  | .spill => a < s.self.spillBytes

/-- Scratchpad address of byte `o` of a thread's spill stack (11 R189). -/
def spillAddr (base w t o : Nat) : Nat := base + 4 * w * (o / 4) + 4 * t + o % 4

/-- The key of a byte of a local space; a spill byte belongs to the thread's home carriage. -/
def locKey (s : State) (sp : LocSpace) (tid a : Nat) : Nat :=
  match sp with
  | .shm => memKey .shm s.self.coach a
  | .scr => memKey .scr (dieOf s.self.core) a
  | .spill =>
    let home := if homeCar tid = s.self.id then s.self else car s (homeCar tid)
    memKey .scr (dieOf s.self.core) (spillAddr home.spillBase (widthOf s.self) (homeIdx tid) a)

/-- The keys of the bytes of an access. -/
def locKeys (s : State) (sp : LocSpace) (tid a n : Nat) : List Nat :=
  (span a n).map (fun x => locKey s sp tid x)

/-! ## Owned lines (11 R192, R193) -/

/-- An operation's lines in the order it requests them: ascending, space by space. -/
def wantedLines (o : EngOp) : List Nat :=
  let ls := sortBy (fun x y => x ≤ y) (o.shared ++ o.excl)
  let inTag (l : Nat) : Bool := l / 2 ^ 41 % 8 == spaceTag .shm
  ls.filter inTag ++ ls.filter (fun l => !inTag l)
/-- It counts as issued: it holds every line. -/
def opHolds (o : EngOp) : Bool := o.stage != .requesting
/-- It holds a line: one still requesting holds those it has been granted. -/
def holdsLine (o : EngOp) (line : Nat) : Bool := opHolds o || ((wantedLines o).take o.held).contains line
def lineShared (s : State) (line : Nat) : Bool := s.ops.any (fun o => o.shared.contains line && holdsLine o line)
def lineExcl (s : State) (line : Nat) : Bool := s.ops.any (fun o => o.excl.contains line && holdsLine o line)
def keyLines (keys : List Nat) : List Nat := nubNat (keys.map (fun k => k / 128))
def isStoreAct : LocAct → Bool
  | .load _ _ => false
  | .store _ _ => true
  | .atomic _ _ _ _ => true
  | .fence => false
def isLoadAct : LocAct → Bool
  | .load _ _ => true
  | .store _ _ => false
  | .atomic _ _ _ _ => true
  | .fence => false

/-- The log of an instance above 0, which its one home carriage keeps for its path carriages too; only for shared memory
and scratchpad. -/
def logOf (s : State) (homes : List Nat) : List LogStore := (theCar s (homes.headD 0)).wlog
def isInstance (s : State) (homes : List Nat) : Bool := (theCar s (homes.headD 0)).spinst != 0
/-- The store of an instance enters its log and changes no location (12 R210). -/
def isLogged (s : State) (x : LocAcc) : Bool :=
  isInstance s x.homes && (match x.act with
    | .store _ _ => true
    | _ => false)
/-- The access meets a line owned in a conflicting mode. -/
def accBlocked (s : State) (x : LocAcc) : Bool :=
  !isLogged s x && (keyLines x.keys).any (fun l => lineExcl s l || (isStoreAct x.act && lineShared s l))

/-! ## Agents, scopes and orders (12 R199, R203-R206, 03 R51) -/

/-- A scope contains two agents of this package (R205). -/
def scopeHas (scope : BitVec 3) (c d : Carriage) : Bool :=
  match scope.toNat with
  | 0 => c.id == d.id
  | 1 => c.core == d.core
  | 2 => quadOf c.core == quadOf d.core
  | 3 => c.coach == d.coach
  | 4 => dieOf c.core == dieOf d.core
  | _ => true
/-- The widest scope a space has (R51). -/
def capScope (sp : LocSpace) (scope : BitVec 3) : BitVec 3 :=
  match sp with
  | .shm => if 4 ≤ scope.toNat then 3 else scope
  | .scr => if 5 ≤ scope.toNat then 4 else scope
  | .spill => 0
/-- An order whose scope holds no other agent orders no more than RLX does. -/
def actOrder (order : BitVec 2) (scope : BitVec 3) : BitVec 2 := if 2 ≤ order.toNat && scope == 0 then 1 else order

/-- Operations that access memory for their carriage (R199). -/
def accessing : OpKind → Bool
  | .failed => false
  | .sigN _ _ _ _ _ => false
  | .ctrs _ _ _ => false
  | .armed _ => false
  | .launchAt _ _ => false
  | .launch _ => false
  | .launched _ => false
  | .edrn _ _ _ => false
  | _ => true
/-- Not all its accesses have been performed. One held for an instance is performed by its commit. -/
def opOpen (o : EngOp) : Bool := accessing o.kind && o.stage != .held && o.stage != .landed
def readsOpen (o : EngOp) : Bool := opOpen o && !o.fetched
def opOrder (o : EngOp) : Nat := (actOrder o.order o.scope).toNat

def inShm (x : LocAcc) : Bool := x.keys.headD 0 / 2 ^ 48 % 8 == spaceTag .shm
/-- A release: every earlier access of the carriage goes first (R204). -/
def isRelease (x : LocAcc) : Bool :=
  match x.act with
  | .fence => true
  | a => x.order == 3 || (x.order == 2 && isStoreAct a)
/-- The two meet at a location; one that met an owned line keeps its place among all at the line (11 R193). -/
def accMeets (w x : LocAcc) : Bool :=
  if w.later then x.keys.any w.keys.contains else (keyLines w.keys).any (keyLines x.keys).contains
/-- An earlier access of a carriage is performed before a later one: they meet (12 R202), the earlier is an acquire or SC,
the later a release or SC, a fence stands between (R204), or R203 orders them within their space. -/
def accBefore (w x : LocAcc) : Bool :=
  match w.act with
  | .fence => w.order == 3 || isStoreAct x.act || isRelease x
  | _ =>
    isRelease x || accMeets w x || (2 ≤ w.order.toNat && isLoadAct w.act) || w.order == 3 ||
      (w.order != 0 && x.order != 0 && inShm w == inShm x && (isLoadAct w.act || (inShm w && isStoreAct x.act)))
/-- An earlier operation goes before a local access: its acquire, its SC, or the access's release (R204, R208). -/
def opBefore (o : EngOp) (x : LocAcc) : Bool :=
  (2 ≤ opOrder o && readsOpen o) || (opOrder o == 3 && opOpen o) || (isRelease x && opOpen o)
/-- A carriage within the scope does not see a performed store yet. -/
def hiddenFrom (s : State) (scope : BitVec 3) (cid : Nat) (e : Stale) : Bool :=
  (cars s).any (fun c => e.blind.contains c.id && scopeHas scope (car s cid) c)
/-- A hidden store happens before an access of a carriage: an earlier one of its own, or one an acquire of its has met. -/
def isBefore (e : Stale) (cid id : Nat) : Bool := e.before.contains cid && (e.cid != cid || e.id < id)
/-- It is not seen where the access needs it seen (R203-R205). -/
def staleBefore (s : State) (e : Stale) (x : LocAcc) : Bool :=
  (isRelease x && hiddenFrom s x.scope x.cid e) ||
    (e.cid == x.cid && e.whole && x.order != 0 && isStoreAct x.act && inShm x &&
      (e.old.headD (0, 0, false)).1 / 2 ^ 48 % 8 == spaceTag .shm)
/-- A load may pass earlier stores at a FENCE with ORDER 0b10, not earlier loads (R204). -/
def fenceHolds (s : State) (own : List LocAcc) (x : LocAcc) : Bool :=
  own.any (fun f => f.act == .fence &&
    (own.any (fun w => w.id < f.id && isLoadAct w.act) || s.ops.any (fun o => o.cid == x.cid && o.id < f.id && readsOpen o)))
/-- Something of the same carriage that goes first is not performed yet. -/
def accBehind (s : State) (ws : List LocAcc) (x : LocAcc) : Bool :=
  let own := ws.filter (fun w => w.id != x.id && w.cid == x.cid)
  own.any (fun w => accBefore w x) || fenceHolds s own x ||
    s.ops.any (fun o => o.id < x.id && o.cid == x.cid && opBefore o x) ||
    s.stale.any (fun e => isBefore e x.cid x.id && staleBefore s e x)
/-- A local access of these carriages is not performed yet. -/
def waiting (s : State) (ids : List Nat) : Bool := s.waits.any (fun w => ids.contains w.cid)
/-- A store that happens before what they do next is hidden from a carriage within the scope. -/
def unseen (s : State) (ids : List Nat) (scope : BitVec 3) : Bool :=
  s.stale.any (fun e => ids.any (fun c => e.before.contains c && hiddenFrom s scope c e))
/-- An access of the moving carriage is not performed at the scope yet, its operations' included: a release waits (R204). -/
def anyOpen (s : State) (scope : BitVec 3) : Bool :=
  waiting s [s.self.id] || unseen s [s.self.id] scope || s.ops.any (fun o => o.cid == s.self.id && opOpen o)
/-- The same where an operation counts only by its issue. -/
def anyLocal (s : State) (scope : BitVec 3) : Bool :=
  waiting s [s.self.id] || unseen s [s.self.id] scope || s.ops.any (fun o => o.cid == s.self.id && o.stage == .requesting)
/-- What happens before the next accesses of some carriages happens before those of others too (R204, R205). -/
def shareBefore (s : State) (froms ids : List Nat) : State :=
  { s with stale := s.stale.map (fun e =>
      if e.before.any froms.contains then { e with before := e.before ++ ids.filter (fun c => !e.before.contains c) } else e) }

/-! ## One access -/

/-- pmax (13 R221): a NaN in either operand gives the default NaN; −0 below +0. -/
def pmaxF32 (x y : Word) : Word :=
  let a := decodeF fmtF32 x.toNat
  let b := decodeF fmtF32 y.toNat
  if a.isNan || b.isNan then 0x7FC00000#32
  else
    let c := cmpV a b
    if 0 < c then x else if c < 0 then y else if a.neg? then y else x

/-- The new value of an atomic (16 R260); `w` is 32 or 64. -/
def atomicNew (aop : BitVec 4) {w : Nat} (old b cmp : BitVec w) : BitVec w :=
  match aop.toNat with
  | 0 => old + b
  | 1 => if b.toInt < old.toInt then b else old
  | 2 => if old.toInt < b.toInt then b else old
  | 3 => if b.toNat < old.toNat then b else old
  | 4 => if old.toNat < b.toNat then b else old
  | 5 => old &&& b
  | 6 => old ||| b
  | 7 => old ^^^ b
  | 8 => b
  | 9 => if old = cmp then b else old
  | 10 => (BitVec.ofNat w ((fAdd32 (old.setWidth 32) (b.setWidth 32)).toNat))
  | _ => (pmaxF32 (old.setWidth 32) (b.setWidth 32)).setWidth w
where
  /-- round_ne(old + b, FP32). -/
  fAdd32 (x y : Word) : Word :=
    BitVec.ofNat 32 (roundNe fmtF32 (addV .rne (decodeF fmtF32 x.toNat) (decodeF fmtF32 y.toNat)).1)

/-- Bytes of an access: the instance's own log first, then memory (12 R210). -/
def logGet (log : List LogStore) (key : Nat) : Option Byte :=
  ((log.flatMap (fun e => e.cells)).reverse.find? (fun e => e.1 == key)).map (fun e => e.2)
def accRead (s : State) (log : List LogStore) (keys : List Nat) : List Byte :=
  keys.map (fun k => (logGet log k).getD (mget s k))
/-- Poison of a unit under a log: a store of a poisoned element sets it, one of the whole unit clears it (24 R383). -/
def unitBad (s : State) (log : List LogStore) (u : Nat) : Bool :=
  log.foldl (fun b e =>
    if !e.cells.any (fun c => c.1 / 8 == u) then b
    else if e.bad then true
    else b && !(span (8 * u) 8).all (fun k => e.cells.any (fun c => c.1 == k))) (cget s.mPoison u == 1)
def accBad (s : State) (log : List LogStore) (keys : List Nat) : Bool := keys.any (fun k => unitBad s log (k / 8))

/-! ## Stores that some carriages do not see yet (12 R203, R207) -/

/-- What a carriage still sees of a byte: the oldest hidden store's old byte and poison. -/
def staleAt (s : State) (cid key : Nat) : Option (Byte × Bool) :=
  ((s.stale.filter (fun e => e.blind.contains cid)).flatMap (fun e => e.old)).findSome? (fun o => if o.1 = key then some o.2 else none)
/-- What it sees of bytes: its log, what is hidden from it, memory. -/
def seeBytes (s : State) (cid : Nat) (log : List LogStore) (keys : List Nat) : List Byte :=
  if s.stale.isEmpty then accRead s log keys
  else keys.map (fun k => (logGet log k).getD (((staleAt s cid k).map (fun x => x.1)).getD (mget s k)))
def seeBad (s : State) (cid : Nat) (log : List LogStore) (keys : List Nat) : Bool :=
  if s.stale.isEmpty then accBad s log keys
  else keys.any (fun k => ((staleAt s cid k).map (fun x => x.2)).getD (unitBad s log (k / 8)))
/-- A carriage takes bytes as they stand: it sees every earlier store to them (12 R206). -/
def catchUp (s : State) (cid : Nat) (keys : List Nat) : State :=
  if s.stale.isEmpty then s
  else { s with stale := s.stale.filterMap (fun e =>
    if !e.old.any (fun o => keys.contains o.1) then some e
    else if e.whole then none
    else some { e with blind := e.blind.filter (fun c => c != cid) }) }
/-- A store has taken effect, but no other carriage sees it yet: its bytes are as they `was`. -/
def hide (was s : State) (id cid : Nat) (whole : Bool) (keys : List Nat) : State :=
  let others := ((cars s).filter (fun c => c.id != cid)).map (fun c => c.id)
  if others.isEmpty || keys.isEmpty then s
  else { s with stale := s.stale ++ [{ id := id, cid := cid, before := [cid], whole := whole, blind := others
                                       old := keys.map (fun k => (k, mget was k, cget was.mPoison (k / 8) == 1)) }] }
/-- A release has been performed: the hidden stores that happen before it are noted for the acquires that meet it (12 R205). -/
def noteSync (s : State) (cid : Nat) (scope : BitVec 3) (keys : List Nat) : State :=
  let ids := (s.stale.filter (fun e => e.before.contains cid)).map (fun e => e.id)
  if ids.isEmpty then s else { s with syncs := s.syncs ++ [{ cid := cid, scope := scope, keys := keys, ids := ids }] }
/-- An acquire reads these keys: it synchronises with the releases whose values it sees, where both scopes contain both
carriages. -/
def takeSync (s : State) (cid : Nat) (scope : BitVec 3) (keys : List Nat) : State :=
  let ids := (s.syncs.filter (fun y => keys.any (fun k => y.keys.contains k && (staleAt s cid k).isNone) &&
    scopeHas y.scope (car s y.cid) (car s cid) && scopeHas scope (car s y.cid) (car s cid))).flatMap (fun y => y.ids)
  { s with stale := s.stale.map (fun e => if ids.contains e.id && !e.before.contains cid then { e with before := cid :: e.before } else e) }

/-- The v registers a loaded value fills: narrow values extended to 32 bits (16 R259). -/
def loadCells (tid reg : Nat) (bs : List Byte) (u : Bool) : List (Nat × Word) :=
  let n := bs.length
  if n < 4 then
    let x := leNat bs
    let w : Word := if u then BitVec.ofNat 32 x else (BitVec.ofNat (8 * n) x).signExtend 32
    [(vKey tid reg, w)]
  else (span 0 (n / 4)).map (fun i => (vKey tid (reg + i), leBits 32 ((bs.drop (4 * i)).take 4)))
/-- The s register value of a load: extended to 64 bits (16 R261). -/
def loadS (bs : List Byte) (u : Bool) : DWord :=
  if u then BitVec.ofNat 64 (leNat bs) else (BitVec.ofNat (8 * bs.length) (leNat bs)).signExtend 64

/-- The elements a load delivers: an s register, or v registers 64 bits at a time (02 R29, 12 R200). -/
def loadElems (dst : LoadDst) (keys : List Nat) (bs : List Byte) (u bad : Bool) : List LoadElem :=
  match dst with
  | .none => []
  | .img => [.img (keys.headD 0) bs bad]
  | .s cid reg => [.s cid reg (loadS bs u) bad]
  | .v tid reg =>
    let cells := loadCells tid reg bs u
    if cells.length ≤ 2 then [.v cells bad] else [.v (cells.take 2) bad, .v (cells.drop 2) bad]

/-- Add elements to an outstanding load. -/
def addElems (s : State) (id : Nat) (es : List LoadElem) : State :=
  { s with loads := s.loads.map (fun l => if l.id = id then { l with elems := l.elems ++ es } else l) }

/-- Write scattered bytes; poison enters or leaves the units touched as 24 R383 gives. -/
def storeBytes (s : State) (keys : List Nat) (bs : List Byte) (bad : Bool) : State :=
  let units := nubNat (keys.map (fun k => k / 8))
  let whole := units.filter (fun u => (span (8 * u) 8).all (fun k => keys.contains k))
  { s with
    mem := csetAll s.mem (keys.zip bs)
    stale := unhidden keys.contains s.stale
    syncs := unsynced keys.contains s.syncs
    wrote := (keyLines keys).map (fun l => (l, 0)) ++ s.wrote
    mPoison := csetAll s.mPoison (if bad then units.map (fun u => (u, 1)) else whole.map (fun u => (u, 0))) }

/-- Units of the write log of an instance (20 R325). -/
def logUnits (log : List LogStore) : Nat := (nubNat (log.flatMap (fun e => e.cells.map (fun c => c.1 / 8)))).length

/-- Put a store into it. -/
def logStore (s : State) (homes : List Nat) (keys : List Nat) (bs : List Byte) (bad : Bool) : State :=
  onCar s (homes.headD 0) (fun c => { c with wlog := c.wlog ++ [{ cells := keys.zip bs, bad := bad }] })

/-- Write by a carriage: into its log when it is an instance above 0, else into memory. `direct` is set for the spill
stack, which an instance writes directly (20 R325). -/
def carStore (s : State) (homes : List Nat) (direct : Bool) (keys : List Nat) (bs : List Byte) (bad : Bool) : State :=
  if isInstance s homes && !direct then logStore s homes keys bs bad else storeBytes s keys bs bad

/-- A local store of a carriage: at once for all, or, in a turn that lags, hidden from the others for a while. Shared
memory and scratchpad are multi-copy atomic for all but PLN stores. -/
def accStore (s : State) (direct : Bool) (x : LocAcc) (bs : List Byte) (bad : Bool) : State :=
  if direct || isInstance s x.homes then carStore s x.homes direct x.keys bs bad
  else
    let t := wroteBy x.cid s (storeBytes s x.keys bs bad)
    if s.lag = 2 && x.order != 3 then hide s t x.id x.cid (x.order != 0) x.keys else t

/-- Perform one thread's access. -/
def doAcc (s : State) (direct : Bool) (x : LocAcc) : State :=
  let log := if direct then [] else logOf s x.homes
  match x.act with
  | .load dst u =>
    let s := if x.order = 3 then catchUp s x.cid x.keys else s
    addElems (if 2 ≤ x.order.toNat then takeSync s x.cid x.scope x.keys else s) x.id
      (loadElems dst x.keys (seeBytes s x.cid log x.keys) u (seeBad s x.cid log x.keys))
  | .store data bad =>
    let t := accStore s direct x data bad
    if 2 ≤ x.order.toNat then noteSync t x.cid x.scope x.keys else t
  | .atomic aop b cmp dst =>
    let old := accRead s log x.keys
    let new : List Byte :=
      if x.keys.length = 8 then bitsLe 8 (atomicNew aop (leBits 64 old) b cmp)
      else bitsLe 4 (atomicNew aop (leBits 32 old) (b.setWidth 32) (cmp.setWidth 32))
    -- a release that it overwrites is still met by who reads the new value
    let t := if 2 ≤ x.order.toNat then takeSync s x.cid x.scope x.keys else s
    let t := { accStore t direct x new (accBad s log x.keys) with syncs := s.syncs }
    addElems (if 2 ≤ x.order.toNat then noteSync t x.cid x.scope x.keys else t) x.id (loadElems dst x.keys old true (accBad s log x.keys))
  | .fence => s

/-- Perform it, or let it wait for what goes first; in a turn that lags it takes its time. Accesses of the spill stack,
which no other carriage sees and no operation owns, never wait. -/
def tryAcc (direct : Bool) (s : State) (x : LocAcc) : State :=
  if direct then doAcc s true x
  else if accBlocked s x || accBehind s s.waits x then { s with waits := s.waits ++ [x] }
  else if s.lag = 1 && !isLogged s x then { s with waits := s.waits ++ [{ x with later := true }] }
  else doAcc s false x

/-- After a release: every access that waits and may go, in order (11 R193). -/
def applyWaits (s : State) : State :=
  (s.waits.foldl (fun (st : State × List LocAcc) x =>
      if x.later || accBlocked st.1 x || accBehind st.1 st.2 x then (st.1, st.2 ++ [x]) else (doAcc st.1 false x, st.2))
    ({ s with waits := [] }, [])) |> fun r => { r.1 with waits := r.2 }
/-- The k-th waiting access is performed, when nothing holds it up. -/
def performWait (s : State) (k : Nat) : State :=
  match takeNth k s.waits with
  | none => s
  | some (x, r) =>
    if accBlocked s x || accBehind s (s.waits.take k) x then s else doAcc { s with waits := r } false x
/-- The k-th hidden store comes to be seen, with those before it to its bytes: by all, or by one more carriage. -/
def showStale (s : State) (k : Nat) : State :=
  match s.stale[k]? with
  | none => s
  | some e =>
    let meets (f : Stale) : Bool := f.old.any (fun o => e.old.any (fun p => p.1 == o.1))
    let one := e.blind[free s 23 % (e.blind.length + 1)]?
    let seen (f : Stale) : Option Stale :=
      if !meets f then some f
      else match one with
        | none => none
        | some c => if f.whole then none else some { f with blind := f.blind.filter (fun x => x != c) }
    { s with stale := ((s.stale.take (k + 1)).filterMap seen ++ s.stale.drop (k + 1)).filter (fun f => !f.blind.isEmpty) }

/-! ## Outstanding work (11 R197) -/

/-- A new outstanding load: its number. -/
def openLoad (s : State) : Nat × State :=
  (s.nextId, { s with nextId := s.nextId + 1
                      loads := s.loads ++ [{ id := s.nextId, homes := homesOf s.self, elems := [], img := none }] })
/-- A new outstanding store. -/
def openStore (s : State) : Nat × State :=
  (s.nextId, { s with nextId := s.nextId + 1
                      stores := s.stores ++ [{ id := s.nextId, homes := homesOf s.self }] })

/-- Lines of shared memory and scratchpad that are read (19 R314). -/
def noteReads (s : State) (keys : List Nat) : State := noteMarks s (keyLines keys)

/-! ## The whole instruction: checks before any byte moves (16 R258) -/

/-- Slot and address of the first thread whose address fails. -/
def firstBad (ok : Nat → Bool) (as : List (Nat × Nat × Nat)) : Option (Nat × Nat) :=
  (as.find? (fun a => !ok a.2.2)).map (fun a => (a.1, a.2.2))

/-- ADDR_RANGE over every active thread, then ADDR_ALIGN (16 R258). `as`: slot, thread, address. -/
def accFault (s : State) (sp : LocSpace) (n : Nat) (as : List (Nat × Nat × Nat)) : Option (Cause × Nat × Nat) :=
  match firstBad (locOk s sp) as with
  | some (t, a) => some (.addrRange, t, a)
  | none =>
    match firstBad (fun a => a % n == 0) as with
    | some (t, a) => some (.addrAlign, t, a)
    | none => none

/-- Bytes of a width code (03 R61). -/
def widBytes (w : BitVec 3) : Nat := 2 ^ w.toNat

/-- The free order in which the threads of one instruction are served (12 R201). -/
def threadOrder {α : Type} (s : State) (salt : Nat) (xs : List α) : List α :=
  reorder (fun n => free s (salt * 4096 + n)) xs.length xs

/-- The log of an instance, with its stores and atomics that wait, has no room for these bytes (20 R325). -/
def logOver (s : State) (homes keys : List Nat) : Bool :=
  let coming := (s.waits.filter (fun w => isStoreAct w.act && w.homes.headD 0 == homes.headD 0)).flatMap (fun w => w.keys)
  2048 < logUnits (logOf s homes ++ [{ cells := (coming ++ keys).map (fun k => (k, 0)), bad := false }])
def logFull (s : State) (sp : LocSpace) (keys : List Nat) : Bool :=
  s.self.spinst != 0 && sp != .spill && logOver s (homesOf s.self) keys

end Sys2Proof.Machine
end

