-- ==== Sys2Proof/Machine/FloatFn.lean ====
section
/-! DEFINITION. The arithmetic of the floating-point instructions on codes (08 R138, 09 R153-R159): one exact result,
one rounding. Quotients, roots, 2^a and log2 are computed below a sticky bit: the value lies above the digits kept by
less than one unit. -/
namespace Sys2Proof.Machine

/-! ## Operations -/

/-- A rounded result and the flags of its inputs and of its operation. -/
def finish (F : Fmt) (mode : RMode) (xs : List FVal) (iv : Bool) (r : FVal) : Nat × Flags :=
  let out := roundF F mode r false
  (out.1, out.2 ||| sigFlag xs ||| flagIf iv fIV)

def fAdd (F : Fmt) (mode : RMode) (x y : FVal) : Nat × Flags :=
  let r := addV mode x y
  finish F mode [x, y] r.2 r.1

def fMul (F : Fmt) (mode : RMode) (x y : FVal) : Nat × Flags :=
  let r := mulV x y
  finish F mode [x, y] r.2 r.1

/-- x * y + z, rounded once; the product and the sum may each be invalid (05 R89). -/
def fMadd (F : Fmt) (mode : RMode) (x y z : FVal) : Nat × Flags :=
  let p := mulV x y
  let r := addV mode p.1 z
  finish F mode [x, y, z] (p.2 || r.2) r.1

/-- The quotient of two nonzero finite magnitudes: at least `n` digits and the sticky bit. -/
def quotient (n m d : Nat) : Nat × Nat × Bool :=
  let k := n + bitLen d
  (m * 2 ^ k / d, k, m * 2 ^ k % d != 0)

/-- 09 R153: x / y. -/
def fDiv (F : Fmt) (mode : RMode) (x y : FVal) : Nat × Flags :=
  let sig := sigFlag [x, y]
  match x, y with
  | .nan _, _ => (F.nanCode, sig)
  | _, .nan _ => (F.nanCode, sig)
  | .inf _, .inf _ => (F.nanCode, fIV)
  | .inf a, .fin b _ _ => (F.infCode (a != b), 0)
  | .fin a _ _, .inf b => (F.signed (a != b) 0, 0)
  | .fin a m e, .fin b d f =>
    if d = 0 then (if m = 0 then (F.nanCode, fIV) else (F.infCode (a != b), fDZ))
    else if m = 0 then (F.signed (a != b) 0, 0)
    else
      let q := quotient (F.frac + 4) m d
      roundF F mode (.fin (a != b) q.1 (e - f - q.2.1)) q.2.2

/-- Digits of the integer square root from the top bit down. -/
def isqrtBits (n : Nat) : Nat → Nat → Nat
  | 0, acc => acc
  | i + 1, acc =>
    let c := acc + 2 ^ i
    isqrtBits n i (if c * c ≤ n then c else acc)

/-- The integer square root. -/
def isqrt (n : Nat) : Nat := isqrtBits n (bitLen n / 2 + 1) 0

/-- 09 R153: the square root. -/
def fSqrt (F : Fmt) (mode : RMode) (x : FVal) : Nat × Flags :=
  match x with
  | .nan sig => (F.nanCode, flagIf sig fIV)
  | .inf neg => if neg then (F.nanCode, fIV) else (F.infCode false, 0)
  | .fin neg m e =>
    if m = 0 then (F.signed neg 0, 0)
    else if neg then (F.nanCode, fIV)
    else
      -- an even exponent, and twice the digits the format keeps
      let (m, e) := if e % 2 = 0 then (m, e) else (m * 2, e - 1)
      let k := F.frac + 4
      let n := m * 2 ^ (2 * k)
      let r := isqrt n
      roundF F mode (.fin false r (e / 2 - k)) (r * r != n)

/-- 09 R157: 1/x. -/
def fRcp (F : Fmt) (mode : RMode) (x : FVal) : Nat × Flags :=
  match x with
  | .nan sig => (F.nanCode, flagIf sig fIV)
  | .inf neg => (F.signed neg 0, 0)
  | .fin neg m e =>
    if m = 0 then (F.infCode neg, fDZ)
    else
      let q := quotient (F.frac + 4) 1 m
      roundF F mode (.fin neg q.1 (-e - q.2.1)) q.2.2

/-- 09 R157: 1/sqrt(x). -/
def fRsq (F : Fmt) (mode : RMode) (x : FVal) : Nat × Flags :=
  match x with
  | .nan sig => (F.nanCode, flagIf sig fIV)
  | .inf neg => if neg then (F.nanCode, fIV) else (F.signed false 0, 0)
  | .fin neg m e =>
    if m = 0 then (F.infCode neg, fDZ)
    else if neg then (F.nanCode, fIV)
    else
      let (m, e) := if e % 2 = 0 then (m, e) else (m * 2, e - 1)
      let k := bitLen m + F.frac + 4
      let n := 2 ^ (2 * k)
      let r := isqrt (n / m)
      roundF F mode (.fin false r (-(e / 2) - k)) (r * r * m != n)

/-! ## 2^a and log2 (09 R157). Fixed point of 360 bits; see log entry 10 for why that decides every FP32 rounding. -/

def fxP : Nat := 360

/-- Σ over odd n from `n`, `k` terms, of z^n / n: `zp` is z^n in fixed point and `z2` is z². -/
def atanhSum (z2 : Nat) : Nat → Nat → Nat → Nat
  | 0, _, _ => 0
  | k + 1, n, zp => zp / n + atanhSum z2 k (n + 2) (zp * z2 / 2 ^ fxP)

/-- ln((1+z)/(1-z)) = 2 artanh z of a fixed-point z up to 1/3. -/
def lnRatio (z : Nat) : Nat := 2 * atanhSum (z * z / 2 ^ fxP) 120 1 z

/-- ln 2 = 2 artanh (1/3). -/
def ln2Fix : Nat := lnRatio (2 ^ fxP / 3)

/-- Σ over n of x^n / n!, `k` terms from term `n`. -/
def expSum (x : Nat) : Nat → Nat → Nat → Nat
  | 0, _, _ => 0
  | k + 1, n, term => term + expSum x k (n + 1) (term * x / 2 ^ fxP / (n + 1))

/-- 2^f for a fraction f in fixed point: digits below the true value. -/
def exp2Frac (f : Nat) : Nat := expSum (f * ln2Fix / 2 ^ fxP) 80 0 (2 ^ fxP)

/-- 09 R157: 2^a. Below −2^11 and above 2^11 every result has left the format's range; the exponent is kept small. -/
def fExp2 (F : Fmt) (mode : RMode) (x : FVal) : Nat × Flags :=
  match x with
  | .nan sig => (F.nanCode, flagIf sig fIV)
  | .inf neg => if neg then (F.signed false 0, 0) else (F.infCode false, 0)
  | .fin neg m e =>
    if m = 0 then roundF F mode (.fin false 1 0) false
    else
      let big := !magLess m e 2048 0
      let a : Int := if big then sgn neg (2048 * 2 ^ fxP)
        else sgn neg (m * 2 ^ (e + fxP).toNat)
      let n := a.fdiv (2 ^ fxP : Nat)
      let f := (a.fmod (2 ^ fxP : Nat)).toNat
      if f = 0 then roundF F mode (.fin false 1 n) false
      else roundF F mode (.fin false (exp2Frac f) (n - fxP)) true

/-- log2 of a positive m * 2^e, in fixed point of 320 bits below the true value; exact for a power of two. -/
def log2Fix (m : Nat) (e : Int) : Int × Bool :=
  let l := bitLen m - 1
  if m = 2 ^ l then ((e + l) * (2 ^ 320 : Nat), false)
  else
    let z := (m - 2 ^ l) * 2 ^ fxP / (m + 2 ^ l)
    let frac := lnRatio z * 2 ^ fxP / ln2Fix
    ((e + l) * (2 ^ 320 : Nat) + (frac / 2 ^ 40 : Nat), true)

/-- 09 R157: log2. -/
def fLog2 (F : Fmt) (mode : RMode) (x : FVal) : Nat × Flags :=
  match x with
  | .nan sig => (F.nanCode, flagIf sig fIV)
  | .inf neg => if neg then (F.nanCode, fIV) else (F.infCode false, 0)
  | .fin neg m e =>
    if m = 0 then (F.infCode true, fDZ)
    else if neg then (F.nanCode, fIV)
    else
      let r := log2Fix m e
      if r.1 = 0 ∧ r.2 = false then (F.signed false 0, 0)
      else if r.1 < 0 then
        -- the true value lies between r and r + 1: its magnitude below |r|
        roundF F mode (.fin true (if r.2 then r.1.natAbs - 1 else r.1.natAbs) (-320)) r.2
      else roundF F mode (.fin false r.1.natAbs (-320)) r.2

/-! ## Minimum, maximum, comparison (09 R155, R156) -/

/-- `x` orders below `y`, −0 below +0; neither is a NaN. -/
def totalLt (x y : FVal) : Bool :=
  let c := cmpV x y
  if c < 0 then true else if 0 < c then false else x.neg? && !y.neg?

/-- The code of a source after ABS and NEG, or the default NaN: 09 R155. -/
def fMinMax (F : Fmt) (isMax nanSel : Bool) (cx cy : Nat) (x y : FVal) : Nat × Flags :=
  let fl := sigFlag [x, y]
  if x.isNan && y.isNan then (F.nanCode, fl)
  else if x.isNan then (if nanSel then F.nanCode else cy, fl)
  else if y.isNan then (if nanSel then F.nanCode else cx, fl)
  else
    let xFirst := if isMax then totalLt y x else totalLt x y
    (if xFirst then cx else cy, fl)

/-- The condition of R59 and its IV flag (09 R156). -/
def fCmp (cc : Nat) (x y : FVal) : Bool × Flags :=
  let un := x.isNan || y.isNan
  let c := cmpV x y
  let r : Bool :=
    match cc with
    | 0 => !un && c == 0
    | 1 => un || c != 0
    | 2 => !un && c < 0
    | 3 => !un && c ≤ 0
    | 4 => !un && 0 < c
    | 5 => !un && 0 ≤ c
    | 6 => !un
    | _ => un
  let quietCc := cc == 0 || cc == 1 || 6 ≤ cc
  (r, if quietCc then sigFlag [x, y] else flagIf un fIV)

/-! ## Class and rounding to integral (09 R158, R159) -/

/-- The one bit of VFCLASS. -/
def fClass (F : Fmt) (code : Nat) : Nat :=
  match decodeF F code with
  | .nan sig => if sig then 2 ^ 8 else 2 ^ 9
  | .inf neg => if neg then 1 else 2 ^ 7
  | .fin neg m _ =>
    if m = 0 then (if neg then 2 ^ 3 else 2 ^ 4)
    else if nbits code F.frac F.ebits = 0 then (if neg then 2 ^ 2 else 2 ^ 5)
    else if neg then 2 else 2 ^ 6

/-- VFRND: an integral value in the same format. -/
def fRnd (F : Fmt) (mode : RMode) (x : Bool) (code : Nat) : Nat × Flags :=
  match decodeF F code with
  | .nan sig => (F.nanCode, flagIf sig fIV)
  | .inf _ => (code, 0)
  | .fin neg m e =>
    if m = 0 then (code, 0)
    else
      let r := roundAtExp mode neg m e 0 false
      if r.1 = 0 then (F.signed neg 0, flagIf (x && r.2) fNX)
      else ((roundF F mode (.fin neg r.1 0) false).1, flagIf (x && r.2) fNX)

/-! ## Signs on codes (03 R59) -/

/-- ABS first, then NEG, on the sign bit of a code. -/
def absNeg (F : Fmt) (abs neg : Bool) (x : Nat) : Nat :=
  let y := if abs then x % 2 ^ F.signBit else x
  if neg then (if bitN y F.signBit then y - 2 ^ F.signBit else y + 2 ^ F.signBit) else y

/-- An FP32 pattern widened exactly to FP64, a NaN keeping sign and status (03 R57). -/
def widenF32 (x : Nat) : Nat :=
  let neg := bitN x 31
  let f := nbits x 0 23
  if nbits x 23 8 = 255 then fmtF64.signed neg (2047 * 2 ^ 52 + f * 2 ^ 29)
  else match decodeF fmtF32 x with
    | .fin n m e => (roundF fmtF64 .rne (.fin n m e) false).1
    | _ => 0

end Sys2Proof.Machine
end

