-- ==== Sys2Proof/Machine/Flags.lean ====
section
/-! DEFINITION. Conditions, rounding modes and the AST flags an instruction raises (03 R49, R58, R59, 02 R30, 05 R89). -/
namespace Sys2Proof.Machine

/-- The integer conditions of R58. -/
def intCond (u : Bool) (cc : Nat) {w : Nat} (a b : BitVec w) : Bool :=
  let x := intOf u a
  let y := intOf u b
  match cc with
  | 0 => a == b
  | 1 => a != b
  | 2 => x < y
  | 3 => x ≤ y
  | 4 => y < x
  | _ => y ≤ x

/-- The rounding mode AST.RM holds. -/
def astMode (s : State) : RMode := rmOf (field s.self.ast 5 2)
/-- The mode of a RND field: 0b100 reads AST.RM (03 R49). -/
def rndMode (s : State) (r : BitVec 3) : RMode := if r.toNat = 4 then astMode s else rmOf r.toNat
/-- The mode of an instruction: RND, or AST.RM in the RRI form (03 R49). -/
def tailMode (s : State) : AluTail → RMode
  | .rrr t => rndMode s t.rnd
  | .rri _ => astMode s

/-- The OR of the flags of many elements (09 R150). -/
def orFlags (fs : List Flags) : Flags := fs.foldl (· ||| ·) 0

/-- v[d] of every active thread from a function giving a value and flags; AST collects the flags (02 R30). -/
def setVF (s : State) (h : Head) (f : Nat → Nat → Nat × Flags) : State :=
  raiseFlags (setV s h (fun t tid => BitVec.ofNat 32 (f t tid).1))
    (orFlags ((active s h).map (fun st => (f st.1 st.2).2)))
def setVF64 (s : State) (h : Head) (f : Nat → Nat → Nat × Flags) : State :=
  raiseFlags (setV64 s h (fun t tid => BitVec.ofNat 64 (f t tid).1))
    (orFlags ((active s h).map (fun st => (f st.1 st.2).2)))
def setPF (s : State) (h : Head) (f : Nat → Nat → Bool × Flags) : State :=
  raiseFlags (setP s h (fun t tid => (f t tid).1))
    (orFlags ((active s h).map (fun st => (f st.1 st.2).2)))

/-- An SPUT to AST: RM written, flags cleared by ones (02 R30, 08 R137). -/
def astWrite (old x : DWord) : DWord :=
  (x &&& 0x60#64) ||| (old &&& ~~~x &&& 0x1F#64)
/-- An SPUT to MDEF: bits [7:0] (02 R31). -/
def mdefWrite (x : DWord) : DWord := x &&& 0xFF#64

end Sys2Proof.Machine
end

