-- ==== Sys2Proof/Machine/Scalar.lean ====
section
/-! DEFINITION. Scalar integer and scalar floating-point instructions, 0x01-0x19 (08 R127-R139). -/
namespace Sys2Proof.Machine

/-! ## Two operands (08 R131) -/

/-- Add, exact then narrowed. -/
def addOp (sat u : Bool) {w : Nat} (a b : BitVec w) : BitVec w := narrowI sat u w (intOf u a + intOf u b)
def subOp (sat u : Bool) {w : Nat} (a b : BitVec w) : BitVec w := narrowI sat u w (intOf u a - intOf u b)
def mulOp (sat u : Bool) {w : Nat} (a b : BitVec w) : BitVec w := narrowI sat u w (intOf u a * intOf u b)
/-- The upper half of the exact product. -/
def mulHi (u : Bool) {w : Nat} (a b : BitVec w) : BitVec w :=
  BitVec.ofInt w ((intOf u a * intOf u b).fdiv (2 ^ w : Nat))
def minOp (u : Bool) {w : Nat} (a b : BitVec w) : BitVec w := if intOf u b < intOf u a then b else a
def maxOp (u : Bool) {w : Nat} (a b : BitVec w) : BitVec w := if intOf u a < intOf u b then b else a
/-- 08 R132: truncating division; all ones for a zero divisor. -/
def divOp (sat u : Bool) (a b : DWord) : DWord :=
  if b = 0 then 0xFFFFFFFFFFFFFFFF#64 else narrowI sat u 64 ((intOf u a).tdiv (intOf u b))
/-- 08 R132: the remainder with the dividend's sign; the dividend for a zero divisor. -/
def remOp (u : Bool) (a b : DWord) : DWord :=
  if b = 0 then a else BitVec.ofInt 64 ((intOf u a).tmod (intOf u b))
/-- 08 R133, R140: shifts by an unsigned amount; the width or more gives 0, or all copies of the sign. -/
def shlOp {w : Nat} (a b : BitVec w) : BitVec w := if w ≤ b.toNat then 0 else a <<< b.toNat
def shrOp {w : Nat} (a b : BitVec w) : BitVec w := if w ≤ b.toNat then 0 else a >>> b.toNat
def sraOp {w : Nat} (a b : BitVec w) : BitVec w := a.sshiftRight (min b.toNat w)

def execSadd (i : IntI) (s : State) : Out := scalarBin i s (addOp i.sat i.u)
def execSsub (i : IntI) (s : State) : Out := scalarBin i s (subOp i.sat i.u)
def execSmul (i : IntI) (s : State) : Out := scalarBin i s (mulOp i.sat i.u)
def execSmulh (i : IntI) (s : State) : Out := scalarBin i s (mulHi i.u)
def execSdiv (i : IntI) (s : State) : Out := scalarBin i s (divOp i.sat i.u)
def execSrem (i : IntI) (s : State) : Out := scalarBin i s (remOp i.u)
def execSand (i : IntI) (s : State) : Out := scalarBin i s (fun a b => a &&& b)
def execSor (i : IntI) (s : State) : Out := scalarBin i s (fun a b => a ||| b)
def execSxor (i : IntI) (s : State) : Out := scalarBin i s (fun a b => a ^^^ b)
def execSshl (i : IntI) (s : State) : Out := scalarBin i s shlOp
def execSshr (i : IntI) (s : State) : Out := scalarBin i s shrOp
def execSsra (i : IntI) (s : State) : Out := scalarBin i s sraOp
def execSmin (i : IntI) (s : State) : Out := scalarBin i s (minOp i.u)
def execSmax (i : IntI) (s : State) : Out := scalarBin i s (maxOp i.u)
/-- 08 R131: a + (b << SH). -/
def execSlea (i : IntI) (s : State) : Out := scalarBin i s (fun a b => a + (b <<< i.low.toNat))

/-! ## Compare, select, moves (08 R134, R135) -/

def execScmp (i : IntI) (s : State) : Out :=
  scalarOp i.h (i.h.a :: bField i) s (fun s =>
    nextPc (wk s i.h.d.toNat (intCond i.u i.sub.toNat (rs s i.h.a) (srcB i s))))

def execSsel (i : IntI) (s : State) : Out :=
  scalarBin i s (fun a b => if rk s i.sub.toNat then a else b)

/-- k15..k0, k0 as 1. -/
def kWord (s : State) : DWord := BitVec.ofNat 64 (sumNat ((span 0 16).map (fun n => b2n (rk s n) * 2 ^ n)))
/-- k1..k15 from bits [15:1]. -/
def kFrom (s : State) (x : DWord) : State := (span 1 15).foldl (fun s n => wk s n (x.getLsbD n)) s
/-- A trigger counter is read (19 R314). -/
def noteCtr (s : State) (j : Nat) : State := noteMarks s [ctrMark s.self.coach j]

/-- SMOV: selector in MOD[2:0]. -/
def execSmov (i : IntI) (s : State) : Out :=
  match i.low.toNat with
  | 0 =>
    match i.t with
    | .rrr _ => scalarTo i.h [i.h.a] s (fun s => rs s i.h.a)
    | .rri imm => scalarTo i.h [] s (fun _ => widenImm i.u imm)
  | 1 => scalarTo i.h [] s kWord
  | 2 => scalarOp i.h [i.h.a] s (fun s => nextPc (kFrom s (rs s i.h.a)))
  | _ => scalarOp i.h [] s (fun s =>
      nextPc (noteCtr (ws s i.h.d ((rctr s s.self.coach i.h.a.toNat).setWidth 64)) i.h.a.toNat))

/-! ## Bit fields and counts (08 R136) -/

/-- POS and effective LEN of a field specification, on `w` bits with `pb` position bits (08 R136, R143). -/
def bfPos {v : Nat} (pb : Nat) (b : BitVec v) : Nat := field b 0 pb
def bfLen {v : Nat} (w pb : Nat) (b : BitVec v) : Nat := min (min (field b 8 (pb + 1)) w) (w - bfPos pb b)

/-- Bit-field extract. -/
def bfxOp (u : Bool) (pb : Nat) {w : Nat} (a b : BitVec w) : BitVec w :=
  let L := bfLen w pb b
  if L = 0 then 0
  else
    let f := BitVec.ofNat L (a.toNat / 2 ^ bfPos pb b)
    if u then f.setWidth w else f.signExtend w

def execSbfx (i : IntI) (s : State) : Out := scalarBin i s (bfxOp i.u 6)

/-- 08 R136: the low L bits of s[a] inserted into s[d] at POS. -/
def bfiOp (d a b : DWord) : DWord :=
  BitVec.ofNat 64 (setField d.toNat (bfPos 6 b) (bfLen 64 6 b) a.toNat)
def execSbfi (i : IntI) (s : State) : Out :=
  scalarTo i.h (i.h.d :: i.h.a :: bField i) s (fun s => bfiOp (rs s i.h.d) (rs s i.h.a) (srcB i s))

/-- 08 R136, R143: POPC, CLZ, CTZ, BREV, BSWAP. -/
def bitcOp (op : Nat) {w : Nat} (a : BitVec w) : BitVec w :=
  match op with
  | 0 => BitVec.ofNat w (popcN a w)
  | 1 => BitVec.ofNat w (clzN a w)
  | 2 => BitVec.ofNat w (ctzN a 0 w)
  | 3 => BitVec.ofNat w (brevN a w)
  | _ => bswapN (w / 8) a
def execSbitc (i : IntI) (s : State) : Out :=
  scalarTo i.h [i.h.a] s (fun s => bitcOp i.sub.toNat (rs s i.h.a))

/-! ## Special registers (02 R32, 08 R137) -/

/-- The special register of a selector. -/
def specialReg (s : State) (sel : Nat) : DWord :=
  let c := s.self
  match sel with
  | 0 => c.ast
  | 1 => c.mdef
  | 2 => rcore s c.core 0x410
  | 3 => BitVec.ofNat 64 (coreX c.core + coreY c.core * 16 + dieOf c.core * 128 + quadOf c.core * 256)
  | 4 => match ownLaunch s with
    | some l => l.lid
    | none => 0
  | 5 => match c.kind with
    | .spawned => 0xFFFFFFFF
    | _ => match ownCoach s with
      | some k => BitVec.ofNat 64 k.index
      | none => 0
  | 6 => BitVec.ofNat 64 (c.index % 2 ^ 16 + widthOf c % 256 * 2 ^ 16)
  | 7 => c.pathix.setWidth 64
  | 8 => BitVec.ofNat 64 c.spinst
  | 9 => BitVec.ofNat 64 s.ns
  | _ => BitVec.ofNat 64 (c.space.toNat + b2n c.world * 2 ^ 16)

def execSget (i : RriI) (s : State) : Out := scalarTo i.h [] s (fun s => specialReg s i.imm.toNat)

def execSput (i : RriI) (s : State) : Out :=
  scalarOp i.h [i.h.a] s (fun s =>
    let x := rs s i.h.a
    nextPc (onSelf s (fun c =>
      if i.imm = 0 then { c with ast := astWrite c.ast x } else { c with mdef := mdefWrite x })))

/-! ## Scalar floating point (08 R138, R139) -/

/-- The sign of a value flipped when asked. -/
def negIf (b : Bool) (x : FVal) : FVal := if b then x.negate else x

/-- SFMA on codes of a format: MOD[1] negates the product, MOD[2] the addend. -/
def sfmaOp (F : Fmt) (mode : RMode) (low : BitVec 3) (a b c : Nat) : Nat × Flags :=
  fMadd F mode (negIf (low.getLsbD 1) (decodeF F a)) (decodeF F b) (negIf (low.getLsbD 2) (decodeF F c))

/-- The format of SFMA: F32 = MOD[0]. -/
def sfmaFmt (low : BitVec 3) : Fmt := if low.getLsbD 0 then fmtF32 else fmtF64

def execSfma (i : IntI) (s : State) : Out :=
  let F := sfmaFmt i.low
  let cF : OpField := match i.t with
    | .rrr t => t.c
    | .rri _ => i.h.d
  scalarOp i.h (i.h.a :: cF :: bField i) s (fun s =>
    let code (x : DWord) : Nat := x.toNat % 2 ^ F.width
    let b : Nat := match i.t with
      | .rrr _ => code (rs s i.h.b)
      | .rri imm => if i.low.getLsbD 0 then imm.toNat else widenF32 imm.toNat
    let r := sfmaOp F (tailMode s i.t) i.low (code (rs s i.h.a)) b (code (rs s cF))
    nextPc (raiseFlags (ws s i.h.d (BitVec.ofNat 64 r.1)) r.2))

/-- The nine pairs of SFCVT: the 64-bit result and its flags. -/
def sfcvtOp (sub : Nat) (u sat : Bool) (mode : RMode) (x : DWord) : DWord × Flags :=
  let f64 := decodeF fmtF64 x.toNat
  let f32 := decodeF fmtF32 (x.toNat % 2 ^ 32)
  let res (r : Nat × Flags) : DWord × Flags := (BitVec.ofNat 64 r.1, r.2)
  let res32 (r : Nat × Flags) : DWord × Flags :=
    (if u then BitVec.ofNat 64 r.1 else (BitVec.ofNat 32 r.1).signExtend 64, r.2)
  match sub with
  | 0 => res (convToF fmtF64 mode false f32)
  | 1 => res (convToF fmtF32 mode sat f64)
  | 2 => res (convToI 64 u mode sat f64)
  | 3 => res (convToI 64 u mode sat f32)
  | 4 => res (convToF fmtF64 mode false (ofIntV (intOf u x)))
  | 5 => res (convToF fmtF32 mode false (ofIntV (intOf u x)))
  | 6 => res32 (convToI 32 u mode sat f64)
  | 7 => res32 (convToI 32 u mode sat f32)
  | _ => res (convToF fmtF32 mode false (ofIntV (intOf u (x.setWidth 32))))

def execSfcvt (i : IntI) (s : State) : Out :=
  let src : List OpField := match i.t with
    | .rrr _ => [i.h.a]
    | .rri _ => []
  scalarOp i.h src s (fun s =>
    let x := match i.t with
      | .rrr _ => rs s i.h.a
      | .rri imm => widenImm i.u imm
    let r := sfcvtOp i.sub.toNat i.u i.sat (tailMode s i.t) x
    nextPc (raiseFlags (ws s i.h.d r.1) r.2))

end Sys2Proof.Machine
end

