-- ==== Sys2Proof/Machine/LocalMem.lean ====
section
/-! DEFINITION. Local memory instructions, 0x80-0x8D, and the performing of stores (16 R258-R263, 11 R197). -/
namespace Sys2Proof.Machine

/-! ## ORDER (03 R50, R51, 16 R261) -/

/-- An atomic encoded with PLN executes as RLX. -/
def atomOrder (o : BitVec 2) : BitVec 2 := if o = 0 then 1 else o
/-- The memory fields of a scalar access: its own, or MDEF's with MOD[1]. -/
def sclAttr (s : State) (i : LocI) : MemAttr := if i.low.getLsbD 1 then attrMdef s.self.mdef else attrOf i.t

/-- An access of the moving carriage to local bytes, its ORDER and SCOPE as they act there (03 R51). -/
def newAcc (s : State) (sp : LocSpace) (id : Nat) (m : MemAttr) (order : BitVec 2) (keys : List Nat) (act : LocAct) : LocAcc :=
  { id := id, cid := s.self.id, homes := homesOf s.self, order := actOrder order (capScope sp m.scope)
    scope := capScope sp m.scope, later := false, keys := keys, act := act }

/-! ## Bytes an instruction reads within its own turn -/

/-- The read as an access that comes after all that the carriage has issued. -/
def ownRead (s : State) (sp : LocSpace) (m : MemAttr) (keys : List Nat) : LocAcc := newAcc s sp s.nextId m m.order keys (.load .none true)
/-- A line of it is owned, or something of the carriage goes first (11 R193, 12 R202-R204). -/
def readHeld (s : State) (x : LocAcc) : Bool := accBlocked s x || accBehind s s.waits x
/-- The same of a relaxed read of shared memory. -/
def imgBlocked (s : State) (keys : List Nat) : Bool := readHeld s (ownRead s .shm { order := 1, scope := 0, evict := 0 } keys)
/-- The bytes as the carriage sees them, and whether a unit of them is poisoned. -/
def imgBytes (s : State) (keys : List Nat) : List Byte := seeBytes s s.self.id (logOf s (homesOf s.self)) keys
def imgBad (s : State) (keys : List Nat) : Bool := seeBad s s.self.id (logOf s (homesOf s.self)) keys
/-- What the read's ORDER does beside (12 R205, R206). -/
def readDone (s : State) (x : LocAcc) : State :=
  let s := if x.order = 3 then catchUp s x.cid x.keys else s
  if 2 ≤ x.order.toNat then takeSync s x.cid x.scope x.keys else s

/-! ## Vector addresses (16 R258) -/

def memOfs (t : MemTail) : Word := t.ofs.signExtend 32

/-- Slot, thread and address of every active thread; `two` when B is a second address term. -/
def vecAddrs (s : State) (i : LocI) (two : Bool) : List (Nat × Nat × Nat) :=
  (active s i.h).map (fun st =>
    let a := opV s i.h.a st.2 + (if two then opV s i.h.b st.2 else 0) + memOfs i.t
    (st.1, st.2, a.toNat))

/-- v registers of a width (16 R259). -/
def widRegs (w : BitVec 3) : Nat := if w.toNat ≤ 2 then 1 else 2 ^ (w.toNat - 2)
/-- The parts of an access that are single-copy atomic: two halves at 128 bits (12 R200). -/
def widParts (w : BitVec 3) : List (Nat × Nat) :=
  if w.toNat = 4 then [(0, 8), (8, 8)] else [(0, widBytes w)]

/-- A vector access after its checks: registers, poisoned address terms, range, alignment; `dst` are the registers it
will write. -/
def vecAcc (i : LocI) (sp : LocSpace) (dst regs srcs : List Use) (two store : Bool) (s : State)
    (body : List (Nat × Nat × Nat) → State → State) : Out :=
  .next (if rangeBad s regs then trapC s .regRange
    else match poisonSlot s i.h srcs with
      | some t => trapSlot s .poison t 0
      | none =>
        let as := vecAddrs s i two
        match accFault s sp (widBytes i.wid) as with
        | some (c, t, a) => trapSlot s c t (BitVec.ofNat 64 a)
        | none =>
          if store && logFull s sp (as.flatMap (fun x => locKeys s sp x.2.1 x.2.2 (widBytes i.wid))) then
            trapC s .specIllegal
          else if passReads s i.h dst then s
          else nextPc (body as s))

/-- The single-copy atomic accesses of an instruction, served in an order that is free (12 R200, R201). -/
def runAccs (sp : LocSpace) (s : State) (accs : List LocAcc) : State := (threadOrder s 1 accs).foldl (tryAcc (sp == .spill)) s

/-- A load: each thread's bytes are taken now or when their lines are released; the registers are written on
arrival. -/
def vecLoad (sp : LocSpace) (i : LocI) (s : State) : Out :=
  vecAcc i sp [(i.h.d, widRegs i.wid)] [(i.h.d, widRegs i.wid), (i.h.a, 1), (i.h.b, 1)] [(i.h.a, 1), (i.h.b, 1)] true false s
    (fun as s =>
    let o := openLoad s
    let accs := as.flatMap (fun x => (widParts i.wid).map (fun p =>
      newAcc s sp o.1 (attrOf i.t) i.t.order (locKeys s sp x.2.1 (x.2.2 + p.1) p.2)
        (.load (.v x.2.1 (i.h.d.toNat + p.1 / 4)) i.u)))
    noteReads (runAccs sp o.2 accs) (accs.flatMap (fun x => x.keys)))

/-- The bytes of v registers from `reg` on. -/
def regBytes (s : State) (tid reg n : Nat) : List Byte :=
  ((span reg ((n + 3) / 4)).flatMap (fun r => bitsLe 4 (rv s tid r))).take n

/-- A store; a poisoned data element poisons its unit and traps nothing (24 R383). -/
def vecStore (sp : LocSpace) (i : LocI) (s : State) : Out :=
  vecAcc i sp [] [(i.h.d, widRegs i.wid), (i.h.a, 1), (i.h.b, 1)] [(i.h.a, 1), (i.h.b, 1)] true true s (fun as s =>
    let o := openStore s
    let accs := as.flatMap (fun x => (widParts i.wid).map (fun p =>
      let reg := i.h.d.toNat + p.1 / 4
      newAcc s sp o.1 (attrOf i.t) i.t.order (locKeys s sp x.2.1 (x.2.2 + p.1) p.2)
        (.store (regBytes s x.2.1 reg p.2) ((span reg ((p.2 + 3) / 4)).any (fun r => vBad s x.2.1 r)))))
    runAccs sp o.2 accs)

/-- An atomic: NR = MOD[0]; CAS compares with v[d] (16 R260). -/
def vecAtomic (sp : LocSpace) (i : LocI) (s : State) : Out :=
  let n := if i.wid = 3 then 2 else 1
  let nr := i.low.getLsbD 0
  let cas := i.aop = 9
  let dUse : List Use := if nr && !cas then [] else [(i.h.d, n)]
  let dSrc : List Use := if cas then [(i.h.d, n)] else []
  vecAcc i sp (if nr then [] else [(i.h.d, n)]) (dUse ++ [(i.h.a, 1), (i.h.b, n)]) (dSrc ++ [(i.h.a, 1), (i.h.b, n)]) false true s (fun as s =>
    let o := if nr then openStore s else openLoad s
    let accs := as.map (fun x =>
      let b : DWord := if n = 2 then opV64 s i.h.b x.2.1 else (opV s i.h.b x.2.1).setWidth 64
      let cmp : DWord := if n = 2 then rv64 s x.2.1 i.h.d.toNat else (rv s x.2.1 i.h.d.toNat).setWidth 64
      newAcc s sp o.1 (attrOf i.t) (atomOrder i.t.order) (locKeys s sp x.2.1 x.2.2 (widBytes i.wid))
        (.atomic i.aop b cmp (if nr then .none else .v x.2.1 i.h.d.toNat)))
    noteReads (runAccs sp o.2 accs) (accs.flatMap (fun x => x.keys)))

def execLds (i : LocI) (s : State) : Out := vecLoad .shm i s
def execSts (i : LocI) (s : State) : Out := vecStore .shm i s
def execLdd (i : LocI) (s : State) : Out := vecLoad .scr i s
def execStd (i : LocI) (s : State) : Out := vecStore .scr i s
def execLdl (i : LocI) (s : State) : Out := vecLoad .spill i s
def execStl (i : LocI) (s : State) : Out := vecStore .spill i s
def execAtoms (i : LocI) (s : State) : Out := vecAtomic .shm i s
def execAtomd (i : LocI) (s : State) : Out := vecAtomic .scr i s

/-! ## FENCE (16 R262): it stands among the carriage's accesses while an earlier one is not performed -/

def execFence (i : LocI) (s : State) : Out :=
  scalarOp i.h [] s (fun s =>
    if anyOpen s i.t.scope && i.t.scope != 0 then
      let n := newId s
      nextPc { n.2 with waits := n.2.waits ++ [{ id := n.1, cid := s.self.id, homes := homesOf s.self, order := i.t.order
                                                 scope := i.t.scope, later := false, keys := [], act := .fence }] }
    else nextPc s)

/-! ## Scalar accesses (16 R261) -/

/-- MOD[0]: 0 shared memory, 1 scratchpad. -/
def sclSpace (i : LocI) : LocSpace := if i.low.getLsbD 0 then .scr else .shm
def sclAddr (s : State) (i : LocI) (two : Bool) : Nat :=
  ((rs s i.h.a).setWidth 32 + (if two then (rs s i.h.b).setWidth 32 else 0) + memOfs i.t : Word).toNat

/-- A scalar access after its checks; no slot is named (23 R369). -/
def sclAcc (i : LocI) (srcs : List OpField) (two store : Bool) (s : State) (body : List Nat → State → State) : Out :=
  scalarOp i.h srcs s (fun s =>
    let a := sclAddr s i two
    let sp := sclSpace i
    let n := widBytes i.wid
    if !locOk s sp a then trapAt s .addrRange (BitVec.ofNat 64 a)
    else if a % n != 0 then trapAt s .addrAlign (BitVec.ofNat 64 a)
    else
      let keys := locKeys s sp 0 a n
      if store && logFull s sp keys then trapC s .specIllegal else nextPc (body keys s))

def execSld (i : LocI) (s : State) : Out :=
  sclAcc i [i.h.a, i.h.b] true false s (fun keys s =>
    let o := openLoad s
    noteReads (tryAcc false o.2 (newAcc s (sclSpace i) o.1 (sclAttr s i) (sclAttr s i).order keys
      (.load (.s s.self.id (sNum i.h.d)) i.u))) keys)

def execSst (i : LocI) (s : State) : Out :=
  sclAcc i [i.h.a, i.h.b] true true s (fun keys s =>
    let o := openStore s
    tryAcc false o.2 (newAcc s (sclSpace i) o.1 (sclAttr s i) (sclAttr s i).order keys
      (.store (bitsLe (widBytes i.wid) (rs s i.h.d)) (sBad s (sNum i.h.d)))))

def execSatom (i : LocI) (s : State) : Out :=
  sclAcc i (i.h.a :: i.h.b :: (if i.aop = 9 then [i.h.d] else [])) false true s (fun keys s =>
    let o := openLoad s
    noteReads (tryAcc false o.2 (newAcc s (sclSpace i) o.1 (sclAttr s i) (atomOrder (sclAttr s i).order) keys
      (.atomic i.aop (rs s i.h.b) (rs s i.h.d) (.s s.self.id (sNum i.h.d))))) keys)

/-! ## Queue ports (02 R37, 16 R263) -/

/-- The oldest entry of a queue, and the queues without it. -/
def popQueue (n : Nat) : List (Nat × DWord) → Option (DWord × List (Nat × DWord))
  | [] => none
  | (k, x) :: r => if k = n then some (x, r) else (popQueue n r).map (fun p => (p.1, (k, x) :: p.2))

/-- A loaded s value on its way. -/
def pendS (s : State) (reg : Nat) (x : DWord) : State :=
  let o := openLoad s
  addElems o.2 o.1 [.s s.self.id reg x false]

def apFaulted (c : Carriage) : Bool :=
  match c.ap with
  | some a => a.faulted
  | none => false

/-- QPOP and QPUSH are illegal in a path carriage and in an instance above 0 (18 R297, 20 R325). -/
def queueIllegal (s : State) : Option Cause :=
  if s.self.spinst ≠ 0 then some .specIllegal else if inRegion s.self then some .divergeIllegal else none

def execQpop (i : RrrI) (s : State) : Out :=
  scalarOp i.h [] s (fun s =>
    match queueIllegal s with
    | some c => trapC s c
    | none =>
      match popQueue i.h.a.toNat s.self.q with
      | some (x, q) => nextPc (pendS (onSelf s (fun c => { c with q := q })) (sNum i.h.d) x)
      | none =>
        if s.self.qClosed.getLsbD i.h.a.toNat then
          (if apFaulted s.self then trapC s .apFault
           else nextPc (pendS s (sNum i.h.d) 0xFFFFFFFFFFFFFFFF#64))
        else s)

def execQpush (i : RrrI) (s : State) : Out :=
  scalarOp i.h [i.h.a] s (fun s =>
    match queueIllegal s with
    | some c => trapC s c
    | none =>
      match s.self.ap with
      | none => nextPc s
      | some a =>
        if a.faulted then trapC s .apFault
        else if a.exited then nextPc s
        else if anyOpen s 3 then s
        else if 32 ≤ a.inbound.length then s
        else nextPc (openStore (onAp s (fun c => { c with inbound := c.inbound ++ [rs s i.h.a] }))).2)

/-! ## Performing (11 R197) -/

/-- A store whose bytes have been written is performed at its scope once every carriage sees them. -/
def idWaits (s : State) (id : Nat) : Bool := s.waits.any (fun w => w.id == id)
def execStorePerformed (store : Nat) (s : State) : Out :=
  .next (if idWaits s store || s.stale.any (fun e => e.id == store) then s
    else { s with stores := s.stores.filter (fun x => x.id != store) })

end Sys2Proof.Machine
end

