-- ==== Sys2Proof/WellFormed.lean ====
section
/-! DEFINITION. Well-formed instructions: instructions of a stream that pass every decode check of 03 R63 and R64 that
needs no state. -/
namespace Sys2Proof

/-- The instruction has words, and the decoder does not refuse them. -/
abbrev WellFormed (i : Instr) : Prop :=
  Machine.isStream i = true ∧ Machine.modOk i = true ∧ Machine.opsOk i = true

end Sys2Proof
end

