-- ==== Sys2Proof/Decode.lean ====
section
/-! DEFINITION. The decoder (96 bits to an instruction or a named fate, 03 R44-R65), after it the encoder, and the
words in memory order. Total on any bytes. -/
namespace Sys2Proof

/-! ## Fields of the three words: word n is bits 32n+31 to 32n -/

def opc (w : InstrBits) : BitVec 8 := w.extractLsb' 0 8
def modField (w : InstrBits) : BitVec 10 := w.extractLsb' 54 10

def head (w : InstrBits) : Head :=
  { d := w.extractLsb' 21 11
    hints :=
      { lastUse := w.getLsbD 20, reuseB := w.getLsbD 19, reuseA := w.getLsbD 18, yld := w.getLsbD 17
        stall := w.extractLsb' 13 4 }
    gneg := w.getLsbD 12
    guard := w.extractLsb' 8 4
    b := w.extractLsb' 43 11
    a := w.extractLsb' 32 11 }

def rrr (w : InstrBits) : Rrr :=
  { xmod := w.extractLsb' 78 18, rnd := w.extractLsb' 75 3, c := w.extractLsb' 64 11 }
def imm32 (w : InstrBits) : Word := w.extractLsb' 64 32
def memTail (w : InstrBits) : MemTail :=
  { ofs := w.extractLsb' 72 24, evict := w.extractLsb' 69 3, scope := w.extractLsb' 66 3
    order := w.extractLsb' 64 2 }
def engTail (w : InstrBits) : EngTail :=
  { emod := w.extractLsb' 80 16, ring := w.extractLsb' 76 4, ctr := w.extractLsb' 72 4
    evict := w.extractLsb' 69 3, scope := w.extractLsb' 66 3, order := w.extractLsb' 64 2 }
/-- MOD[9] IMM selects the RRI form (03 R56). -/
def aluTail (w : InstrBits) : AluTail := if w.getLsbD 63 then .rri (imm32 w) else .rrr (rrr w)

def intI (w : InstrBits) : IntI :=
  { h := head w, sat := w.getLsbD 62, u := w.getLsbD 61, sub := w.extractLsb' 57 4
    low := w.extractLsb' 54 3, t := aluTail w }
def fpI (w : InstrBits) : FpI :=
  { h := head w, nega := w.getLsbD 62, absa := w.getLsbD 61, negb := w.getLsbD 60, absb := w.getLsbD 59
    negc := w.getLsbD 58, sub := w.extractLsb' 54 4, t := aluTail w }
def cvtI (w : InstrBits) : CvtI :=
  { h := head w, sat := w.getLsbD 63, srcf := w.extractLsb' 59 4, dstf := w.extractLsb' 55 4
    zx := w.getLsbD 54, t := rrr w }
def locI (w : InstrBits) : LocI :=
  { h := head w, wid := w.extractLsb' 61 3, u := w.getLsbD 60, aop := w.extractLsb' 56 4
    low := w.extractLsb' 54 2, t := memTail w }
def rrrI (w : InstrBits) : RrrI := { h := head w, mod := modField w, t := rrr w }
def rriI (w : InstrBits) : RriI := { h := head w, mod := modField w, imm := imm32 w }
def brI (w : InstrBits) : BrI := { h := head w, mod := modField w, bofs := imm32 w }
def memI (w : InstrBits) : MemI := { h := head w, mod := modField w, t := memTail w }
def engI (w : InstrBits) : EngI :=
  { h := head w, tf := w.getLsbD 63, mod := w.extractLsb' 54 9, t := engTail w }
def passI (w : InstrBits) : PassI :=
  { h := head w, pi := w.extractLsb' 61 3, asrc := w.extractLsb' 59 2, low := w.extractLsb' 54 5
    t := rrr w }

/-! ## Words from fields -/

def bit (b : Bool) : BitVec 1 := BitVec.ofBool b

/-- Words 1 and 0 below word 2: MOD, B, A and then D, hints, guard, OPC (03 R47). -/
def encWords (o : BitVec 8) (h : Head) (mod : BitVec 10) (word2 : Word) : InstrBits :=
  word2 ++ (mod ++ (h.b ++ (h.a ++ (h.d ++ (bit h.hints.lastUse ++ (bit h.hints.reuseB ++
    (bit h.hints.reuseA ++ (bit h.hints.yld ++ (h.hints.stall ++ (bit h.gneg ++ (h.guard ++ o)))))))))))

def encRrrTail (t : Rrr) : Word := t.xmod ++ (t.rnd ++ t.c)
def encMemTail (t : MemTail) : Word := t.ofs ++ (t.evict ++ (t.scope ++ t.order))
def encEngTail (t : EngTail) : Word := t.emod ++ (t.ring ++ (t.ctr ++ (t.evict ++ (t.scope ++ t.order))))
def encAluTail : AluTail → Word
  | .rrr t => encRrrTail t
  | .rri imm => imm

def encInt (o : BitVec 8) (i : IntI) : InstrBits :=
  encWords o i.h (bit (Machine.isRri i.t) ++ (bit i.sat ++ (bit i.u ++ (i.sub ++ i.low)))) (encAluTail i.t)
def encFp (o : BitVec 8) (i : FpI) : InstrBits :=
  encWords o i.h (bit (Machine.isRri i.t) ++ (bit i.nega ++ (bit i.absa ++ (bit i.negb ++ (bit i.absb ++
    (bit i.negc ++ i.sub)))))) (encAluTail i.t)
def encCvt (o : BitVec 8) (i : CvtI) : InstrBits :=
  encWords o i.h (bit i.sat ++ (i.srcf ++ (i.dstf ++ bit i.zx))) (encRrrTail i.t)
def encLoc (o : BitVec 8) (i : LocI) : InstrBits :=
  encWords o i.h (i.wid ++ (bit i.u ++ (i.aop ++ i.low))) (encMemTail i.t)
def encRrr (o : BitVec 8) (i : RrrI) : InstrBits := encWords o i.h i.mod (encRrrTail i.t)
def encRri (o : BitVec 8) (i : RriI) : InstrBits := encWords o i.h i.mod i.imm
def encBr (o : BitVec 8) (i : BrI) : InstrBits := encWords o i.h i.mod i.bofs
def encMem (o : BitVec 8) (i : MemI) : InstrBits := encWords o i.h i.mod (encMemTail i.t)
def encEng (o : BitVec 8) (i : EngI) : InstrBits := encWords o i.h (bit i.tf ++ i.mod) (encEngTail i.t)
def encPass (o : BitVec 8) (i : PassI) : InstrBits :=
  encWords o i.h (i.pi ++ (i.asrc ++ i.low)) (encRrrTail i.t)

/-- The instruction of a carriage's stream that a word holds: the opcode map of 03 R55. SIG's form is EMOD[15]
(16 R271). -/
def decodeRaw (w : InstrBits) : Instr :=
  match (opc w).toNat with
  | 0x00 => .ill (w.extractLsb' 8 88)
  | 0x01 => .sadd (intI w)
  | 0x02 => .ssub (intI w)
  | 0x03 => .smul (intI w)
  | 0x04 => .smulh (intI w)
  | 0x05 => .sdiv (intI w)
  | 0x06 => .srem (intI w)
  | 0x07 => .sand (intI w)
  | 0x08 => .sor (intI w)
  | 0x09 => .sxor (intI w)
  | 0x0A => .sshl (intI w)
  | 0x0B => .sshr (intI w)
  | 0x0C => .ssra (intI w)
  | 0x0D => .smin (intI w)
  | 0x0E => .smax (intI w)
  | 0x0F => .scmp (intI w)
  | 0x10 => .ssel (intI w)
  | 0x11 => .smov (intI w)
  | 0x12 => .sbfx (intI w)
  | 0x13 => .sbfi (intI w)
  | 0x14 => .sbitc (intI w)
  | 0x15 => .slea (intI w)
  | 0x16 => .sget (rriI w)
  | 0x17 => .sput (rriI w)
  | 0x18 => .sfma (intI w)
  | 0x19 => .sfcvt (intI w)
  | 0x20 => .bra (brI w)
  | 0x21 => .brx (rriI w)
  | 0x22 => .lpad (rriI w)
  | 0x23 => .call (brI w)
  | 0x24 => .ret (rrrI w)
  | 0x25 => .loop (brI w)
  | 0x26 => .dbr (brI w)
  | 0x27 => .join (rrrI w)
  | 0x28 => .exit (rrrI w)
  | 0x29 => .yield (brI w)
  | 0x2A => .waitc (rriI w)
  | 0x2B => .waith (rrrI w)
  | 0x2C => .tsth (rrrI w)
  | 0x2D => .canh (rrrI w)
  | 0x2E => .bar (rriI w)
  | 0x2F => .launch (rrrI w)
  | 0x30 => .spawn (rrrI w)
  | 0x31 => .spawnf (rrrI w)
  | 0x32 => .trap (rriI w)
  | 0x33 => .brk (rriI w)
  | 0x34 => .sysc (rriI w)
  | 0x35 => .pause (rriI w)
  | 0x38 => .sploop (memI w)
  | 0x39 => .guess (rrrI w)
  | 0x3A => .accept (rrrI w)
  | 0x3B => .spend (rrrI w)
  | 0x3C => .spmark (rrrI w)
  | 0x3D => .spquit (rrrI w)
  | 0x40 => .vaddI32 (intI w)
  | 0x41 => .vaddI64 (intI w)
  | 0x42 => .vsubI32 (intI w)
  | 0x43 => .vsubI64 (intI w)
  | 0x44 => .vmulI32 (intI w)
  | 0x45 => .vmulI64 (intI w)
  | 0x46 => .vmadI32 (intI w)
  | 0x47 => .vand (intI w)
  | 0x48 => .vor (intI w)
  | 0x49 => .vxor (intI w)
  | 0x4A => .vshl (intI w)
  | 0x4B => .vshr (intI w)
  | 0x4C => .vsra (intI w)
  | 0x4D => .vminI32 (intI w)
  | 0x4E => .vmaxI32 (intI w)
  | 0x4F => .vcmpI32 (intI w)
  | 0x50 => .vcmpI64 (intI w)
  | 0x51 => .vsel (intI w)
  | 0x52 => .vmov (intI w)
  | 0x53 => .vbfx (intI w)
  | 0x54 => .vbitc (intI w)
  | 0x55 => .vtid (intI w)
  | 0x56 => .vshfl (intI w)
  | 0x57 => .vscan (intI w)
  | 0x58 => .vpred (intI w)
  | 0x59 => .vrds (intI w)
  | 0x5A => .vdot4I8 (intI w)
  | 0x60 => .vfaddF32 (fpI w)
  | 0x61 => .vfaddF64 (fpI w)
  | 0x62 => .vfmulF32 (fpI w)
  | 0x63 => .vfmulF64 (fpI w)
  | 0x64 => .vfmaF32 (fpI w)
  | 0x65 => .vfmaF64 (fpI w)
  | 0x66 => .vfmaH2 (fpI w)
  | 0x67 => .vfmaBf2 (fpI w)
  | 0x68 => .vfminF32 (fpI w)
  | 0x69 => .vfmaxF32 (fpI w)
  | 0x6A => .vfminF64 (fpI w)
  | 0x6B => .vfmaxF64 (fpI w)
  | 0x6C => .vfcmpF32 (fpI w)
  | 0x6D => .vfcmpF64 (fpI w)
  | 0x6E => .vfdivF32 (fpI w)
  | 0x6F => .vfdivF64 (fpI w)
  | 0x70 => .vfsqrtF32 (fpI w)
  | 0x71 => .vfsqrtF64 (fpI w)
  | 0x72 => .vfrcpF32 (fpI w)
  | 0x73 => .vfrsqF32 (fpI w)
  | 0x74 => .vfexp2F32 (fpI w)
  | 0x75 => .vflog2F32 (fpI w)
  | 0x76 => .vfclass (fpI w)
  | 0x77 => .vfrnd (fpI w)
  | 0x78 => .vcvtFf (cvtI w)
  | 0x79 => .vcvtFi (cvtI w)
  | 0x7A => .vcvtIf (cvtI w)
  | 0x7B => .vqnt (cvtI w)
  | 0x7C => .vdqnt (cvtI w)
  | 0x7D => .vbsc (fpI w)
  | 0x80 => .lds (locI w)
  | 0x81 => .sts (locI w)
  | 0x82 => .ldd (locI w)
  | 0x83 => .std (locI w)
  | 0x84 => .ldl (locI w)
  | 0x85 => .stl (locI w)
  | 0x86 => .atoms (locI w)
  | 0x87 => .atomd (locI w)
  | 0x88 => .fence (locI w)
  | 0x89 => .sld (locI w)
  | 0x8A => .sst (locI w)
  | 0x8B => .satom (locI w)
  | 0x8C => .qpop (rrrI w)
  | 0x8D => .qpush (rrrI w)
  | 0x90 => .cpy (engI w)
  | 0x91 => .cpyt (engI w)
  | 0x92 => .gat (engI w)
  | 0x93 => .gatp (engI w)
  | 0x94 => .sca (engI w)
  | 0x95 => .scaa (engI w)
  | 0x96 => .amog (engI w)
  | 0x97 => if w.getLsbD 95 then .sigW (engI w) else .sigN (engI w)
  | 0x98 => .ctrs (engI w)
  | 0x99 => .triga (engI w)
  | 0x9A => .coll (engI w)
  | 0x9B => .kvapp (engI w)
  | 0x9C => .kvfork (engI w)
  | 0x9D => .kvmap (engI w)
  | 0x9E => .kvfree (engI w)
  | 0x9F => .pfxf (engI w)
  | 0xA0 => .pfxi (engI w)
  | 0xA1 => .route (engI w)
  | 0xA2 => .edrn (engI w)
  | 0xB0 => .mmaE4 (passI w)
  | 0xB1 => .mmaE5 (passI w)
  | 0xB2 => .mmaNx4 (passI w)
  | 0xB3 => .mmaBf16 (passI w)
  | 0xB4 => .mmaF16 (passI w)
  | 0xB5 => .mmaF32 (passI w)
  | 0xB6 => .mmaF64 (passI w)
  | 0xB7 => .mmaI8 (passI w)
  | 0xB8 => .mmspE4 (passI w)
  | 0xB9 => .mmspBf16 (passI w)
  | 0xBA => .mmssBf16 (passI w)
  | 0xC6 => .mmrkBf16 (passI w)
  | 0xBB => .accdef (rriI w)
  | 0xBC => .accld (memI w)
  | 0xBD => .accst (memI w)
  | 0xBE => .accstat (rrrI w)
  | 0xBF => .tld (engI w)
  | 0xC0 => .tst (engI w)
  | 0xC1 => .tdesc (rrrI w)
  | 0xC2 => .rkins (passI w)
  | 0xC3 => .rkmrg (passI w)
  | 0xC4 => .rkthr (passI w)
  | 0xC5 => .rkout (passI w)
  | 0xE0 => .sysrd (rriI w)
  | 0xE1 => .syswr (rriI w)
  | 0xE2 => .eret (rrrI w)
  | 0xE3 => .monc (rriI w)
  | 0xE4 => .tlbi (rrrI w)
  | 0xE5 => .ctxsv (memI w)
  | 0xE6 => .ctxld (memI w)
  | 0xE7 => .haltc (rriI w)
  | 0xE8 => .pgchk (engI w)
  | _ => .reservedOpcode (opc w) (w.extractLsb' 8 88)

/-- The words of an instruction (03 R47, R48, R55); an event has none and encodes as 0. -/
def encode : Instr → InstrBits
  | .ill rest => rest ++ (0 : BitVec 8)
  | .reservedOpcode o rest => rest ++ o
  | .sadd i => encInt 0x01 i
  | .ssub i => encInt 0x02 i
  | .smul i => encInt 0x03 i
  | .smulh i => encInt 0x04 i
  | .sdiv i => encInt 0x05 i
  | .srem i => encInt 0x06 i
  | .sand i => encInt 0x07 i
  | .sor i => encInt 0x08 i
  | .sxor i => encInt 0x09 i
  | .sshl i => encInt 0x0A i
  | .sshr i => encInt 0x0B i
  | .ssra i => encInt 0x0C i
  | .smin i => encInt 0x0D i
  | .smax i => encInt 0x0E i
  | .scmp i => encInt 0x0F i
  | .ssel i => encInt 0x10 i
  | .smov i => encInt 0x11 i
  | .sbfx i => encInt 0x12 i
  | .sbfi i => encInt 0x13 i
  | .sbitc i => encInt 0x14 i
  | .slea i => encInt 0x15 i
  | .sget i => encRri 0x16 i
  | .sput i => encRri 0x17 i
  | .sfma i => encInt 0x18 i
  | .sfcvt i => encInt 0x19 i
  | .bra i => encBr 0x20 i
  | .brx i => encRri 0x21 i
  | .lpad i => encRri 0x22 i
  | .call i => encBr 0x23 i
  | .ret i => encRrr 0x24 i
  | .loop i => encBr 0x25 i
  | .dbr i => encBr 0x26 i
  | .join i => encRrr 0x27 i
  | .exit i => encRrr 0x28 i
  | .yield i => encBr 0x29 i
  | .waitc i => encRri 0x2A i
  | .waith i => encRrr 0x2B i
  | .tsth i => encRrr 0x2C i
  | .canh i => encRrr 0x2D i
  | .bar i => encRri 0x2E i
  | .launch i => encRrr 0x2F i
  | .spawn i => encRrr 0x30 i
  | .spawnf i => encRrr 0x31 i
  | .trap i => encRri 0x32 i
  | .brk i => encRri 0x33 i
  | .sysc i => encRri 0x34 i
  | .pause i => encRri 0x35 i
  | .sploop i => encMem 0x38 i
  | .guess i => encRrr 0x39 i
  | .accept i => encRrr 0x3A i
  | .spend i => encRrr 0x3B i
  | .spmark i => encRrr 0x3C i
  | .spquit i => encRrr 0x3D i
  | .vaddI32 i => encInt 0x40 i
  | .vaddI64 i => encInt 0x41 i
  | .vsubI32 i => encInt 0x42 i
  | .vsubI64 i => encInt 0x43 i
  | .vmulI32 i => encInt 0x44 i
  | .vmulI64 i => encInt 0x45 i
  | .vmadI32 i => encInt 0x46 i
  | .vand i => encInt 0x47 i
  | .vor i => encInt 0x48 i
  | .vxor i => encInt 0x49 i
  | .vshl i => encInt 0x4A i
  | .vshr i => encInt 0x4B i
  | .vsra i => encInt 0x4C i
  | .vminI32 i => encInt 0x4D i
  | .vmaxI32 i => encInt 0x4E i
  | .vcmpI32 i => encInt 0x4F i
  | .vcmpI64 i => encInt 0x50 i
  | .vsel i => encInt 0x51 i
  | .vmov i => encInt 0x52 i
  | .vbfx i => encInt 0x53 i
  | .vbitc i => encInt 0x54 i
  | .vtid i => encInt 0x55 i
  | .vshfl i => encInt 0x56 i
  | .vscan i => encInt 0x57 i
  | .vpred i => encInt 0x58 i
  | .vrds i => encInt 0x59 i
  | .vdot4I8 i => encInt 0x5A i
  | .vfaddF32 i => encFp 0x60 i
  | .vfaddF64 i => encFp 0x61 i
  | .vfmulF32 i => encFp 0x62 i
  | .vfmulF64 i => encFp 0x63 i
  | .vfmaF32 i => encFp 0x64 i
  | .vfmaF64 i => encFp 0x65 i
  | .vfmaH2 i => encFp 0x66 i
  | .vfmaBf2 i => encFp 0x67 i
  | .vfminF32 i => encFp 0x68 i
  | .vfmaxF32 i => encFp 0x69 i
  | .vfminF64 i => encFp 0x6A i
  | .vfmaxF64 i => encFp 0x6B i
  | .vfcmpF32 i => encFp 0x6C i
  | .vfcmpF64 i => encFp 0x6D i
  | .vfdivF32 i => encFp 0x6E i
  | .vfdivF64 i => encFp 0x6F i
  | .vfsqrtF32 i => encFp 0x70 i
  | .vfsqrtF64 i => encFp 0x71 i
  | .vfrcpF32 i => encFp 0x72 i
  | .vfrsqF32 i => encFp 0x73 i
  | .vfexp2F32 i => encFp 0x74 i
  | .vflog2F32 i => encFp 0x75 i
  | .vfclass i => encFp 0x76 i
  | .vfrnd i => encFp 0x77 i
  | .vcvtFf i => encCvt 0x78 i
  | .vcvtFi i => encCvt 0x79 i
  | .vcvtIf i => encCvt 0x7A i
  | .vqnt i => encCvt 0x7B i
  | .vdqnt i => encCvt 0x7C i
  | .vbsc i => encFp 0x7D i
  | .lds i => encLoc 0x80 i
  | .sts i => encLoc 0x81 i
  | .ldd i => encLoc 0x82 i
  | .std i => encLoc 0x83 i
  | .ldl i => encLoc 0x84 i
  | .stl i => encLoc 0x85 i
  | .atoms i => encLoc 0x86 i
  | .atomd i => encLoc 0x87 i
  | .fence i => encLoc 0x88 i
  | .sld i => encLoc 0x89 i
  | .sst i => encLoc 0x8A i
  | .satom i => encLoc 0x8B i
  | .qpop i => encRrr 0x8C i
  | .qpush i => encRrr 0x8D i
  | .cpy i => encEng 0x90 i
  | .cpyt i => encEng 0x91 i
  | .gat i => encEng 0x92 i
  | .gatp i => encEng 0x93 i
  | .sca i => encEng 0x94 i
  | .scaa i => encEng 0x95 i
  | .amog i => encEng 0x96 i
  | .sigN i => encEng 0x97 i
  | .sigW i => encEng 0x97 i
  | .ctrs i => encEng 0x98 i
  | .triga i => encEng 0x99 i
  | .coll i => encEng 0x9A i
  | .kvapp i => encEng 0x9B i
  | .kvfork i => encEng 0x9C i
  | .kvmap i => encEng 0x9D i
  | .kvfree i => encEng 0x9E i
  | .pfxf i => encEng 0x9F i
  | .pfxi i => encEng 0xA0 i
  | .route i => encEng 0xA1 i
  | .edrn i => encEng 0xA2 i
  | .mmaE4 i => encPass 0xB0 i
  | .mmaE5 i => encPass 0xB1 i
  | .mmaNx4 i => encPass 0xB2 i
  | .mmaBf16 i => encPass 0xB3 i
  | .mmaF16 i => encPass 0xB4 i
  | .mmaF32 i => encPass 0xB5 i
  | .mmaF64 i => encPass 0xB6 i
  | .mmaI8 i => encPass 0xB7 i
  | .mmspE4 i => encPass 0xB8 i
  | .mmspBf16 i => encPass 0xB9 i
  | .mmssBf16 i => encPass 0xBA i
  | .mmrkBf16 i => encPass 0xC6 i
  | .accdef i => encRri 0xBB i
  | .accld i => encMem 0xBC i
  | .accst i => encMem 0xBD i
  | .accstat i => encRrr 0xBE i
  | .tld i => encEng 0xBF i
  | .tst i => encEng 0xC0 i
  | .tdesc i => encRrr 0xC1 i
  | .rkins i => encPass 0xC2 i
  | .rkmrg i => encPass 0xC3 i
  | .rkthr i => encPass 0xC4 i
  | .rkout i => encPass 0xC5 i
  | .sysrd i => encRri 0xE0 i
  | .syswr i => encRri 0xE1 i
  | .eret i => encRrr 0xE2 i
  | .monc i => encRri 0xE3 i
  | .tlbi i => encRrr 0xE4 i
  | .ctxsv i => encMem 0xE5 i
  | .ctxld i => encMem 0xE6 i
  | .haltc i => encRri 0xE7 i
  | .pgchk i => encEng 0xE8 i
  | .apSld i => encLoc 0x89 i
  | .apQpop i => encRrr 0x8C i
  | .apQpush i => encRrr 0x8D i
  | .apExit i => encRrr 0x28 i
  | .loadDataArrival _ _ => 0
  | .storePerformed _ => 0
  | .ownershipGrant _ => 0
  | .sourceLineRelease _ _ => 0
  | .engineCompletion _ => 0
  | .cancelStop _ => 0
  | .cartLocalSwitch _ => 0
  | .cartHomeSwitch _ => 0
  | .rowEngineCart _ => 0
  | .bridgePoolCombine _ _ => 0
  | .replySwitchCombine _ => 0
  | .cartReplyPlace _ => 0
  | .subcartHoldRelease _ => 0
  | .subcartNotreadyTimeout _ => 0
  | .collEnd _ => 0
  | .collSend _ => 0
  | .collRecv _ => 0
  | .collRrs _ => 0
  | .collCopy _ => 0
  | .collWait _ => 0
  | .collLoop _ => 0
  | .collCmb _ => 0
  | .collSlotStart _ => 0
  | .collStepTimeout _ => 0
  | .collStartTimeout _ => 0
  | .combineContribution _ => 0
  | .rawContributionArrival _ => 0
  | .combineEntryTimeout _ => 0
  | .bypassRecordTimeout _ => 0
  | .triggerFire _ => 0
  | .triggerTimebaseTick _ => 0
  | .yieldResume _ => 0
  | .hostQtailWrite _ _ _ => 0
  | .qstatStopClear _ _ => 0
  | .launchAccept _ _ => 0
  | .coachPlace _ => 0
  | .coachRetire _ => 0
  | .successorStart _ => 0
  | .binTimerExpiry _ _ => 0
  | .spawnedCarriagePlace _ => 0
  | .spawnCoachRetire _ => 0
  | .dbrRegroup _ => 0
  | .pathCarriageForm _ => 0
  | .joinReconverge _ _ => 0
  | .barRelease _ _ => 0
  | .spinTimeout _ => 0
  | .passGrant _ => 0
  | .passOvertake _ => 0
  | .passWriteback _ => 0
  | .kvReserve _ => 0
  | .appendLand _ => 0
  | .specKvappRelease _ => 0
  | .kvforkArrive _ => 0
  | .kvfreeArrive _ => 0
  | .pfxLookupArrive _ => 0
  | .pfxInsertArrive _ => 0
  | .scrubberTick _ => 0
  | .pgchkCheck _ => 0
  | .poolEnable _ _ => 0
  | .poolDisable _ => 0
  | .routeRun _ => 0
  | .routeNotreadyTimeout _ => 0
  | .windowStart _ => 0
  | .windowEnd _ => 0
  | .tlbiComplete _ => 0
  | .preemptSaveRequest _ _ => 0
  | .preemptEligible _ => 0
  | .preemptDeadline _ => 0
  | .preemptRestoreRequest _ _ => 0
  | .restorePlace _ => 0
  | .debuggerHalt _ => 0
  | .debuggerAccess _ _ _ => 0
  | .mgmtRegisterWrite _ _ _ => 0
  | .resetKeyWrite _ => 0
  | .cxlMemRequest _ _ _ => 0
  | .getVersion _ => 0
  | .getCapabilities _ => 0
  | .negotiateAlgorithms _ => 0
  | .getDigests _ => 0
  | .getCertificate _ => 0
  | .challenge _ => 0
  | .getMeasurements _ => 0
  | .akbexLinkTraining _ _ => 0
  | .linkCrcReplay _ _ => 0
  | .bootConfigVerify _ => 0
  | .selfTestPass _ _ => 0
  | .correctedError _ => 0
  | .containedError _ _ => 0
  | .uncontainedError _ _ _ => 0
  | .packageReset => 0
  | .powerSample _ _ => 0
  | .clockStepUp => 0
  | .thermalTrip _ => 0
  | .inputUndervoltage _ _ => 0
  | .peerLinkDown _ => 0
  | .cxlLinkDown => 0
  | .peerRequestArrival _ _ => 0
  | .mgmtRegisterRead _ _ => 0

/-- What a word is refused for (03 R63, steps 4 and 5 of R64). -/
inductive DecodeFate where
  | reservedModifier
  | illegalOperand
  | apIllegal
  deriving DecidableEq, Repr

/-- The checks in the order of 03 R64: modifiers before operands. -/
def checked (i : Instr) : Except DecodeFate Instr :=
  if Machine.modOk i = false then .error .reservedModifier
  else if Machine.opsOk i = false then .error .illegalOperand
  else .ok i

/-- The decoder of a carriage's stream. ILL and the unassigned opcodes decode, and their meaning is the trap. -/
def decode (w : InstrBits) : Except DecodeFate Instr := checked (decodeRaw w)

/-- No operand field names an s register above s31 (14 R242). -/
def apFields (h : Head) (c : OpField) : Bool :=
  h.guard.toNat < 8 && (h.d.toNat < 1568) && (h.a.toNat < 1568) && (h.b.toNat < 1568) && c.toNat < 1568

def apTailC : AluTail → OpField
  | .rrr t => t.c
  | .rri _ => 0

/-- The decoder of access-processor code (14 R242): opcodes 0x01-0x15, BRA, LOOP, EXIT, PAUSE, SLD, QPOP, QPUSH. -/
def decodeAp (w : InstrBits) : Except DecodeFate Instr :=
  let o := (opc w).toNat
  if 0x01 ≤ o ∧ o ≤ 0x15 then
    match checked (decodeRaw w) with
    | .error e => .error e
    | .ok i =>
      if apFields (head w) (apTailC (aluTail w)) = false then .error .illegalOperand
      else if o = 0x0F ∧ 8 ≤ (head w).d.toNat then .error .illegalOperand
      else .ok i
  else if o = 0x20 ∨ o = 0x25 ∨ o = 0x35 then
    match checked (decodeRaw w) with
    | .error e => .error e
    | .ok i => if apFields (head w) 0 = false then .error .illegalOperand else .ok i
  else if o = 0x28 then checked (.apExit (rrrI w))
  else if o = 0x89 then checked (.apSld (locI w))
  else if o = 0x8C then checked (.apQpop (rrrI w))
  else if o = 0x8D then checked (.apQpush (rrrI w))
  else .error .apIllegal

/-! ## Bytes: three little-endian words (03 R44) -/

/-- The instruction bits from its bytes, the first at the lowest address; missing bytes read as 0. -/
def bitsOfBytes (bs : List Byte) : InstrBits :=
  bs.foldr (fun b acc => (acc <<< 8) ||| b.setWidth 96) 0

/-- The `n` low bytes of the bits, lowest address first. -/
def bytesOfBits : Nat → InstrBits → List Byte
  | 0, _ => []
  | n + 1, w => w.setWidth 8 :: bytesOfBits n (w >>> 8)

def encodeBytes (i : Instr) : List Byte := bytesOfBits 12 (encode i)

/-- The decoder on bytes: twelve of them, then the rest. -/
def decodeBytes (bs : List Byte) : Except DecodeFate (Instr × List Byte) :=
  match decode (bitsOfBytes (bs.take 12)) with
  | .error e => .error e
  | .ok i => .ok (i, bs.drop 12)

/-- The bits of an instruction as the opcode table numbers them, those above `nbits` zero. -/
def tableBits (nbits w : Nat) : InstrBits := BitVec.ofNat 96 (w % 2 ^ nbits)

/-- What the decoder reads from a table word. -/
def decodeTableWord (nbits w : Nat) : Option Instr :=
  match decodeBytes (bytesOfBits 12 (tableBits nbits w)) with
  | .error _ => none
  | .ok (i, _) => some i

end Sys2Proof
end

