-- ==== Sys2Proof/Machine/Translate.lean ====
section
/-! DEFINITION. Worlds of memory, address translation, mismatch counts and the fetch of an instruction's bytes
(22 R353-R361, R426, 03 R45, R46). -/
namespace Sys2Proof.Machine

/-! ## Regions (22 R355) -/

def stackOf (pa : Nat) : Nat := pa / 2 ^ 36 % 8
def unitOf (pa : Nat) : Nat := pa % 2 ^ 36 / 2 ^ 16

/-- Region register i of a stack. -/
def mrgn (s : State) (pkg stack i : Nat) : DWord := rsysP s pkg 0 5 (0x1000 + 0x200 * stack + 8 * i)
/-- An enabled region of world `w` covers the unit. -/
def regionCovers (r : DWord) (w : Bool) (unit : Nat) : Bool :=
  r.getLsbD 63 && r.getLsbD 62 == w && field r 0 20 ≤ unit && unit ≤ field r 32 20
/-- The world of a 64 KiB unit: N only when an N region covers it and no S region does. -/
def unitWorld (s : State) (pkg pa : Nat) : Bool :=
  let cover (w : Bool) : Bool :=
    (span 0 64).any (fun i => regionCovers (mrgn s pkg (stackOf pa) i) w (unitOf pa))
  !(cover false && !cover true)

/-! ## Mismatch counts and logs (22 R426) -/

def mmHomeSwitch : Nat := 0x4000
def mmRowEngine (n : Nat) : Nat := 0x4020 + 0x20 * n
def mmPort (p : Nat) : Nat := 0x4120 + 0x20 * p
def mmCxl : Nat := 0x42A0
def mmCore (k : Nat) : Nat := 0x42C0 + 0x20 * k
def mmRoute (d : Nat) : Nat := 0x52C0 + 0x20 * d

/-- A drop at a block of package `at'`: the count rises, saturating, and the first one is logged. -/
def noteMismatchAt (s : State) (at' blk : Nat) (world : Bool) (space : BitVec 16) (pkg : Nat) (what : DWord) : State :=
  let n := field (rsysP s at' 0 5 blk) 0 32
  let s := wsysP s at' 0 5 blk (BitVec.ofNat 64 (min (n + 1) (2 ^ 32 - 1)))
  if (rsysP s at' 0 5 (blk + 8)).getLsbD 32 then s
  else
    let log := b2n world * 2 ^ 33 + 2 ^ 32 + space.toNat * 2 ^ 16 + pkg % 2 ^ 16
    wsysP (wsysP s at' 0 5 (blk + 8) (BitVec.ofNat 64 log)) at' 0 5 (blk + 0x10) what
def noteMismatch (s : State) (blk : Nat) (world : Bool) (space : BitVec 16) (pkg : Nat) (what : DWord) : State :=
  noteMismatchAt s Config.ownPackage blk world space pkg what

/-! ## The walk (22 R357-R359) -/

inductive Access where
  | read | write | exec
  deriving DecidableEq, Repr

/-- Where a translated byte lies. -/
structure Target where
  host : Bool
  pkg : Nat
  pa : Nat
  deriving DecidableEq, Repr

def targetKey (t : Target) : Nat := if t.host then memKey .host 0 t.pa else memKey .hbm t.pkg t.pa

def pteV (e : DWord) : Bool := e.getLsbD 0
def pteT (e : DWord) : Bool := e.getLsbD 1
def pteTgt (e : DWord) : Nat := field e 6 2
def pteAddr (e : DWord) : Nat := field e 8 40 * 2 ^ 8
def ptePeer (e : DWord) : Nat := field e 48 16
def pteWorld (e : DWord) : Bool := e.getLsbD 5
/-- The leaf grants the access. -/
def ptePerm (e : DWord) : Access → Bool
  | .read => e.getLsbD 2
  | .write => e.getLsbD 3
  | .exec => e.getLsbD 4

/-- Level: index bits of the VA, entries' address shift, leaf page bits (0 where no leaf), child table alignment. -/
structure Level where
  lo : Nat
  n : Nat
  leafBits : Nat
  childAlign : Nat
  deriving DecidableEq, Repr

def level : Nat → Level
  | 0 => ⟨39, 9, 0, 12⟩
  | 1 => ⟨30, 9, 30, 12⟩
  | 2 => ⟨21, 9, 21, 8⟩
  | _ => ⟨16, 5, 16, 0⟩

/-- A malformed entry of a level (22 R358, R359). -/
def pteBadForm (lv : Nat) (e : DWord) : Bool :=
  let L := level lv
  if pteT e then
    lv == 3 || pteTgt e != 0 || ptePeer e != 0 || pteAddr e % 2 ^ L.childAlign != 0 || 2 ^ 39 ≤ pteAddr e
  else
    lv == 0 || pteTgt e == 3 || (ptePeer e != 0 && pteTgt e != 1) || pteAddr e % 2 ^ L.leafBits != 0 ||
      (pteTgt e != 2 && 2 ^ 39 ≤ pteAddr e)

/-- What a walk ends in: a leaf with its page bits, or a cause. -/
abbrev WalkResult := Except Cause (DWord × Nat)

/-- A walk with, where it fails, the address bits of the failed region: what the entry it stopped at would map, the whole
space at the root pointer (13 R219). -/
abbrev FullWalk := Except (Cause × Nat) (DWord × Nat)

/-- One table after another from `lv`; tables lie in the HBM of the package that walks. -/
def walkFrom (s : State) (pkg : Nat) (world : Bool) (va : Nat) : Nat → Nat → Nat → FullWalk
  | 0, _, _ => .error (.xlateForm, 16)
  | fuel + 1, lv, table =>
    let L := level lv
    let addr := table + 8 * nbits va L.lo L.n
    let e : DWord := BitVec.ofNat 64 (mnum s (memKey .hbm pkg addr) 8)
    if pteBadForm lv e then .error (.xlateForm, L.lo)
    else if !pteV e then .error (.xlateNone, L.lo)
    else if pteWorld e != world || unitWorld s pkg addr != world then .error (.world, L.lo)
    else if pteT e then walkFrom s pkg world va fuel (lv + 1) (pteAddr e)
    else .ok (e, L.leafBits)

/-- The walk of a package from its space table of a world (22 R357). -/
def walkP (s : State) (pkg : Nat) (world : Bool) (space : BitVec 16) (va : Nat) : FullWalk :=
  if 2 ^ 48 ≤ va then .error (.xlateForm, 16)
  else
    let addr := (rsysP s pkg (wIdx world) 4 8).toNat % 2 ^ 39 + 8 * space.toNat
    let root : DWord := BitVec.ofNat 64 (mnum s (memKey .hbm pkg addr) 8)
    if field root 1 11 ≠ 0 ∨ field root 39 25 ≠ 0 then .error (.xlateForm, 48)
    else if !root.getLsbD 0 then .error (.xlateNone, 48)
    else if unitWorld s pkg addr != world then .error (.world, 48)
    else walkFrom s pkg world va 4 0 (field root 12 27 * 2 ^ 12)
def causeOnly : FullWalk → WalkResult
  | .ok l => .ok l
  | .error x => .error x.1
def walk (s : State) (world : Bool) (space : BitVec 16) (va : Nat) : WalkResult :=
  causeOnly (walkP s Config.ownPackage world space va)

/-! ## Translation caches (22 R360, R361): a cached leaf or a fresh walk, which of them is free -/

/-- Units that translate: copy engine of core k is k, row engine n is 1,024 + n, the routing engine of die d 2,048 + d,
the sequencer of port p 3,072 + p. -/
def engCopy (core : Nat) : Nat := core
def engRow (n : Nat) : Nat := 1024 + n
def engRoute (d : Nat) : Nat := 2048 + d
/-- A translation seen before that any unit may still use, the fetch path among them. -/
def engAny : Nat := 4096
/-- How many translations a unit caches; the others walk. -/
def tlbSize (eng : Nat) : Nat := if eng < 1024 then 512 else if eng < 2048 then 4096 else 0

/-- The entries a unit of a package may use for an address. -/
def tlbFor (s : State) (pkg eng : Nat) (world : Bool) (space : BitVec 16) (va : Nat) : List TlbEntry :=
  s.tlb.filter (fun e => e.pkg == pkg && (e.engine == eng || e.engine == engAny) && e.world == world && e.space == space && e.page == va / 2 ^ e.bits)

def tlbLeaf (e : TlbEntry) : FullWalk :=
  match e.fail with
  | some c => .error (c, e.bits)
  | none => .ok (e.leaf, e.bits)
/-- The leaf a unit of a package uses for a page. -/
def leafAt (s : State) (pkg eng : Nat) (world : Bool) (space : BitVec 16) (va : Nat) : FullWalk :=
  match tlbFor s pkg eng world space va with
  | [] => walkP s pkg world space va
  | e :: es =>
    match (e :: es)[free s (0x100 + va / 2 ^ 16) % (es.length + 2)]? with
    | some e => tlbLeaf e
    | none => walkP s pkg world space va
def leafFull (s : State) (eng : Nat) (world : Bool) (space : BitVec 16) (va : Nat) : FullWalk :=
  leafAt s Config.ownPackage eng world space va
def leafFor (s : State) (eng : Nat) (world : Bool) (space : BitVec 16) (va : Nat) : WalkResult :=
  causeOnly (leafFull s eng world space va)

/-- An entry takes its place in a cache: of a full one, some entry goes. -/
def tlbPut (s : State) (e : TlbEntry) (size : Nat) : State :=
  let mine (x : TlbEntry) : Bool := x.engine == e.engine && x.pkg == e.pkg
  let others := s.tlb.filter (fun x => !mine x)
  let own := s.tlb.filter (fun x => mine x &&
    !(x.world == e.world && x.space == e.space && x.page == e.page && x.bits == e.bits))
  { s with tlb := e :: (if own.length < size then own else own.eraseIdx (free s 33 % own.length)) ++ others }
def tlbEntry (pkg eng : Nat) (world : Bool) (space : BitVec 16) (va : Nat) (l : DWord × Nat) : TlbEntry :=
  { pkg := pkg, engine := eng, world := world, space := space, page := va / 2 ^ l.2, bits := l.2, leaf := l.1, fail := none }
/-- Remember the leaf used, at a unit that caches. -/
def tlbNote (s : State) (eng : Nat) (world : Bool) (space : BitVec 16) (va : Nat) : State :=
  if tlbSize eng = 0 then s
  else match leafFor s eng world space va with
    | .ok l => tlbPut s (tlbEntry Config.ownPackage eng world space va l) (tlbSize eng)
    | .error _ => s
/-- A translation as it stands, be it a failure, becomes one that may be used until a TLBI covers its page (22 R361). -/
def seeTranslation (s : State) (pkg : Nat) (world : Bool) (space : BitVec 16) (va : Nat) : State :=
  let e := match walkP s pkg world space va with
    | .ok l => tlbEntry pkg engAny world space va l
    | .error x => { tlbEntry pkg engAny world space va (0, x.2) with fail := some x.1 }
  { s with tlb := e :: s.tlb }

/-- The target of a leaf for an address. -/
def leafTarget (leaf : DWord) (bits va : Nat) : Target :=
  { host := pteTgt leaf == 2
    pkg := if pteTgt leaf = 1 then ptePeer leaf else Config.ownPackage
    pa := pteAddr leaf + va % 2 ^ bits }

/-- SERVE_S and SERVE_N of a package's row engine (22 R353). -/
def serves (s : State) (pkg stack : Nat) (world : Bool) : Bool :=
  (rsysP s pkg 0 5 0x008).getLsbD (stack + if world then 0 else 8)
/-- The row engine of a stack takes an access of its HBM: it serves the world, and the unit is of it (22 R353, R359). -/
def rowTakes (s : State) (pkg pa : Nat) (world : Bool) : Bool :=
  serves s pkg (stackOf pa) world && unitWorld s pkg pa == world

/-- Permission, then the row engine at the target; host memory is checked by the leaf's WORLD alone (22 R359). -/
def checkLeaf (s : State) (world : Bool) (va : Nat) (acc : Access) (r : DWord × Nat) : Except Cause Target :=
  if !ptePerm r.1 acc then .error .xlatePerm
  else
    let t := leafTarget r.1 r.2 va
    if !t.host && !rowTakes s t.pkg t.pa world then .error .world else .ok t

/-- A row engine counts a drop that is no cart entry: of what WHAT holds then, no rule tells. -/
def noteRow (s : State) (pkg pa : Nat) (world : Bool) (space : BitVec 16) (req : Nat) : State :=
  noteMismatchAt s pkg (mmRowEngine (stackOf pa)) world space req (BitVec.ofNat 64 (free s 34))
/-- A walk that began at `since` failed with WORLD: it counts at the walking block, unless it was one walk with another that
failed on the page meanwhile (22 R359, R360, R426). -/
def noteWalk (s : State) (blk since : Nat) (world : Bool) (space : BitVec 16) (va : Nat) : State :=
  let w : Walked := { blk := blk, world := world, space := space, page := va / 2 ^ 16, at' := s.tick }
  let same (x : Walked) : Bool := x.blk == blk && x.world == world && x.space == space && x.page == w.page && since ≤ x.at' && x.at' < s.tick
  if s.walked.any same && free s 53 % 2 = 1 then s
  else
    { noteMismatch s blk world space Config.ownPackage (BitVec.ofNat 64 va) with
      walked := w :: s.walked.filter (fun x => s.ops.any (fun o => o.asked ≤ x.at')) }
/-- A WORLD failure is counted where it arose: at the walking block for one of the walk, at the row engine for one of
the target (22 R359, R426). -/
def noteWorld (s : State) (blk since : Nat) (world : Bool) (space : BitVec 16) (va : Nat) : WalkResult → State
  | .error _ => noteWalk s blk since world space va
  | .ok l =>
    let t := leafTarget l.1 l.2 va
    noteRow s t.pkg t.pa world space Config.ownPackage

/-- An engine's translation of one address. -/
def xlate (s : State) (eng : Nat) (world : Bool) (space : BitVec 16) (va : Nat) (acc : Access) : Except Cause Target :=
  match leafFor s eng world space va with
  | .error c => .error c
  | .ok r => checkLeaf s world va acc r

/-- The fetch path's translation. -/
def xlateFetch (s : State) (world : Bool) (space : BitVec 16) (va : Nat) (acc : Access) : Except Cause Target :=
  xlate s engAny world space va acc

/-- Pieces of a range that cross no 64 KiB boundary: address and length. -/
def pieces : Nat → Nat → Nat → List (Nat × Nat)
  | 0, _, _ => []
  | fuel + 1, va, len =>
    if len = 0 then []
    else
      let n := min len (2 ^ 16 - va % 2 ^ 16)
      (va, n) :: pieces fuel (va + n) (len - n)
def piecesOf (va len : Nat) : List (Nat × Nat) := pieces (len / 2 ^ 16 + 2) va len

/-! ## Routes (22 R425) -/

/-- The first port of a package's route whose readiness bit is set. -/
def routePort (s : State) (pkg : Nat) : Option Nat :=
  match s.routes.find? (fun r => r.1 == pkg) with
  | some r => r.2.find? (fun p => ready s (146 + p))
  | none => none
/-- The package whose memory is named is reached: a route has a ready port; host memory over the CXL link (24 R386). -/
def targetUp (s : State) (t : Target) : Bool :=
  if t.host then ready s 159 else t.pkg == Config.ownPackage || (routePort s t.pkg).isSome
/-- What a unit's ranges translate to is reached. -/
def rangesUp (s : State) (eng : Nat) (world : Bool) (space : BitVec 16) (rs : List (Nat × Nat)) : Bool :=
  rs.all (fun r => (piecesOf r.1 r.2).all (fun p =>
    match leafFor s eng world space p.1 with
    | .ok l => targetUp s (leafTarget l.1 l.2 p.1)
    | .error _ => true))
/-- The fetch path of the moving carriage reaches a range. -/
def fetchUp (s : State) (va : DWord) (n : Nat) : Bool := rangesUp s engAny s.self.world s.self.space [(va.toNat, n)]

/-- Keys of a range of the fetch path, or the first cause. -/
def fetchKeys (s : State) (world : Bool) (space : BitVec 16) (acc : Access) : List (Nat × Nat) → Except Cause (List (Nat × Nat))
  | [] => .ok []
  | (va, n) :: r =>
    match xlateFetch s world space va acc with
    | .error c => .error c
    | .ok t =>
      match fetchKeys s world space acc r with
      | .error c => .error c
      | .ok ks => .ok ((targetKey t, n) :: ks)

/-- Bytes the fetch path reads at a virtual address. -/
def fetchBytes (s : State) (world : Bool) (space : BitVec 16) (acc : Access) (va n : Nat) : Except Cause (List Byte) :=
  match fetchKeys s world space acc (piecesOf va n) with
  | .error c => .error c
  | .ok ks => .ok (ks.flatMap (fun k => mread s k.1 k.2))

/-- A mismatch of the fetch path is counted at the core's walking block, or at the row engine (22 R359, R426). -/
def noteFetch (s : State) (c : Cause) (va : DWord) : State :=
  if c = .world then
    noteWorld s (mmCore s.self.core) s.tick s.self.world s.self.space va.toNat (leafFor s engAny s.self.world s.self.space va.toNat)
  else s

/-! ## Fetching an instruction (03 R45, R46) -/

/-- What was replaced in a run of bytes since a step, newest first. -/
def pastOf (s : State) (since : Nat) (ks : List (Nat × Nat)) : List Past :=
  s.past.filter (fun e => since ≤ e.at' && ks.any (fun k => k.1 < e.key + e.old.length && e.key < k.1 + k.2))
/-- The newest `n` replacements may be undone together: what one write replaced is undone whole, and a write that is still
under way is. -/
def undoable (s : State) (es : List Past) (n : Nat) : Bool :=
  (es.drop n).all (fun e =>
    (!e.one || s.ops.all (fun o => o.id != e.op || o.stage == .landed)) &&
      (es.take n).all (fun d => d.at' != e.at' && (!e.one || d.op != e.op)))
/-- The bytes of a run with replacements undone, newest first. -/
def undone (s : State) (es : List Past) (ks : List (Nat × Nat)) : List Byte :=
  let old : State := { s with mem := es.foldl (fun m e => csetN m e.key e.old) s.mem }
  ks.flatMap (fun k => mread old k.1 k.2)
/-- The step since which the launch of the moving carriage has been placed. -/
def placedSince (s : State) : Nat :=
  match ownLaunch s with
  | some l => l.placedAt.getD s.tick
  | none => s.tick
/-- A run of bytes read whole: as it stands, or as it stood at some moment since a step. -/
def wholeSince (s : State) (since : Nat) (ks : List (Nat × Nat)) : List Byte :=
  match pastOf s since ks with
  | [] => ks.flatMap (fun k => mread s k.1 k.2)
  | e :: es =>
    let ns := (span 0 (es.length + 2)).filter (undoable s (e :: es))
    undone s ((e :: es).take ((ns[free s 35 % max 1 ns.length]?).getD 0)) ks
/-- Bytes as read over a while: each 8-byte unit as it stands or as it stood at some moment since a step, no further back
than a write of the reader's own. -/
def unitsSince (s : State) (salt since : Nat) (mine : Past → Bool) (ks : List (Nat × Nat)) (bs : List Byte) : List Byte :=
  if (pastOf s since ks).isEmpty then bs
  else ((ks.flatMap (fun k => span k.1 k.2)).zip bs).map (fun x =>
    let u := x.1 / 8
    let es := (pastOf s since [(8 * u, 8)]).takeWhile (fun e => !mine e)
    if es.isEmpty then x.2 else (undone s (es.take (free s (salt + u) % (es.length + 1))) [(x.1, 1)]).headD 0)
/-- The twelve bytes at an address of the moving carriage, whole: as they stand, or as they stood at some moment since
its launch was placed. -/
def fetchAt (s : State) (va : DWord) : Except Cause (List Byte) :=
  match fetchKeys s s.self.world s.self.space .exec (piecesOf va.toNat 12) with
  | .error c => .error c
  | .ok ks => .ok (wholeSince s (placedSince s) ks)

end Sys2Proof.Machine
end

