-- ==== Sys2Proof/Machine/Control.lean ====
section
/-! DEFINITION. Control and synchronisation within a carriage: illegal encodings, branches, calls, jump tables, traps,
waiting, handles, barriers (21 R331-R345, 03 R63, 19 R314). -/
namespace Sys2Proof.Machine

/-! ## Encodings that are no instruction (03 R63): a trap, whatever the guard reads -/

def execIll (_ : BitVec 88) (s : State) : Out := .next (trapC s .illegalInstruction)
def execReservedOpcode (_ : BitVec 8) (_ : BitVec 88) (s : State) : Out := .next (trapC s .reservedOpcode)

/-! ## Branches (21 R333) and the spin detector (19 R314) -/

/-- P + 12 × o (03 R45). -/
def branchTo (s : State) (bofs : Word) : DWord := pcOf s + 12 * bofs.signExtend 64

/-- Offsets −1 to −64. -/
def isBackward (bofs : Word) : Bool := bofs.toInt < 0 && -64 ≤ bofs.toInt

/-- An address stands in a loop from `lo` to `hi`. -/
def inTrip (lo hi a : DWord) : Bool := lo.toNat ≤ a.toNat && a.toNat ≤ hi.toNat

/-- A taken backward branch: a trip ends. The count rises while s and k stay unchanged, what the counted trips read is
recorded, and the eighth taking lowers. -/
def spinTake (s : State) (bofs : Word) : State :=
  if s.apMode || !isBackward bofs then s
  else onSelf s (fun c =>
    let p := c.spin
    let target := c.pc + 12 * bofs.signExtend 64
    if p.lowered then { c with spin := { p with trip := [] } }
    else if p.count != 0 && p.branch == c.pc && p.target == target && p.s == c.s && p.k == c.k then
      { c with spin := { p with
        count := p.count + 1, marks := nubNat (p.marks ++ p.trip.map (fun r => r.2)), trip := []
        lowered := 7 ≤ p.count, deadline := if 7 ≤ p.count then s.cyc + 4096 else 0 } }
    else
      { c with spin := { branch := c.pc, target := target, count := 1, s := c.s, k := c.k
                         marks := nubNat ((p.trip.filter (fun r => inTrip target c.pc r.1)).map (fun r => r.2)), trip := [], lowered := false, deadline := 0 } })

def execBra (i : BrI) (s : State) : Out :=
  scalarOp i.h [] s (fun s => setPc (spinTake s i.bofs) (branchTo s i.bofs))

/-- The link is P + 12. -/
def execCall (i : BrI) (s : State) : Out :=
  scalarOp i.h [] s (fun s => setPc (ws s i.h.d (pcOf s + 12)) (branchTo s i.bofs))

def execRet (i : RrrI) (s : State) : Out := scalarOp i.h [i.h.a] s (fun s => setPc s (rs s i.h.a))

def execLoop (i : BrI) (s : State) : Out :=
  scalarOp i.h [i.h.d] s (fun s =>
    let n := rs s i.h.d
    if n = 0 then nextPc s
    else
      let s1 := ws s i.h.d (n - 1)
      if n = 1 then nextPc s1 else setPc (spinTake s1 i.bofs) (branchTo s i.bofs))

/-! ## Jump tables (21 R334) -/

/-- The bytes are an LPAD with this label. -/
def isLpad (bs : List Byte) (label : Nat) : Bool := leAt bs 0 1 == 0x22 && leAt bs 8 2 == label

/-- 8 bytes of a table, readable through the fetch path; a unit rewritten since the launch was placed is old or new. -/
def tableWord (s : State) (a : DWord) : Except Cause DWord :=
  match fetchKeys s s.self.world s.self.space .read (piecesOf a.toNat 8) with
  | .error c => .error c
  | .ok ks => .ok (leBits 64 (unitsSince s (2 ^ 78) (placedSince s) (fun _ => false) ks (ks.flatMap (fun k => mread s k.1 k.2))))

def brxBody (label : Nat) (a b : DWord) (s : State) : State :=
  if a.toNat % 8 ≠ 0 then trapAt s .fetchFault a
  else if !fetchUp s a 8 then s
  else match tableWord s a with
    | .error c => trapAt (noteFetch s c a) .fetchFault a
    | .ok hdr =>
      let count := field hdr 0 32
      if count = 0 ∨ 4096 < count ∨ field hdr 32 16 ≠ label ∨ count ≤ b.toNat then trapAt s .jtabFault a
      else if !fetchUp s (a + 8 + 8 * b) 8 then s
      else match tableWord s (a + 8 + 8 * b) with
        | .error c => trapAt (noteFetch s c (a + 8 + 8 * b)) .fetchFault a
        | .ok tgt =>
          if tgt.toNat % 4 ≠ 0 then trapAt s .pcAlign tgt
          else if !fetchUp s tgt 12 then s
          else match fetchAt s tgt with
            | .error c => trapAt (noteFetch s c tgt) .fetchFault tgt
            | .ok bs =>
              if isLpad bs label then setPc s tgt
              else takeTrap s { justCause .lpadFault with taddr := a, tinfo := tgt }

def execBrx (i : RriI) (s : State) : Out :=
  scalarOp i.h [i.h.a, i.h.b] s (fun s => brxBody (i.imm.toNat % 2 ^ 16) (rs s i.h.a) (rs s i.h.b) s)

/-- LPAD executed in sequence has no effect. -/
def execLpad (i : RriI) (s : State) : Out := scalarOp i.h [] s nextPc

/-! ## Software traps and pauses (21 R345) -/

def execTrap (i : RriI) (s : State) : Out :=
  scalarOp i.h [] s (fun s => takeTrap s { justCause .trap with tinfo := i.imm.setWidth 64, after := true })
def execSysc (i : RriI) (s : State) : Out :=
  scalarOp i.h [] s (fun s => takeTrap s { justCause .syscall with tinfo := i.imm.setWidth 64, after := true })
/-- With the debug unit enabled for the carriage's world, BRK halts it where it stands. -/
def execBrk (i : RriI) (s : State) : Out :=
  scalarOp i.h [] s (fun s =>
    if s.self.spinst = 0 && Config.debugOn s.self.world then onSelf s (fun c => { c with halted := true })
    else takeTrap s { justCause .breakpoint with tinfo := i.imm.setWidth 64 })
/-- It is not ready for that many cycles, and nothing else happens. -/
def execPause (i : RriI) (s : State) : Out :=
  scalarOp i.h [] s (fun s =>
    let n := field i.imm 0 16
    nextPc (if n = 0 then s else onSelf s (fun c => { c with issue := { c.issue with stall := s.cyc + n + 1 } })))

/-! ## Outstanding work (21 R341, 11 R197) -/

def passCount (s : State) (home : Nat) : Nat := (s.passes.filter (fun p => p.counted.contains home)).length
/-- The four counts of a home carriage, each saturating at 255. -/
def loadCount (s : State) (home : Nat) : Nat := min 255 (s.loads.filter (fun l => l.homes.contains home)).length
def storeCount (s : State) (home : Nat) : Nat := min 255 (s.stores.filter (fun l => l.homes.contains home)).length
def engineCount (s : State) (home : Nat) : Nat :=
  min 255 (s.ops.filter (fun o => o.homes.contains home && !o.isTile)).length
def tileCount (s : State) (home : Nat) : Nat :=
  min 255 (passCount s home + (s.ops.filter (fun o => o.homes.contains home && o.isTile)).length)
/-- A class summed over every home carriage whose threads the moving carriage holds, compared with a limit. -/
def classAtMost (s : State) (count : State → Nat → Nat) (limit : Nat) : Bool :=
  sumNat ((homesOf s.self).map (count s)) ≤ limit

def waitcReady (s : State) (imm : Word) : Bool :=
  classAtMost s loadCount (field imm 0 8) && classAtMost s storeCount (field imm 8 8) &&
    classAtMost s engineCount (field imm 16 8) && classAtMost s tileCount (field imm 24 8)

def execWaitc (i : RriI) (s : State) : Out :=
  scalarOp i.h [] s (fun s => if waitcReady s i.imm then nextPc s else s)

/-! ## Handles (21 R338, R339, 16 R265) -/

/-- The handle an instruction names: h[a], or by the token in s[a]; none when the token is stale. A token of 0 is
EMPTY. -/
def namedHandle (s : State) (tok : Bool) (a : OpField) : Option HandleView :=
  if tok then
    (if rs s a = 0 then some { tok := 0, op := 0, done := false, stat := 0, tf := false, addr := 0 } else tokenHandle s (rs s a))
  else some (handleOf s.self a.toNat)

/-- A fault of a .TF operation, or of a position of its cart, that the issuing carriage now reads for the first time:
it traps (16 R265, 13 R224). -/
def tfDue (s : State) (v : HandleView) : Bool :=
  v.tf && v.done && statCause v.stat != 0 && statCause v.stat != causeCode .cancelled &&
    statCause v.stat != causeCode .preempted && cget s.self.hTok (tokH v.tok) == v.tok &&
    s.self.hTf.getLsbD (tokH v.tok)
/-- The trap: the record gives the engine instruction's address and the token; it is raised once. -/
def tfTrap (s : State) (v : HandleView) : State :=
  takeTrap (onSelf s (fun c => { c with hTf := setBitTo c.hTf (tokH v.tok) false }))
    { justCause .trap with cause := statCause v.stat, tinfo := v.addr, ttok := v.tok }

def execWaith (i : RrrI) (s : State) : Out :=
  let tok := i.mod.getLsbD 0
  scalarOp i.h (if tok then [i.h.a] else []) s (fun s =>
    match namedHandle s tok i.h.a with
    | none => trapC s .handleStale
    | some v =>
      if v.pending then s
      else if tfDue s v then tfTrap s v
      else nextPc (ws s i.h.d v.status))

def execTsth (i : RrrI) (s : State) : Out :=
  let tok := i.mod.getLsbD 0
  scalarOp i.h (if tok then [i.h.a] else []) s (fun s =>
    if i.mod.getLsbD 1 then nextPc (ws s i.h.d (handleOf s.self i.h.a.toNat).tok)
    else
      match namedHandle s tok i.h.a with
      | none => trapC s .handleStale
      | some v =>
        if v.pending then nextPc (wk (ws s i.h.d 0) i.t.c.toNat false)
        else if tfDue s v then tfTrap s v
        else nextPc (wk (ws s i.h.d v.status) i.t.c.toNat true))

/-! ## YIELD (21 R340) -/

/-- What a yield waits for: the handle of h[a] (0) or of a token (1), or a counter term (2; 3 once it has held). -/
inductive YieldTest where
  | go
  | wait
  | stale
  | faulted (v : HandleView)
  deriving DecidableEq, Repr

def handleTest (s : State) : Option HandleView → YieldTest
  | none => .stale
  | some v => if v.pending then .wait else if tfDue s v then .faulted v else .go

/-- The condition of a yield of the moving carriage. -/
def yieldTest (s : State) (kind : Nat) (ref : DWord) (imm : Word) : YieldTest :=
  match kind with
  | 0 => handleTest s (some (handleOf s.self ref.toNat))
  | 1 => handleTest s (if ref = 0 then some { tok := 0, op := 0, done := false, stat := 0, tf := false, addr := 0 }
      else tokenHandle s ref)
  | 2 => if termHolds s s.self.coach { imm := imm, ctr := ref.toNat } then .go else .wait
  | _ => .go

/-- Continue, trap, or release the issue slot. -/
def yieldGo (s : State) (kind : Nat) (ref : DWord) (imm : Word) (cont : DWord) : State :=
  match yieldTest s kind ref imm with
  | .go =>
    -- an acquire of the release that made a counter predicate true (12 R204)
    let s := if 2 ≤ kind then takeSync s s.self.id 5 [ctrMark s.self.coach ref.toNat] else s
    setPc (onSelf s (fun c => { c with wait := .run })) cont
  | .stale => trapC (onSelf s (fun c => { c with wait := .run })) .handleStale
  | .faulted v => tfTrap (onSelf s (fun c => { c with wait := .run })) v
  | .wait => onSelf s (fun c => { c with wait := .yielded kind ref imm cont })

def execYield (i : BrI) (s : State) : Out :=
  let kind := field i.mod 0 2
  let srcs : List OpField := if kind = 1 then [i.h.a] else if kind = 2 then [i.h.b] else []
  scalarOp i.h srcs s (fun s =>
    let ref : DWord := if kind = 1 then rs s i.h.a else i.h.a.setWidth 64
    yieldGo s kind ref ((rs s i.h.b).setWidth 32) (branchTo s i.bofs))

/-- A yielded carriage resumes at its continuation once its condition holds. -/
def execYieldResume (cid : Nat) (s : State) : Out :=
  .next (match car? s cid with
    | none => s
    | some c =>
      match c.wait with
      | .yielded kind ref imm cont => yieldGo (focus s cid) kind ref imm cont
      | _ => s)

/-! ## Barriers (21 R342) -/

/-- An arrival; BAR.CARR never waits. -/
def execBar (i : RriI) (s : State) : Out :=
  .next (
    if i.imm = 0 then nextPc s
    else if s.self.spinst ≠ 0 then trapC s .specIllegal
    else if inRegion s.self || s.self.kind == .spawned then trapC s .divergeIllegal
    else onSelf s (fun c => { c with wait := .bar i.imm.toNat }))

/-- The carriage takes part in a barrier: alive, in the coach, on the core for CORE scope; no path and no instance. -/
def takesPart (coach : Nat) (coreOnly : Option Nat) (c : Carriage) : Bool :=
  c.coach == coach && c.kind == .home && c.wait != .exited &&
    (match coreOnly with
     | some k => c.core == k
     | none => true)
def atBar (scope : Nat) (c : Carriage) : Bool := c.wait == .bar scope

/-- The carriages that take part in a barrier. -/
def barPart (s : State) (coach : Nat) (coreOnly : Option Nat) : List Carriage := (cars s).filter (takesPart coach coreOnly)
def barWaiting (s : State) (coach : Nat) (coreOnly : Option Nat) : List Carriage :=
  (barPart s coach coreOnly).filter (atBar (if coreOnly.isSome then 1 else 3))
/-- The arrivals of the present phase: the carriages that wait, and for the coach barrier what its section brought. -/
def barArrived (s : State) (coach : Nat) (coreOnly : Option Nat) : Int :=
  (barWaiting s coach coreOnly).length +
    (match coreOnly, coach? s coach with
     | none, some k => k.arrived
     | _, _ => 0)
/-- Every carriage that takes part has arrived. -/
def barFull (s : State) (coach : Nat) (coreOnly : Option Nat) : Bool :=
  ((barPart s coach coreOnly).length : Int) ≤ barArrived s coach coreOnly
/-- When every carriage that takes part has arrived, and the accesses of those that wait are performed at COACH scope
(12 R204), they go on at PC + 12 and a new phase starts. -/
def execBarRelease (coach : Nat) (coreOnly : Option Nat) (s : State) : Out :=
  let ids := (barWaiting s coach coreOnly).map (fun c => c.id)
  .next (
    if ids.isEmpty || !barFull s coach coreOnly || waiting s ids || unseen s ids 3 then s
    else
      let s := shareBefore s ids ids
      let s := if coreOnly.isSome then s else onCoach s coach (fun k => { k with arrived := 0 })
      mapCars s (fun c =>
        if takesPart coach coreOnly c && atBar (if coreOnly.isSome then 1 else 3) c then { c with wait := .run, pc := c.pc + 12 } else c))

/-! ## End of a lowering (19 R314) -/

def execSpinTimeout (cid : Nat) (s : State) : Out :=
  .next (onCar s cid (fun c =>
    if c.spin.lowered && c.spin.deadline ≤ s.cyc then { c with spin := Spin.reset } else c))

end Sys2Proof.Machine
end

