-- ==== Sys2Proof/Machine/VecInt.lean ====
section
/-! DEFINITION. Vector integer instructions, 0x40-0x5A (08 R140-R149). -/
namespace Sys2Proof.Machine

/-! ## Element-wise (08 R140, R141) -/

def execVaddI32 (i : IntI) (s : State) : Out := vecBin i s (addOp i.sat i.u)
def execVaddI64 (i : IntI) (s : State) : Out := vecBin64 i s (addOp i.sat i.u)
def execVsubI32 (i : IntI) (s : State) : Out := vecBin i s (subOp i.sat i.u)
def execVsubI64 (i : IntI) (s : State) : Out := vecBin64 i s (subOp i.sat i.u)
/-- SUB 1 HI: the upper half of the product. -/
def execVmulI32 (i : IntI) (s : State) : Out :=
  vecBin i s (if i.sub = 1 then mulHi i.u else mulOp i.sat i.u)
def execVmulI64 (i : IntI) (s : State) : Out := vecBin64 i s (mulOp i.sat i.u)
def execVand (i : IntI) (s : State) : Out := vecBin i s (fun a b => a &&& b)
def execVor (i : IntI) (s : State) : Out := vecBin i s (fun a b => a ||| b)
def execVxor (i : IntI) (s : State) : Out := vecBin i s (fun a b => a ^^^ b)
def execVshl (i : IntI) (s : State) : Out := vecBin i s shlOp
def execVshr (i : IntI) (s : State) : Out := vecBin i s shrOp
def execVsra (i : IntI) (s : State) : Out := vecBin i s sraOp
def execVminI32 (i : IntI) (s : State) : Out := vecBin i s (minOp i.u)
def execVmaxI32 (i : IntI) (s : State) : Out := vecBin i s (maxOp i.u)
/-- 08 R143. -/
def execVbfx (i : IntI) (s : State) : Out := vecBin i s (bfxOp i.u 5)

/-- Three sources, the third C, or D in the RRI form. -/
def vecTri (i : IntI) (s : State) (f : Word → Word → Word → Word) : Out :=
  vecOp i.h ((i.h.d, 1) :: (i.h.a, 1) :: useB i 1 ++ useC i 1) ((i.h.a, 1) :: useB i 1 ++ useC i 1) s
    (fun s => setV s i.h (fun _ tid => f (opV s i.h.a tid) (vecB i s tid) (vecC i s tid)))

def madOp (sat u : Bool) (a b c : Word) : Word := narrowI sat u 32 (intOf u a * intOf u b + intOf u c)
def execVmadI32 (i : IntI) (s : State) : Out := vecTri i s (madOp i.sat i.u)

/-- 08 R141: four byte products added to a signed c; UA is MOD[1], UB MOD[0]. -/
def dot4 (sat ua ub : Bool) (a b c : Word) : Word :=
  let term (j : Nat) : Int := intOf ua (byteOf a j) * intOf ub (byteOf b j)
  narrowI sat false 32 (c.toInt + term 0 + term 1 + term 2 + term 3)
def execVdot4I8 (i : IntI) (s : State) : Out := vecTri i s (dot4 i.sat (i.low.getLsbD 1) (i.low.getLsbD 0))

/-! ## Comparison, selection, moves (08 R142) -/

def execVcmpI32 (i : IntI) (s : State) : Out :=
  vecOp i.h ((i.h.a, 1) :: useB i 1) ((i.h.a, 1) :: useB i 1) s
    (fun s => setP s i.h (fun _ tid => intCond i.u i.sub.toNat (opV s i.h.a tid) (vecB i s tid)))
def execVcmpI64 (i : IntI) (s : State) : Out :=
  vecOp i.h ((i.h.a, 2) :: useB i 2) ((i.h.a, 2) :: useB i 2) s
    (fun s => setP s i.h (fun _ tid => intCond i.u i.sub.toNat (opV64 s i.h.a tid) (vecB64 i s tid)))

/-- a where p[SUB] is 1, else b; MOD[0] W64 selects pairs. -/
def execVsel (i : IntI) (s : State) : Out :=
  if i.low = 1 then
    vecOp i.h ((i.h.d, 2) :: (i.h.a, 2) :: useB i 2) ((i.h.a, 2) :: useB i 2) s
      (fun s => setV64 s i.h (fun _ tid => if rp s tid i.sub.toNat then opV64 s i.h.a tid else vecB64 i s tid))
  else
    vecOp i.h ((i.h.d, 1) :: (i.h.a, 1) :: useB i 1) ((i.h.a, 1) :: useB i 1) s
      (fun s => setV s i.h (fun _ tid => if rp s tid i.sub.toNat then opV s i.h.a tid else vecB i s tid))

/-- The source of VMOV: A, or the immediate. -/
def movUse (i : IntI) (n : Nat) : List Use :=
  match i.t with
  | .rrr _ => [(i.h.a, n)]
  | .rri _ => []
def execVmov (i : IntI) (s : State) : Out :=
  if i.low = 1 then
    vecOp i.h ((i.h.d, 2) :: movUse i 2) (movUse i 2) s (fun s => setV64 s i.h (fun _ tid =>
      match i.t with
      | .rrr _ => opV64 s i.h.a tid
      | .rri imm => widenImm i.u imm))
  else
    vecOp i.h ((i.h.d, 1) :: movUse i 1) (movUse i 1) s (fun s => setV s i.h (fun _ tid =>
      match i.t with
      | .rrr _ => opV s i.h.a tid
      | .rri imm => imm))

/-- 08 R143. -/
def execVbitc (i : IntI) (s : State) : Out :=
  vecOp i.h [(i.h.d, 1), (i.h.a, 1)] [(i.h.a, 1)] s
    (fun s => setV s i.h (fun _ tid => bitcOp i.sub.toNat (opV s i.h.a tid)))

/-! ## Identity and cross-thread instructions (08 R144-R149) -/

/-- The carriage a thread is at home in. -/
def homeOf (s : State) (tid : Nat) : Carriage := if homeCar tid = s.self.id then s.self else car s (homeCar tid)

def tidValue (s : State) (sel slot tid : Nat) : Nat :=
  match sel with
  | 0 => homeIdx tid
  | 1 => (homeOf s tid).index
  | 2 => (homeOf s tid).index * widthOf s.self + homeIdx tid
  | 3 => slot
  | _ => slot % 32
def execVtid (i : IntI) (s : State) : Out :=
  vecOp i.h [(i.h.d, 1)] [] s
    (fun s => setV s i.h (fun slot tid => BitVec.ofNat 32 (tidValue s i.sub.toNat slot tid)))

/-- The source slot of VSHFL (08 R145): segment width g, slot t, amount x. -/
def shflSlot (mode g t x : Nat) : Nat :=
  let o := t - t % g
  match mode with
  | 0 => o + x % g
  | 1 => if o + x ≤ t then t - x else t
  | 2 => if t + x < o + g then t + x else t
  | _ => o + (t ^^^ x) % g
def segWidth (seg w : Nat) : Nat := if seg = 0 then w else min (2 ^ seg) w
/-- v[a] of a source slot; a slot with no live thread yields 0. -/
def slotValue (s : State) (a : OpField) (slot : Nat) : Word :=
  match s.self.slots[slot]? with
  | some (t + 1) => if isLive s t then opV s a t else 0
  | _ => 0
/-- The slot an active thread reads from. -/
def shflFrom (i : IntI) (s : State) (slot tid : Nat) : Nat :=
  shflSlot i.sub.toNat (segWidth i.low.toNat (widthOf s.self)) slot (vecB i s tid).toNat
/-- A source slot holds a live thread with a poisoned element (24 R383). -/
def slotBad (s : State) (a : OpField) (slot : Nat) : Bool :=
  match s.self.slots[slot]? with
  | some (t + 1) => isLive s t && threadBad s [(a, 1)] t
  | _ => false
/-- Poisoned sources of VSHFL: B of the active threads, uniforms, and v[a] of the slots read. -/
def shflPoison (i : IntI) (s : State) : Option Nat :=
  match poisonSlot s i.h (if isS i.h.a then (i.h.a, 1) :: useB i 1 else useB i 1) with
  | some t => some t
  | none => ((active s i.h).map (fun st => shflFrom i s st.1 st.2)).find? (fun x => slotBad s i.h.a x)
def execVshfl (i : IntI) (s : State) : Out :=
  vecOpWith ((i.h.d, 1) :: (i.h.a, 1) :: useB i 1) (shflPoison i s) s
    (fun s => setV s i.h (fun slot tid => slotValue s i.h.a (shflFrom i s slot tid)))

/-- The identity and the step of a reduction kind (08 R146). -/
def redIdent (kind : Nat) (u : Bool) (w : Nat) : BitVec w :=
  match kind with
  | 1 => BitVec.ofInt w (hiLim u w)
  | 2 => BitVec.ofInt w (loLim u w)
  | 3 => BitVec.allOnes w
  | _ => 0
def redStep (kind : Nat) (sat u : Bool) {w : Nat} (acc x : BitVec w) : BitVec w :=
  match kind with
  | 0 => addOp sat u acc x
  | 1 => minOp u acc x
  | 2 => maxOp u acc x
  | 3 => acc &&& x
  | 4 => acc ||| x
  | _ => acc ^^^ x

/-- The scan over values in slot order: each thread's own result. -/
def scanList (kind : Nat) (sat u excl : Bool) : Word → List Word → List Word
  | _, [] => []
  | acc, x :: r =>
    let next := redStep kind sat u acc x
    (if excl then acc else next) :: scanList kind sat u excl next r
def execVscan (i : IntI) (s : State) : Out :=
  vecOp i.h [(i.h.d, 1), (i.h.a, 1)] [(i.h.a, 1)] s (fun s =>
    let act := active s i.h
    let k := i.sub.toNat
    let outs := scanList k i.sat i.u (i.low == 1) (redIdent k i.u 32) (act.map (fun st => opV s i.h.a st.2))
    wvAll s ((act.map (fun st => vKey st.2 i.h.d.toNat)).zip outs))

/-- COUNT and FIRST of VPRED (08 R147). -/
def predCount (s : State) (h : Head) : DWord :=
  BitVec.ofNat 64 ((active s h).filter (fun st => rp s st.2 h.a.toNat)).length
def predFirst (s : State) (h : Head) : DWord :=
  match (active s h).find? (fun st => rp s st.2 h.a.toNat) with
  | some st => BitVec.ofNat 64 st.1
  | none => 0xFFFFFFFFFFFFFFFF#64
/-- The Boolean forms of VPRED. -/
def predOp (sub : Nat) (a b : Bool) : Bool :=
  match sub with
  | 0 => a && b
  | 1 => a || b
  | 2 => a != b
  | _ => a && !b
def execVpred (i : IntI) (s : State) : Out :=
  match i.sub.toNat with
  | 4 => vecOp i.h [(i.h.a, 1)] [(i.h.a, 1)] s (fun s => setP s i.h (fun _ tid => opV s i.h.a tid != 0))
  | 5 => vecOp i.h [(i.h.d, 1)] [] s (fun s =>
      setV s i.h (fun _ tid => BitVec.ofNat 32 (b2n (rp s tid i.h.a.toNat))))
  | 6 => vecOp i.h [] [] s (fun s => ws s i.h.d (predCount s i.h))
  | 7 => vecOp i.h [] [] s (fun s => ws s i.h.d (predFirst s i.h))
  | n => vecOp i.h [] [] s (fun s =>
      setP s i.h (fun _ tid => predOp n (rp s tid i.h.a.toNat) (rp s tid i.h.b.toNat)))

/-- The exact reduction of values (08 R148): SAT clamps the exact sum once. With no value, MIN and MAX of W64 give the limit
of the 64-bit range where R146 names that of the 32-bit one (DEDUCED, log 101). -/
def reduceOp (kind : Nat) (sat u : Bool) {w : Nat} (xs : List (BitVec w)) : BitVec w :=
  if kind = 0 then narrowI sat u w (xs.foldl (fun acc x => acc + intOf u x) 0)
  else xs.foldl (redStep kind false u) (redIdent kind u w)
def execVrds (i : IntI) (s : State) : Out :=
  let n := if i.low = 1 then 2 else 1
  vecOp i.h [(i.h.a, n)] [(i.h.a, n)] s (fun s =>
    let k := i.sub.toNat
    if i.low = 1 then ws s i.h.d (reduceOp k i.sat i.u ((active s i.h).map (fun st => opV64 s i.h.a st.2)))
    else
      let r := reduceOp k i.sat i.u ((active s i.h).map (fun st => opV s i.h.a st.2))
      ws s i.h.d (if i.u then r.setWidth 64 else r.signExtend 64))

end Sys2Proof.Machine
end

