-- ==== Sys2Proof/Machine/Diverge.lean ====
section
/-! DEFINITION. Divergence: DBR, JOIN, the regrouping of threads into path carriages and their reconvergence
(18 R293-R300, 21 R335, R336). -/
namespace Sys2Proof.Machine

/-! ## DBR and JOIN reach their address and wait -/

/-- JOFS: MOD[9:0] × 2,048 + B, unsigned (21 R335). -/
def jofs (i : BrI) : Nat := i.mod.toNat * 2048 + i.h.b.toNat

def execDbr (i : BrI) (s : State) : Out :=
  .next (onSelf s (fun c => { c with
    wait := .dbr i.h.a.toNat (branchTo s i.bofs) (c.pc + BitVec.ofNat 64 (12 * jofs i)) }))

/-- A path carriage parks at its JOIN; any other JOIN is a mismatch (18 R299). -/
def execJoin (_ : RrrI) (s : State) : Out :=
  .next (
    match recon? s s.self.coach (pathEntry s.self) with
    | none => trapC s .joinMismatch
    | some r =>
      if !inRegion s.self || r.joinAddr != s.self.pc then trapC s .joinMismatch
      else onSelf s (fun c => { c with wait := .parked }))

/-! ## Concerned carriages (18 R293) -/

def hasLive (s : State) (c : Carriage) : Bool := (liveOf s c).length != 0

/-- Carriages a DBR of `c` concerns: those of its path, or of its coach; a spawned carriage or an instance alone. -/
def concerned (s : State) (c : Carriage) : List Carriage :=
  (cars s).filter (fun d =>
    d.coach == c.coach && hasLive s d && d.wait != .exited && d.wait != .saved &&
      (if c.spinst ≠ 0 && !inRegion c then d.id == c.id
       else if inRegion c then
        d.kind == .path && inRegion d && pathEntry d == pathEntry c && pathNo d == pathNo c &&
          (match d.wait with
           | .regrouped _ => false
           | _ => true)
       else if c.kind == .spawned then d.id == c.id
       else d.kind == .home))

/-- A path carriage of the same path that is not formed yet holds live threads. -/
def awaitsForming (s : State) (c : Carriage) : Bool :=
  inRegion c &&
    match recon? s c.coach (pathEntry c) with
    | none => false
    | some r => r.deferred.any (fun d => d.path == pathNo c && (slotsFrom 0 d.slots).any (fun st => isLive s st.2))

def isDbr (c : Carriage) : Bool :=
  match c.wait with
  | .dbr _ _ _ => true
  | _ => false
def isWideBar (c : Carriage) : Bool :=
  match c.wait with
  | .bar _ => true
  | _ => false
/-- Its barrier is complete: it waits no longer, and goes on (21 R342). -/
def barOver (s : State) (c : Carriage) : Bool :=
  match c.wait with
  | .bar 1 => barFull s c.coach (some c.core)
  | .bar _ => barFull s c.coach none
  | _ => false

/-- Each waiting DBR raises its trap (18 R293, 21 R335). -/
def dbrTrapAll (s : State) (cs : List Carriage) (cause : Cause) : State :=
  (cs.filter isDbr).foldl (fun s c =>
    let s := focus s c.id
    trapC (onSelf s (fun c => { c with wait := .run })) cause) s

/-! ## Regrouping (18 R294) -/

/-- A live thread with the carriage that holds it now and its path. -/
structure Grouped where
  tid : Nat
  holder : Nat
  lane : Nat
  path : Nat
  deriving DecidableEq, Repr

def dbrPred (c : Carriage) : Nat :=
  match c.wait with
  | .dbr p _ _ => p
  | _ => 0

/-- The live threads of concerned carriages on a core, in ascending (home carriage index, home index) order. -/
def groupThreads (s : State) (cs : List Carriage) (core : Nat) : List Grouped :=
  let raw := (cs.filter (fun c => c.core == core)).flatMap (fun c =>
    (liveOf s c).map (fun st =>
      { tid := st.2, holder := c.id, lane := st.1 % 32, path := if rp s st.2 (dbrPred c) then 0 else 1 : Grouped }))
  let rank (g : Grouped) : Nat := (homeOf s g.tid).index * 128 + homeIdx g.tid
  sortBy (fun a b => rank a ≤ rank b) raw

/-- T_l of a path: one lane's list. -/
def laneList (gs : List Grouped) (path lane : Nat) : List Grouped :=
  gs.filter (fun g => g.path == path && g.lane == lane)

/-- The slots of path carriage `j`: slot t holds T_l[j × q + t div 32]. -/
def pathSlots (gs : List Grouped) (path q w j : Nat) : List (Option Grouped) :=
  (span 0 w).map (fun t => (laneList gs path (t % 32))[j * q + t / 32]?)

/-- ⌈max over lanes ÷ q⌉ carriages. -/
def pathCount (gs : List Grouped) (path q : Nat) : Nat :=
  ceilDiv (maxNat ((span 0 32).map (fun l => (laneList gs path l).length))) q

def slotCode (g : Option Grouped) : Nat :=
  match g with
  | some g => g.tid + 1
  | none => 0
/-- The lead: the holder of the thread in the lowest occupied slot (18 R297). -/
def leadOf (xs : List (Option Grouped)) : Nat :=
  match xs.filterMap id with
  | g :: _ => g.holder
  | [] => 0

/-- PATHIX (02 R32, 18 R297). -/
def pathixOf (entry path number : Nat) : BitVec 32 :=
  BitVec.ofNat 32 (2 ^ 20 + entry % 16 * 2 ^ 16 + path % 2 * 2 ^ 15 + number % 2 ^ 15)

/-- A path carriage at its start: the uniform state that its lead held at the DBR (18 R297). -/
def formPath (lead : Carriage) (id slot entry : Nat) (d : Deferred) : Carriage :=
  { lead with
    s := d.s, sPoison := d.sPoison
    id := id, kind := .path, slot := slot, core := d.core, slots := d.slots, pc := d.start
    ast := lead.ast &&& 0x60#64, pathix := pathixOf entry d.path d.number, q := [], qClosed := 0xFF, ap := none
    wait := .run, spin := Spin.reset, lead := lead.id, entry := entry, halted := false, wlog := [] }

/-! ## Carriage slots (17 R286, 18 R296) -/

/-- A carriage that occupies its slot: one that has exited, or has parked, does not (18 R296, 21 R337). -/
def holdsSlot (c : Carriage) : Bool :=
  match c.wait with
  | .exited => false
  | .parked => false
  | .saved => false
  | _ => true
def takenSlots (s : State) (core : Nat) : List Nat :=
  ((cars s).filter (fun c => c.core == core && holdsSlot c)).map (fun c => c.slot)

/-- Slots a coach has on a core that its carriages do not hold: max(1, SPEC) for each carriage of its own (17 R286, 20
R320). -/
def reservedOf (s : State) (k : Coach) (core : Nat) : Nat :=
  let mine := (cars s).filter (fun c => c.coach == k.id && c.core == core && holdsSlot c)
  (mine.filter (fun c => c.kind == .home)).length * max 1 k.rcd.spec - (nubNat (mine.map (fun c => c.slot))).length
def reservedExtra (s : State) (core : Nat) : Nat :=
  sumNat ((s.coaches.filter (fun k => !k.spawn)).map (fun k => reservedOf s k core))
/-- Carriage slots in use or reserved. A regrouped carriage and its path carriages share the slots of its coach. -/
def slotsUsed (s : State) (core : Nat) : Nat := (nubNat (takenSlots s core)).length + reservedExtra s core
/-- CARRSLOTS (02 R39). -/
def carrSlots (s : State) (core : Nat) : Nat := field (rcore s core 0x410) 10 5

/-- A carriage whose threads stand in path carriages: its slot is its coach's to use. -/
def slotIdle (c : Carriage) : Bool :=
  match c.wait with
  | .regrouped _ => true
  | _ => false
/-- Slot numbers path carriages of a coach may take: those of its regrouped carriages on the core and those it has beside
them, then any free one (18 R296). -/
def pathSlotPool (s : State) (coach core : Nat) : List Nat :=
  let here := (cars s).filter (fun c => c.core == core && holdsSlot c)
  let busy := (here.filter (fun c => !(c.coach == coach && slotIdle c))).map (fun c => c.slot)
  let own := nubNat ((here.filter (fun c => c.coach == coach && slotIdle c)).map (fun c => c.slot))
  let reserved := ((coach? s coach).map (fun k => if k.spawn then 0 else reservedOf s k core)).getD 0
  let spare := carrSlots s core - slotsUsed s core
  own.filter (fun n => !busy.contains n) ++
    ((span 0 (carrSlots s core)).filter (fun n => !(takenSlots s core).contains n)).take (reserved + spare)

/-- Form the deferred path carriages of an entry for which slots are free, in order. -/
def formSome (s : State) (coach : Nat) (r : Recon) (ds : List Deferred) : State :=
  ds.foldl (fun s d =>
    match pathSlotPool s coach d.core with
    | [] => s
    | slot :: _ =>
      let n := newId s
      let k := formPath (car s d.lead) n.1 slot r.idx d
      let s := onCoach n.2 coach (fun c => { c with recons := c.recons.map (fun x =>
        if x.idx = r.idx then { x with deferred := x.deferred.filter (fun y => y.id != d.id) } else x) })
      { shareBefore s r.members [n.1] with rest := s.rest ++ [k] }) s

/-- Allocate the entry, park the concerned carriages under it and form the path carriages (18 R294-R298). -/
def regroup (s : State) (c : Carriage) (cs : List Carriage) (taken join : DWord) (entry : Nat) : State :=
  let w := widthOf c
  let q := max 1 (w / 32)
  let cores := nubNat (cs.map (fun d => d.core))
  let plan : List Deferred := cores.flatMap (fun core =>
    let gs := groupThreads s cs core
    [0, 1].flatMap (fun path =>
      (span 0 (pathCount gs path q)).map (fun j =>
        let xs := pathSlots gs path q w j
        { id := (core * 2 + path) * 2 ^ 16 + j, path := path, number := j, core := core
          slots := xs.map slotCode, lead := leadOf xs, s := (car s (leadOf xs)).s, sPoison := (car s (leadOf xs)).sPoison
          start := if path = 0 then taken else c.pc + 12 : Deferred })))
  let r : Recon :=
    { idx := entry, joinAddr := join, dbrAddr := c.pc, members := cs.map (fun d => d.id), deferred := plan
      parent := if inRegion c then some (pathEntry c, pathNo c) else none }
  let ids := cs.map (fun d => d.id)
  let s := onCoach s c.coach (fun k => { k with recons := k.recons ++ [r] })
  let s := mapCars s (fun d => if ids.contains d.id then { d with wait := .regrouped entry } else d)
  formSome s c.coach r plan

/-- Once every live concerned carriage waits, and its local accesses are performed (log 86): regroup, or raise DBR_MISMATCH or STACK_OVERFLOW (18 R293, R298). -/
def execDbrRegroup (cid : Nat) (s : State) : Out :=
  .next (
    match car? s cid with
    | none => s
    | some c =>
      match c.wait with
      | .dbr _ taken join =>
        let cs := concerned s c
        if awaitsForming s c || !cs.all (fun d => isDbr d || isWideBar d) || cs.any (barOver s) || waiting s (cs.map (fun d => d.id)) then s
        else if cs.any isWideBar || cs.any (fun d => d.pc != c.pc) then dbrTrapAll s cs .dbrMismatch
        else
          match coach? s c.coach with
          | none => s
          | some k =>
            let free' := (span 0 16).filter (fun e => !k.recons.any (fun r => r.idx == e))
            match free'[free s 2 % free'.length]? with
            | none => dbrTrapAll s cs .stackOverflow
            | some e => regroup s c cs taken join e
      | _ => s)

/-- A deferred path carriage is formed when a slot has freed. `path` is its number in its coach's entries: coach and
entry in the high part. -/
def execPathCarriageForm (path : Nat) (s : State) : Out :=
  let coach := path / 2 ^ 32
  let entry := path / 2 ^ 28 % 16
  .next (
    match recon? s coach entry with
    | none => s
    | some r => formSome s coach r (r.deferred.filter (fun d => d.id == path % 2 ^ 28)))

/-! ## Reconvergence (18 R298, R299) -/

/-- Every carriage of a path has parked or holds no live thread. -/
def pathArrived (s : State) (coach : Nat) (r : Recon) (path : Nat) : Bool :=
  ((cars s).filter (fun c =>
    c.coach == coach && c.kind == .path && inRegion c && pathEntry c == r.idx && pathNo c == path)).all
      (fun c => c.wait == .parked || !hasLive s c) &&
    (r.deferred.filter (fun d => d.path == path)).all (fun d =>
      (slotsFrom 0 d.slots).all (fun st => !isLive s st.2))

/-- AST flags of the path carriages that held threads of a carriage. -/
def pathFlags (paths : List Carriage) (c : Carriage) : DWord :=
  (paths.filter (fun p => p.slots.any (fun t => t != 0 && c.slots.contains t))).foldl
    (fun acc p => acc ||| (p.ast &&& 0x1F#64)) 0

/-- No entry opened inside a region of this one is still held. -/
def innermost (s : State) (coach entry : Nat) : Bool :=
  match coach? s coach with
  | none => true
  | some k => !k.recons.any (fun r =>
      match r.parent with
      | some p => p.1 == entry
      | none => false)

/-- The handles of carriages that go, but for those that a carriage which stays holds too. -/
def keptHandles (stay gone : List Carriage) : List HandleView :=
  (gone.flatMap (fun c => (span 0 16).map (handleOf c))).filter (fun v =>
    v.tok != 0 && !stay.any (fun c => cget c.hTok (tokH v.tok) == v.tok))

/-- The entry is freed and the parent grouping goes on at JOIN + 12, once the accesses of its paths are performed at COACH
scope (12 R204); a carriage with no live thread has exited. -/
def execJoinReconverge (coach entry : Nat) (s : State) : Out :=
  .next (
    match recon? s coach entry with
    | none => s
    | some r =>
      let isOld (c : Carriage) : Bool :=
        c.coach == coach && c.kind == .path && inRegion c && pathEntry c == entry && !r.members.contains c.id
      let ids := ((cars s).filter (fun c => isOld c || r.members.contains c.id)).map (fun c => c.id)
      if pathArrived s coach r 0 && pathArrived s coach r 1 && innermost s coach entry && !waiting s ids && !unseen s ids 3 then
        let s := shareBefore s ids (((cars s).filter (fun c => c.coach == coach)).map (fun c => c.id))
        let paths := (cars s).filter isOld
        let kept := keptHandles ((cars s).filter (fun c => c.coach == coach && !isOld c)) (paths.filter (fun c => !hasLive s c))
        let s := onCoach s coach (fun k => { k with recons := k.recons.filter (fun x => x.idx != entry), kept := kept ++ k.kept })
        let s := mapCars s (fun c =>
          if r.members.contains c.id then
            { c with
              wait := if hasLive s c then .run else .exited
              pc := r.joinAddr + 12, ast := c.ast ||| pathFlags paths c }
          else c)
        { s with
          self := if isOld s.self then Carriage.none else s.self
          rest := s.rest.filter (fun c => !isOld c) }
      else s)

end Sys2Proof.Machine
end

