-- ==== Sys2Proof/Machine/Launch.lean ====
section
/-! DEFINITION. Launch records, the dispatcher, placement of coaches and carriages, retirement and successors
(17 R281-R292, 19 R305-R311, 02 R24). -/
namespace Sys2Proof.Machine

/-! ## The record (17 R281, R282) -/

/-- Entry e of the dependences, 16 bytes. -/
def depOf (bs : List Byte) : Dep :=
  { lid := leBits 64 (bs.take 8), imm := leAt bs 8 4, kind := nbits (leAt bs 12 1) 6 2, ctr := nbits (leAt bs 12 1) 0 3
    coach := leAt bs 13 3 }
/-- Bits a kind does not use are 0 (17 R282). -/
def depOk (bs : List Byte) : Bool :=
  let d := depOf bs
  nbits (leAt bs 12 1) 3 3 == 0 &&
    (match d.kind with
     | 0 => d.lid == 0 && d.imm == 0 && d.ctr == 0 && d.coach == 0
     | 1 => true
     | 2 => d.imm == 0 && d.ctr == 0 && d.coach == 0
     | _ => false)

def recOf (bs : List Byte) : LaunchRec :=
  let shape := leAt bs 0x20 1
  let carr := leAt bs 0x21 1
  let flags := leAt bs 0x27 1
  { entry := leBits 64 (bs.take 8), argp := leBits 64 ((bs.drop 8).take 8), apentry := leBits 64 ((bs.drop 16).take 8)
    coaches := leAt bs 0x18 4, x0 := leAt bs 0x1C 1, y0 := leAt bs 0x1D 1, wid := leAt bs 0x1E 1, hgt := leAt bs 0x1F 1
    a := nbits shape 0 3, b := nbits shape 3 2, width := 32 * 2 ^ nbits carr 0 2, n := nbits carr 2 4 + 1
    nreg := nbits (leAt bs 0x22 2) 0 11, accs := leAt bs 0x24 1, carve := nbits (leAt bs 0x25 1) 0 3
    spec := nbits (leAt bs 0x26 1) 0 4, prio := nbits flags 0 3, heavy := bitN flags 3, sok := bitN flags 4
    spill := leAt bs 0x28 4, space := BitVec.ofNat 16 (leAt bs 0x2C 2), world := bitN (leAt bs 0x2E 1) 0
    twin := nbits (leAt bs 0x2F 1) 0 5
    deps := (span 0 4).map (fun e => depOf ((bs.drop (0x40 + 16 * e)).take 16)) }

def specWays (r : LaunchRec) : Nat := max 1 r.spec
/-- Cores of one coach in one quad; a tile is aligned to its shape. -/
def coresPerQuad (r : LaunchRec) : Nat := min 2 (2 ^ r.a) * min 2 (2 ^ r.b)
/-- Register bytes a coach asks of a core (17 R283, R286). -/
def regDemand (r : LaunchRec) : Nat := r.width * r.n * r.nreg * 4 * specWays r

/-- The fields a successor takes from its record are within their limits (17 R283, R291). -/
def recFieldsOk (bs : List Byte) : Bool :=
  let r := recOf bs
  r.apentry.toNat % 4 == 0 && r.a ≤ 4 && r.b ≤ 3 && nbits (leAt bs 0x20 1) 5 3 == 0 &&
    nbits (leAt bs 0x21 1) 0 2 != 3 && nbits (leAt bs 0x21 1) 6 2 == 0 &&
    r.nreg % 32 == 0 && 32 ≤ r.nreg && r.nreg ≤ 1536 && nbits (leAt bs 0x22 2) 11 5 == 0 &&
    r.accs ≤ 32 && nbits (leAt bs 0x25 1) 3 5 == 0 &&
    (r.spec == 0 || (2 ≤ r.spec && r.spec ≤ 8)) && nbits (leAt bs 0x26 1) 4 4 == 0 &&
    nbits (leAt bs 0x27 1) 5 3 == 0 && r.spill % 16 == 0 && r.spill ≤ 65536 &&
    leAt bs 0x30 16 == 0 &&
    2 ^ (r.a + r.b) * r.n * r.width ≤ 32768 && regDemand r ≤ 786432 &&
    (r.spec == 0 || (r.a + r.b == 0 && r.n == 1)) && r.accs * r.n * specWays r * coresPerQuad r ≤ 48

/-- The record is well formed for a world (17 R283). -/
def recOk (bs : List Byte) (world : Bool) : Bool :=
  let r := recOf bs
  recFieldsOk bs && 1 ≤ r.coaches && r.coaches ≤ 2 ^ 24 && r.x0 ≤ 15 && r.y0 ≤ 7 && 1 ≤ r.wid && r.wid ≤ 16 &&
    1 ≤ r.hgt && r.hgt ≤ 8 && r.carve ≤ 4 && nbits (leAt bs 0x2E 1) 1 7 == 0 && r.twin ≤ 16 &&
    nbits (leAt bs 0x2F 1) 5 3 == 0 &&
    (span 0 4).all (fun e => depOk ((bs.drop (0x40 + 16 * e)).take 16)) &&
    r.x0 + r.wid ≤ 16 && r.y0 + r.hgt ≤ 8 && !(r.x0 < 8 && 8 < r.x0 + r.wid && r.hgt < 8) &&
    r.x0 % 2 ^ r.a == 0 && r.wid % 2 ^ r.a == 0 && r.y0 % 2 ^ r.b == 0 && r.hgt % 2 ^ r.b == 0 && r.world == world

/-! ## Tiles and core ranks (17 R285) -/

def tilesAcross (r : LaunchRec) : Nat := r.wid / 2 ^ r.a
def tileCount' (r : LaunchRec) : Nat := tilesAcross r * (r.hgt / 2 ^ r.b)
/-- The lower-left core of coach i's tile. -/
def tileXY (r : LaunchRec) (i : Nat) : Nat × Nat :=
  let u := i % max 1 (tileCount' r)
  (r.x0 + 2 ^ r.a * (u % max 1 (tilesAcross r)), r.y0 + 2 ^ r.b * (u / max 1 (tilesAcross r)))
/-- The cores of a tile, row-major, x fastest. -/
def tileCores (a b x y : Nat) : List Nat :=
  (span 0 (2 ^ b)).flatMap (fun dy => (span 0 (2 ^ a)).map (fun dx => x + dx + 16 * (y + dy)))
def coachCores (k : Coach) : List Nat := tileCores k.rcd.a k.rcd.b k.x k.y

/-! ## Resources of cores, quads and dies (17 R286) -/

/-- Coaches resident on a core. -/
def resident (s : State) (core : Nat) : List Coach :=
  s.coaches.filter (fun k => !k.spawn && !k.saved && (coachCores k).contains core)
def spawnedOn (s : State) (core : Nat) : List Carriage :=
  (cars s).filter (fun c => c.kind == .spawned && c.core == core && c.wait != .exited)
/-- Carriages a resident coach holds room for on each core: one that waits for its successor holds none (17 R288,
R292). -/
def carsHeld (k : Coach) : Nat := if k.waiting then 0 else k.rcd.n
/-- Register bytes taken on a core. -/
def regsUsed (s : State) (core : Nat) : Nat :=
  sumNat ((resident s core).map (fun k => regDemand { k.rcd with n := carsHeld k })) +
    sumNat ((spawnedOn s core).map (fun c => widthOf c * c.nreg * 4))
/-- Slots of a quad's accumulator store taken. -/
def accsUsed (s : State) (quad : Nat) : Nat :=
  sumNat ((quadCores quad).map (fun core =>
    sumNat ((resident s core).map (fun k => k.rcd.accs * carsHeld k * specWays k.rcd))))
/-- Slot numbers that names are bound to on a quad (02 R33, R34). -/
def accSlotsOf (s : State) (c : Carriage) : List Nat :=
  (span 0 c.accs).map (fun a => field (cget s.accSt (c.id * 32 + a)) 24 6)
def accSlotsTaken (s : State) (quad : Nat) : List Nat :=
  ((cars s).filter (fun c => quadOf c.core == quad && (c.kind == .home || c.kind == .inst) && c.wait != .saved)).flatMap (accSlotsOf s)

/-- Spill regions taken on a die: base and bytes. -/
def spillTaken (s : State) (die : Nat) : List (Nat × Nat) :=
  ((cars s).filter (fun c => dieOf c.core == die && c.spillBytes != 0 && c.wait != .saved &&
      (c.kind == .home || c.kind == .spawned) && (c.kind == .home || c.wait != .exited))).map (fun c =>
    let ways := match coach? s c.coach with
      | some k => if k.spawn then 1 else specWays k.rcd
      | none => 1
    (c.spillBlock, widthOf c * c.spillBytes * ways))
/-- The lowest base at which `need` bytes fit between the taken regions. -/
def spillFit (taken : List (Nat × Nat)) (need : Nat) : Option Nat :=
  let cands := Config.spillLo :: taken.map (fun r => alignUp (r.1 + r.2) 128)
  let fits (b : Nat) : Bool :=
    Config.spillLo ≤ b && b + need ≤ Config.spillHi && taken.all (fun r => r.1 + r.2 ≤ b || b + need ≤ r.1)
  (sortBy (fun a b => a ≤ b) (cands.filter fits)).head?
/-- Bases for many regions, one after another. -/
def spillFits (taken : List (Nat × Nat)) (need : Nat) : Nat → Option (List Nat)
  | 0 => some []
  | n + 1 =>
    match spillFit taken need with
    | none => none
    | some b =>
      match spillFits ((b, need) :: taken) need n with
      | none => none
      | some bs => some (b :: bs)

/-- The window a launch holds on a quad. -/
def window? (s : State) (launch quad : Nat) : Option TileWin :=
  s.windows.find? (fun w => w.launch == launch && w.quad == quad)
/-- Bases where `units` contiguous 4 KiB units of a quad's slices are free. -/
def windowBases (s : State) (quad units : Nat) : List Nat :=
  (span 0 (17 - min units 16)).filter (fun b => (s.windows.filter (fun w => w.quad == quad)).all (fun w =>
    w.base + w.units ≤ b || b + units ≤ w.base))

def coreWorld (s : State) (core : Nat) : Bool := (rsys s 0 5 0).getLsbD (quadOf core)

/-- Every condition of R286 for a coach of a record on a tile, but for the coach slot and shared memory when the
coach already holds them (a successor, R292). -/
def tileTakes (s : State) (r : LaunchRec) (demand launch x y : Nat) (held : Bool) : Bool :=
  let cores := tileCores r.a r.b x y
  let dies := nubNat (cores.map dieOf)
  cores.all (fun core =>
    ready s core &&
      (held || (resident s core).length < min 4 (field (rcore s core 0x410) 15 3)) &&
      slotsUsed s core + r.n * specWays r ≤ carrSlots s core &&
      regsUsed s core + demand ≤ vrcap s core &&
      (resident s core).all (fun k => k.rcd.carve == r.carve) &&
      (held || ((resident s core).length + 1) * carveBytes r.carve ≤ 1048576 - 131072) &&
      accsUsed s (quadOf core) + r.accs * r.n * specWays r *
        (cores.filter (fun c => quadOf c == quadOf core)).length ≤ 48 &&
      ((window? s launch (quadOf core)).isSome || r.twin == 0 || !(windowBases s (quadOf core) r.twin).isEmpty) &&
      coreWorld s core == r.world) &&
  dies.all (fun d =>
    (spillFits (spillTaken s d) (r.width * r.spill * specWays r)
      ((cores.filter (fun c => dieOf c == d)).length * r.n)).isSome)
def tileFits (s : State) (r : LaunchRec) (launch x y : Nat) (held : Bool) : Bool := tileTakes s r (regDemand r) launch x y held

/-! ## Starting carriages (02 R24) -/

/-- The state word of a bound name: a SUM tile of FP32 zeros, its flags clear (02 R24, R34). -/
def accReset (slot : Nat) : DWord := BitVec.ofNat 64 (2 ^ 31 + slot % 64 * 2 ^ 24)

/-- An access-processor context at its start (14 R241). -/
def apStart (r : LaunchRec) (index : Nat) : Option ApCtx :=
  if r.apentry = 0 then none
  else some { ApCtx.none with
    s := cset (cset [] 1 r.argp) 3 (BitVec.ofNat 64 index), pc := r.apentry, running := true }

/-- A new carriage of a coach: registers by R24. -/
def newCarriage (r : LaunchRec) (id coach launch core slot index coachIx age spillBase threads : Nat) : Carriage :=
  { Carriage.none with
    id := id, kind := .home, coach := coach, launch := launch, core := core, slot := slot, index := index
    slots := (span 0 r.width).map (fun t => if t < threads then id * 128 + t + 1 else 0)
    nreg := r.nreg, accs := r.accs, spillBytes := r.spill, spillBase := spillBase, spillBlock := spillBase, prio := r.prio
    world := r.world, space := r.space, pc := r.entry
    s := cset (cset (cset [] 1 r.argp) 2 (BitVec.ofNat 64 coachIx)) 3 (BitVec.ofNat 64 index)
    qClosed := if r.apentry = 0 then 0xFF else 0, ap := apStart r index, wait := .run, age := age, tie := index }

/-- Bind accumulator names to slots. -/
def bindAccs (s : State) (cid : Nat) (slots : List Nat) : State :=
  { s with accSt := csetAll s.accSt ((span 0 slots.length).zip slots |>.map (fun p => (cid * 32 + p.1, accReset p.2))) }
/-- Threads of a carriage become live. -/
def liveAll (s : State) (cid threads : Nat) : State :=
  { s with live := csetAll s.live ((span 0 threads).map (fun t => (cid * 128 + t, 1))) }

/-- Start one carriage on a core: a free slot number, free accumulator slots, a spill region. Which of the free
numbers is not given: a free choice. -/
def startCarriage (s : State) (r : LaunchRec) (coach launch core index coachIx : Nat) : State :=
  let n := newId s
  let id := n.1
  let slots := (span 0 (carrSlots s core)).filter (fun x => !(takenSlots s core).contains x)
  let slot := (slots[free s (0x300 + index) % slots.length]?).getD 0
  let accFree := (span 0 48).filter (fun x => !(accSlotsTaken s (quadOf core)).contains x)
  let accs := (reorder (fun i => free s (0x10000 + 64 * index + i)) accFree.length accFree).take r.accs
  let base := (spillFit (spillTaken s (dieOf core)) (r.width * r.spill * specWays r)).getD 0
  let c := newCarriage r id coach launch core slot index coachIx s.cyc base r.width
  liveAll (bindAccs { n.2 with rest := n.2.rest ++ [c] } id accs) id r.width

/-- A tag that no resident coach holds (21 R338). -/
def freshCtag (s : State) : Nat :=
  let taken := s.coaches.map (fun k => k.ctag)
  let base := free s 3
  let cands := ((span 0 (taken.length + 1)).map (fun i => (base + i) % (2 ^ 20 - 1) + 1)).filter
    (fun t => !taken.contains t)
  cands.headD 1

/-- Windows for the quads of a tile (17 R287): the base among the free ones is a free choice. -/
def openWindows (s : State) (launch : Nat) (r : LaunchRec) (cores : List Nat) : State :=
  (nubNat (cores.map quadOf)).foldl (fun s q =>
    if r.twin = 0 || (window? s launch q).isSome then s
    else
      let bases := windowBases s q r.twin
      let n := newId s
      let w : TileWin :=
        { gen := n.1, launch := launch, quad := q, base := (bases[free s (0x400 + q) % bases.length]?).getD 0
          units := r.twin }
      { n.2 with windows := n.2.windows ++ [w] }) s

/-- The carriages of a coach, in carriage-index order. -/
def startAll (s : State) (r : LaunchRec) (coach launch coachIx : Nat) (cores : List Nat) : State :=
  ((span 0 cores.length).zip cores).foldl (fun s rc =>
    (span 0 r.n).foldl (fun s j => startCarriage s r coach launch rc.2 (rc.1 * r.n + j) coachIx) s) s

/-- The lowest area of each core that no resident coach holds (11 R190). -/
def areaOn (s : State) (core : Nat) : List Nat :=
  (resident s core).map (fun k => ((((coachCores k).zip k.areas).find? (fun x => x.1 == core)).map (fun x => x.2)).getD 0)
def freeAreas (s : State) (cores : List Nat) : List Nat :=
  cores.map (fun c => ((span 0 5).find? (fun i => !(areaOn s c).contains i)).getD 0)

/-- A coach starts on its tile: fresh counters, n7 unbound (02 R24). -/
def startCoach (s : State) (l : Launch) (i : Nat) : State :=
  let xy := tileXY l.rcd i
  let n := newId s
  let k : Coach :=
    { id := n.1, launch := l.id, index := i, spawn := false, x := xy.1, y := xy.2, rcd := l.rcd, ctag := freshCtag s
      n7 := false, recons := [], succ := none, succNamed := [], waiting := false, stopped := false, saved := false
      arrived := 0, areas := freeAreas s (tileCores l.rcd.a l.rcd.b xy.1 xy.2), kept := [], spill := [], placed := s.cyc }
  let cores := tileCores l.rcd.a l.rcd.b xy.1 xy.2
  let s := { n.2 with coaches := n.2.coaches ++ [k] }
  startAll (openWindows s l.id l.rcd cores) l.rcd k.id l.id i cores

/-! ## Queues and acceptance (19 R305-R308, 17 R282, R284) -/

def qReg (q off : Nat) : Nat := 0x1000 + 0x40 * q + off
def rq (s : State) (world : Bool) (q off : Nat) : DWord := rsys s (wIdx world) 4 (qReg q off)
def wq (s : State) (world : Bool) (q off : Nat) (x : DWord) : State := wsys s (wIdx world) 4 (qReg q off) x
def qEn (s : State) (world : Bool) (q : Nat) : Bool := (rq s world q 8).getLsbD 0
/-- log2 of the ring: values outside 4 to 16 act as 16 (19 R306). -/
def qSz (s : State) (world : Bool) (q : Nat) : Nat :=
  let z := field (rq s world q 8) 3 5
  if 4 ≤ z ∧ z ≤ 16 then z else 16
/-- Ageing exponent: 0 disables, 1-7 act as 8. -/
def qAge (s : State) (world : Bool) (q : Nat) : Nat :=
  let a := field (rq s world q 8) 8 5
  if a = 0 then 0 else max a 8
def qHead (s : State) (world : Bool) (q : Nat) : Nat := field (rq s world q 0x10) 0 48
def qTail (s : State) (world : Bool) (q : Nat) : Nat := field (rq s world q 0x18) 0 48
def qStopped (s : State) (world : Bool) (q : Nat) : Bool := (rq s world q 0x20).getLsbD 63
/-- Stop a queue with a cause. -/
def qStop (s : State) (world : Bool) (q : Nat) (c : Cause) : State :=
  wq s world q 0x20 (BitVec.ofNat 64 (2 ^ 63 + (causeCode c).toNat * 2 ^ 48))

/-- The bytes of record number i of a queue's ring (19 R305). -/
def queueRecord (s : State) (world : Bool) (q i : Nat) : List Byte :=
  mread s (memKey .hbm Config.ownPackage ((rq s world q 0).toNat % 2 ^ 39 + 128 * (i % 2 ^ qSz s world q))) 128
/-- The head record of a queue that runs, as the dispatcher holds it. -/
def headHeld (s : State) (world : Bool) (q : Nat) : Option HeldRecord :=
  if !qEn s world q || qStopped s world q then none
  else s.records.find? (fun h => h.world == world && h.queue == q && h.num == qHead s world q)

/-- A queue that is enabled and runs stops when its tail is too far ahead (19 R308). -/
def qCheck (s : State) (world : Bool) (q : Nat) : State :=
  if qEn s world q && !qStopped s world q && 2 ^ qSz s world q + qHead s world q < qTail s world q then
    qStop s world q .queueTail
  else s
/-- The tail has passed records: what the ring holds of them is kept, since a unit rewritten afterwards is read old or
new (17 R282). -/
def holdRecords (s : State) (world : Bool) (q : Nat) : State :=
  let head := qHead s world q
  let kept := s.records.filter (fun h => h.world == world && h.queue == q && head ≤ h.num && h.num < qTail s world q)
  let num := min (qTail s world q - head) (2 ^ qSz s world q)
  let fresh := (span head num).filter (fun i => !kept.any (fun h => h.num == i))
  { s with records := s.records.filter (fun h => h.world != world || h.queue != q) ++ kept ++
      fresh.map (fun i => { world := world, queue := q, num := i, bytes := queueRecord s world q i, head := false, since := none }) }

/-- A dependence holds (17 R282). -/
def depHolds (s : State) (r : LaunchRec) (d : Dep) : Bool :=
  if d.kind = 0 then true
  else
    match s.launches.find? (fun l => l.lid == d.lid && l.accepted && l.rcd.world == r.world && l.rcd.space == r.space) with
    | none => false
    | some l =>
      if d.kind = 2 then l.done
      else if l.retiredIx.contains d.coach then true
      else match s.coaches.find? (fun k => k.launch == l.id && !k.spawn && k.index == d.coach) with
        | none => false
        | some k => d.imm ≤ (rctr s k.id d.ctr).toNat

/-- The identifier of R284. -/
def mkLid (queue : Nat) (world : Bool) (n : Nat) : DWord :=
  BitVec.ofNat 64 (queue % 256 * 2 ^ 56 + b2n world * 2 ^ 48 + n % 2 ^ 48)

/-- A launch that is known to the dispatcher. -/
def newLaunch (id : Nat) (lid : DWord) (r : LaunchRec) (accepted : Bool) (since : Option Nat) : Launch :=
  { id := id, lid := lid, rcd := r, accepted := accepted, placedAt := none, since := since, nextCoach := 0, retired := 0
    retiredIx := [], fired := [], done := false }

/-- Device launches not accepted yet, in the order they reached the dispatcher. -/
def devWaiting (s : State) : List Launch := s.launches.filter (fun l => !l.accepted)

/-- PATHIX [15:0]: a path's number, which orders device launches of one cycle (17 R290). -/
def carPath (c : Carriage) : Nat := c.pathix.toNat % 2 ^ 16
/-- The cycle of the switch die, which runs at half the clock of the cores (17 R290). -/
def switchCycle (s : State) : Nat := s.cyc / 2
/-- No launch of another core that reached the dispatcher in this cycle goes after one of this carriage (17 R290): one that
should have come before it comes in a later cycle. -/
def devTurn (s : State) (c : Carriage) : Bool :=
  s.devSeen.all (fun x => x.1 != switchCycle s || x.2.2 == c.core || x.2.1 < carPath c || (x.2.1 == carPath c && x.2.2 < c.core))
/-- A device launch of a carriage reaches the dispatcher and receives its identifier (17 R284, R290). -/
def deviceLaunch (s : State) (c : Carriage) (r : LaunchRec) : DWord × State :=
  let n := newId s
  let lid := mkLid 0xFF r.world s.devCount
  (lid, { n.2 with devCount := s.devCount + 1
                   devSeen := (switchCycle s, carPath c, c.core) :: s.devSeen.filter (fun x => x.1 == switchCycle s)
                   launches := n.2.launches ++ [newLaunch n.1 lid r false none] })

/-- The dispatcher takes a record that has reached the head: each 8-byte unit as the tail passed it or as it stands now. -/
def takeUnits (s : State) (h : HeldRecord) : List Byte :=
  let now := queueRecord s h.world h.queue h.num
  (span 0 16).flatMap (fun u =>
    if free s (0x800 + (h.queue * 2 + wIdx h.world) * 16 + u) % 2 = 0 then (h.bytes.drop (8 * u)).take 8 else (now.drop (8 * u)).take 8)
/-- Since when dependences hold: from this cycle on, unless they held before. -/
def sinceHold (s : State) (r : LaunchRec) (old : Option Nat) : Option Nat :=
  if r.deps.all (depHolds s r) then some (old.getD s.cyc) else none
/-- A head record is taken and its dependences are watched. -/
def watchHead (s : State) (h : HeldRecord) : HeldRecord :=
  if qEn s h.world h.queue && !qStopped s h.world h.queue && h.num = qHead s h.world h.queue then
    let bs := if h.head then h.bytes else takeUnits s h
    { h with bytes := bs, head := true, since := if recOk bs h.world then sinceHold s (recOf bs) h.since else none }
  else h
/-- The dispatcher watches the head records and the first device launch, at every turn. -/
def watchHeads (s : State) : State :=
  let first := ((devWaiting s).map (fun l => l.id)).head?
  { s with records := s.records.map (watchHead s)
           launches := s.launches.map (fun l =>
             if !l.accepted && first = some l.id then { l with since := sinceHold s l.rcd l.since } else l) }

/-- The head record of a queue is accepted once every dependence holds; queue 255 is the device launches. -/
def execLaunchAccept (world : Bool) (q : Nat) (s : State) : Out :=
  .next (
    if !ready s 161 then s
    else if q = 255 then
      match devWaiting s with
      | [] => s
      | l :: _ => if l.since.isSome then onLaunch s l.id (fun l => { l with accepted := true }) else s
    else match headHeld s world q with
      | none => s
      | some h =>
        if !h.head then s
        else if !recOk h.bytes world then qStop s world q .launchRecord
        else if h.since.isSome then
          let n := newId s
          let t := { n.2 with
            launches := n.2.launches ++ [newLaunch n.1 (mkLid q world h.num) (recOf h.bytes) true h.since]
            records := s.records.filter (fun x => x != h) }
          wq t world q 0x10 (BitVec.ofNat 64 ((h.num + 1) % 2 ^ 48))
        else s)

/-! ## Placement (19 R309-R311, 17 R285, R286) -/

/-- The items the dispatcher ranks beside accepted launches: head records whose dependences hold, as launches that are
not accepted (19 R309). A queue's next launch has its number still to come. -/
def waitingHeads (s : State) : List Launch :=
  (s.records.filter (fun h => h.head && h.since.isSome && headHeld s h.world h.queue == some h)).map (fun h =>
    newLaunch s.nextId (mkLid h.queue h.world h.num) (recOf h.bytes) false h.since) ++
  ((devWaiting s).take 1).filter (fun l => l.since.isSome)

/-- Effective priority of an eligible head record or of an accepted launch with unplaced coaches (19 R309). -/
def launchPrio (s : State) (l : Launch) : Nat :=
  let q := field l.lid 56 8
  let a := if q = 255 then 0 else qAge s l.rcd.world q
  if a = 0 then l.rcd.prio else min 7 (l.rcd.prio + (s.cyc - l.since.getD s.cyc) / 2 ^ a)
def unplaced (l : Launch) : Bool := l.accepted && l.nextCoach < l.rcd.coaches
/-- A launch is older by the cycle of its eligibility; in one cycle device launches come first, then the lower queue
number and the lower record number. -/
def older (a b : Launch) : Bool :=
  let x := a.since.getD 0
  let y := b.since.getD 0
  x < y || (x == y && b.lid.toNat < a.lid.toNat && field a.lid 56 8 == 255 && field b.lid 56 8 != 255) ||
    (x == y && a.lid.toNat < b.lid.toNat && (field a.lid 56 8 == 255) == (field b.lid 56 8 == 255))
/-- LIGHT goes before HEAVY while a collective is pending (15 R256). -/
def collPending (s : State) : Bool :=
  s.ops.any (fun o => match o.kind with
    | .coll _ _ => true
    | _ => false)
/-- Placement order (19 R310). -/
def placedBefore (s : State) (a b : Launch) : Bool :=
  let pa := launchPrio s a
  let pb := launchPrio s b
  if pa ≠ pb then pb < pa
  else if collPending s && a.rcd.heavy != b.rcd.heavy then !a.rcd.heavy
  else older a b
/-- The cores of the tile of a launch's next coach. -/
def nextTile (l : Launch) : List Nat :=
  let xy := tileXY l.rcd l.nextCoach
  tileCores l.rcd.a l.rcd.b xy.1 xy.2
/-- The cores held for a launch's guaranteed coach: of its tile while it waits unplaced, or while its successor waits to
start (19 R311, 17 R292). -/
def heldCores (s : State) (l : Launch) : List Nat :=
  (if unplaced l && l.retired == l.nextCoach then nextTile l else []) ++
    (s.coaches.filter (fun k => k.launch == l.id && k.waiting && isLowest l k)).flatMap coachCores
/-- An older launch's guaranteed coach waits for one of these cores. -/
def heldAgainst (s : State) (l : Launch) (cores : List Nat) : Bool :=
  s.launches.any (fun m => older m l && (heldCores s m).any (fun c => cores.contains c))
/-- A coach of a launch takes nothing that is held for another guaranteed coach of it whose successor waits. -/
def heldWithin (s : State) (l : Launch) (except : Nat) (cores : List Nat) : Bool :=
  s.coaches.any (fun k => k.launch == l.id && k.id != except && k.waiting && isLowest l k && (coachCores k).any cores.contains)
/-- The next coach of a launch fits its tile, and no older guaranteed coach holds a core of it. -/
def nextFits (s : State) (l : Launch) : Bool :=
  let xy := tileXY l.rcd l.nextCoach
  l.nextCoach < l.rcd.coaches && tileFits s l.rcd l.id xy.1 xy.2 false && !heldAgainst s l (nextTile l) && !heldWithin s l 0 (nextTile l)

/-- The next coach of a launch is placed, when it fits and nothing else that fits goes before it. -/
def execCoachPlace (launch : Nat) (s : State) : Out :=
  .next (
    match launch? s launch with
    | none => s
    | some l =>
      if ready s 161 && unplaced l && nextFits s l &&
          !(s.launches.filter unplaced ++ waitingHeads s).any (fun m => m.id != l.id && nextFits s m && placedBefore s m l) then
        onLaunch (startCoach s l l.nextCoach) launch (fun l => { l with
          nextCoach := l.nextCoach + 1, placedAt := some (l.placedAt.getD s.tick) })
      else s)

/-! ## Retirement and successors (17 R288, R292) -/

def carsOfCoach (s : State) (k : Nat) : List Carriage := (cars s).filter (fun c => c.coach == k)
/-- The last carriage has exited, engine work and passes have completed, no trigger is armed. -/
def coachDone (s : State) (k : Coach) : Bool :=
  (carsOfCoach s k.id).all (fun c => c.wait == .exited) && s.ops.all (fun o => o.coach != k.id) &&
    s.passes.all (fun p => p.coach != k.id) && s.triggers.all (fun t => t.coach != k.id) &&
    s.loops.all (fun l => (car s l.cid).coach != k.id)

/-- Remove the carriages of a coach. -/
def clearCars (s : State) (k : Nat) : State :=
  { s with self := if s.self.coach = k then Carriage.none else s.self
           rest := s.rest.filter (fun c => c.coach != k) }
/-- Free the windows of a launch on quads where it has no coach left (17 R287). -/
def closeWindows (s : State) (launch : Nat) : State :=
  { s with windows := s.windows.filter (fun w =>
      w.launch != launch || s.coaches.any (fun k => k.launch == launch && !k.saved && (coachCores k).any (fun c => quadOf c == w.quad)
        && !k.spawn)) }
/-- What no launch that stands may still fetch is kept no longer (03 R46). -/
def forgetPast (s : State) : State :=
  { s with past := s.past.filter (fun e => s.launches.any (fun l => !l.done && (match l.placedAt with
      | some t => t ≤ e.at'
      | none => false))) }
/-- The launch is complete: every coach retired, no spawn coach left (17 R282, 18 R304). -/
def settleLaunch (s : State) (launch : Nat) : State :=
  forgetPast (onLaunch s launch (fun l => { l with
    done := l.done || (l.accepted && l.retired == l.rcd.coaches &&
      !s.coaches.any (fun k => k.launch == launch) && !s.bins.any (fun b => b.launch == launch)) }))

/-- What the successor's record supplies, and what it keeps (17 R292): the tile stays, so its shape does. -/
def succRec (old new : LaunchRec) : LaunchRec :=
  { new with
    coaches := old.coaches, x0 := old.x0, y0 := old.y0, wid := old.wid, hgt := old.hgt, a := old.a, b := old.b
    carve := old.carve, world := old.world, space := old.space, twin := old.twin, deps := [] }

/-- Another guaranteed coach, of an older launch or of its own launch, holds a core of the tile. -/
def successorHeld (s : State) (k : Coach) : Bool :=
  match launch? s k.launch with
  | none => false
  | some l => heldAgainst s l (coachCores k) || heldWithin s l k.id (coachCores k)

/-- A waiting successor starts on its tile when it fits. -/
def startSuccessor (s : State) (coach : Nat) : State :=
  match coach? s coach with
  | none => s
  | some k =>
    match k.succ with
    | none => s
    | some (_, new) =>
      let r := succRec k.rcd new
      if k.waiting && tileFits s r k.launch k.x k.y true && !successorHeld s k then
        let s := onCoach s coach (fun k => { k with
          rcd := r, ctag := freshCtag s, n7 := false, recons := [], succ := none, succNamed := []
          waiting := false, stopped := false, saved := false, arrived := 0, kept := [], spill := [], placed := s.cyc })
        let s := { s with ctr := cclear s.ctr (ctrKey coach 0) (ctrKey (coach + 1) 0) }
        startAll s r coach k.launch k.index (tileCores r.a r.b k.x k.y)
      else s
def execSuccessorStart (coach : Nat) (s : State) : Out := .next (startSuccessor s coach)

/-- The coach has retired with a successor: the successor starts, or waits for what it lacks. -/
def succeed (s : State) (k : Coach) : State :=
  let s := onCoach (onLaunch s k.launch (fun l => { l with retiredIx := k.index :: l.retiredIx })) k.id (fun k => { k with waiting := true })
  startSuccessor s k.id

def execCoachRetire (coach : Nat) (s : State) : Out :=
  .next (
    match coach? s coach with
    | none => s
    | some k =>
      if k.spawn || k.waiting || !coachDone s k then s
      else
        let s := clearCars s coach
        if k.succ.isSome then succeed s k
        else
          let s := { s with coaches := s.coaches.filter (fun x => x.id != coach) }
          let s := onLaunch s k.launch (fun l => { l with retired := l.retired + 1, retiredIx := k.index :: l.retiredIx })
          settleLaunch (closeWindows s k.launch) k.launch)

end Sys2Proof.Machine
end

