-- ==== Sys2Proof/Machine/Tensor.lean ====
section
/-! DEFINITION. What engines and passes share: reads through an engine's translation, tensor descriptors, tile handles
and tile memory (10 R165-R167, 17 R287, 22 R360). -/
namespace Sys2Proof.Machine

/-! ## Bytes through an engine's translation -/

/-- Keys and lengths of a range, or the first failing cause with the address it failed at. -/
def engPieces (s : State) (eng : Nat) (world : Bool) (space : BitVec 16) (acc : Access) :
    List (Nat × Nat) → Except (Cause × Nat) (List (Nat × Nat))
  | [] => .ok []
  | (va, n) :: r =>
    match xlate s eng world space va acc with
    | .error c => .error (c, va)
    | .ok t =>
      match engPieces s eng world space acc r with
      | .error c => .error c
      | .ok ks => .ok ((targetKey t, n) :: ks)
def engKeys (s : State) (eng : Nat) (world : Bool) (space : BitVec 16) (acc : Access) (va len : Nat) :
    Except (Cause × Nat) (List (Nat × Nat)) :=
  engPieces s eng world space acc (piecesOf va len)

/-- The bytes of pieces, and whether a unit of them is poisoned. -/
def keyBytes (s : State) (ks : List (Nat × Nat)) : List Byte := ks.flatMap (fun k => mread s k.1 k.2)
def keysBad (s : State) (ks : List (Nat × Nat)) : Bool := ks.any (fun k => mBad s k.1 k.2)

def engRead (s : State) (eng : Nat) (world : Bool) (space : BitVec 16) (va len : Nat) :
    Except (Cause × Nat) (List Byte × Bool) :=
  match engKeys s eng world space .read va len with
  | .error c => .error c
  | .ok ks => .ok (keyBytes s ks, keysBad s ks)

/-- Leaves an engine's accesses leave in its cache (22 R360). -/
def engNote (s : State) (eng : Nat) (world : Bool) (space : BitVec 16) (va len : Nat) : State :=
  (piecesOf va len).foldl (fun s p => tlbNote s eng world space p.1) s

/-! ## Tensor descriptors (10 R165) -/

def descOf (bs : List Byte) : TensorDesc :=
  { base := leBits 64 (bs.take 8), rows := leAt bs 8 4, rowBytes := leAt bs 12 2, fmt := leAt bs 14 1
    hash := bitN (leAt bs 15 1) 7, logn := nbits (leAt bs 15 1) 0 5, stride := leAt bs 16 8, pkgs := leAt bs 24 2
    dies := BitVec.ofNat 2 (leAt bs 26 1), seed := leBits 32 ((bs.drop 28).take 4), map := leBits 64 ((bs.drop 32).take 8) }

/-- Every field in its range, every reserved byte 0. -/
def descOk (bs : List Byte) : Bool :=
  let d := descOf bs
  1 ≤ d.rows && 1 ≤ d.rowBytes && d.rowBytes ≤ 4096 && d.fmt ≤ 13 && d.fmt != 7 &&
    nbits (leAt bs 15 1) 5 2 == 0 && (!d.hash || d.logn == 0) && d.rowBytes ≤ d.stride &&
    1 ≤ d.pkgs && d.pkgs ≤ 4096 && nbits (leAt bs 26 1) 2 6 == 0 && d.dies != 0 && leAt bs 27 1 == 0 &&
    (d.hash || d.seed == 0) && leAt bs 40 24 == 0

/-- Address of byte `c` of row `r` under a carriage's own translation. -/
def rowAddr (d : TensorDesc) (r c : Nat) : Nat := (d.base.toNat + r * d.stride + c) % 2 ^ 64

/-! ## Tile handles (10 R166) -/

inductive TileKind where
  | invalid | tilemem | tensor
  deriving DecidableEq, Repr

def tKind (t : BitVec 128) : TileKind :=
  match field t 124 4 with
  | 1 => .tilemem
  | 2 => .tensor
  | _ => .invalid
def tFmt (t : BitVec 128) : Nat := field t 120 4
/-- LAYOUT is SPARSE64. -/
def tSparse (t : BitVec 128) : Bool := field t 118 2 == 1
def tLayout (t : BitVec 128) : Nat := field t 118 2
def tOfs (t : BitVec 128) : Nat := field t 80 16
def tK (t : BitVec 128) : Nat := field t 32 32
def tColb (t : BitVec 128) : Nat := field t 90 12
def tRowo (t : BitVec 128) : Nat := field t 58 32
/-- The descriptor's address: DADDR holds its bits [63:6]. -/
def tDaddr (t : BitVec 128) : Nat := field t 0 58 * 64

/-- Bytes of a region in each slice. -/
def regionBytes (fmt k : Nat) (sparse : Bool) : Nat := if sparse then 136 * (k / 64) else (k * elemBits fmt + 7) / 8

def rt (s : State) (f : OpField) : BitVec 128 := cget s.self.t f.toNat
def wt (s : State) (f : OpField) (x : BitVec 128) : State := onSelf s (fun c => { c with t := cset c.t f.toNat x })

/-- TDESC's nine element formats. -/
def tileFmtOk (f : Nat) : Bool := f ≤ 6 || f == 8 || f == 11

/-- The TILEMEM handle of TDESC.TM, when it breaks no limit (10 R167). -/
def mkTilemem (a b : DWord) : Option (BitVec 128) :=
  let ofs := field a 0 16
  let k := field a 16 32
  let fmt := field b 0 4
  let layout := field b 4 2
  let sparse := layout == 1
  if tileFmtOk fmt && layout ≤ 1 && (!sparse || fmt == 3) && ofs % 4 == 0 && 32 ≤ k &&
      k % (if sparse then 64 else 32) == 0 && ofs + regionBytes fmt k sparse ≤ 65536 then
    some (BitVec.ofNat 128 (2 ^ 124 + fmt * 2 ^ 120 + layout * 2 ^ 118 + ofs * 2 ^ 80 + k * 2 ^ 32))
  else none
def mkTensorT (a b : DWord) : Option (BitVec 128) :=
  if a.toNat % 64 = 0 then
    some (BitVec.ofNat 128 (2 * 2 ^ 124 + field b 32 12 * 2 ^ 90 + field b 0 32 * 2 ^ 58 + field a 6 58))
  else none

def execTdesc (i : RrrI) (s : State) : Out :=
  let op := field i.mod 0 2
  let put (t : Option (BitVec 128)) (s : State) : State :=
    match t with
    | some t => nextPc (wt s i.h.d t)
    | none => trapC s .tileRange
  match op with
  | 0 => scalarOp i.h [i.h.a, i.h.b] s (fun s => put (mkTilemem (rs s i.h.a) (rs s i.h.b)) s)
  | 1 => scalarOp i.h [i.h.a, i.h.b] s (fun s => put (mkTensorT (rs s i.h.a) (rs s i.h.b)) s)
  | 2 => scalarOp i.h [] s (fun s => nextPc (wt s i.h.d 0))
  | _ => scalarOp i.h [] s (fun s =>
      if tKind (rt s i.h.a) = .invalid then trapC s .tileInvalid
      else nextPc (ws s i.h.d ((rt s i.h.a).extractLsb' (if i.mod.getLsbD 2 then 64 else 0) 64)))

/-! ## Tile memory (10 R166, 17 R287): what a window holds at allocation is free, a number of its own to each -/

/-- The key of byte `o` of column n's slice, counted from the window's base. -/
def tileKey (gen quad n o : Nat) : Nat := memKey .tile (gen * 32 + quad) (n * 65536 + o)
/-- What a window's byte held when it was allocated (00 R3). -/
def tileFill (gen n o : Nat) : Byte := Config.freeByte gen (n * 65536 + o)
def tileGet (s : State) (gen quad n o : Nat) : Byte := mget s (tileKey gen quad n o) ^^^ tileFill gen n o
def tileBytes (s : State) (gen quad n o len : Nat) : List Byte := (span o len).map (fun x => tileGet s gen quad n x)
/-- Write bytes of a slice. -/
def tilePut (s : State) (gen quad n o : Nat) (bs : List Byte) : State :=
  mwrite s (tileKey gen quad n o) (((span o bs.length).zip bs).map (fun p => p.2 ^^^ tileFill gen n p.1))

/-- The window of the moving carriage's launch on its quad. -/
def ownWindow (s : State) : Option TileWin := window? s s.self.launch (quadOf s.self.core)
/-- The window a region lies in whole: OFS + s within TWIN × 4,096. -/
def regionWindow (s : State) (t : BitVec 128) : Option TileWin :=
  match ownWindow s with
  | none => none
  | some w => if tOfs t + regionBytes (tFmt t) (tK t) (tSparse t) ≤ w.units * 4096 then some w else none

end Sys2Proof.Machine
end

