-- ==== Sys2Proof/Machine/Acc.lean ====
section
/-! DEFINITION. Accumulators: state words, SUM elements, ranked lists, and ACCDEF, ACCLD, ACCST, ACCSTAT
(02 R33, R34, 06 R99-R101, 07 R108-R115, 10 R177-R180). -/
namespace Sys2Proof.Machine

/-! ## Names and state words (02 R33, R34) -/

def accKey (home a : Nat) : Nat := home * 32 + a
def accWord (s : State) (home a : Nat) : DWord := cget s.accSt (accKey home a)
def setAccWord (s : State) (home a : Nat) (x : DWord) : State := { s with accSt := cset s.accSt (accKey home a) x }

def accRank (w : DWord) : Bool := w.getLsbD 0
def accFmt (w : DWord) : Nat := field w 1 2
def accCol (w : DWord) : Bool := w.getLsbD 3
def accK (w : DWord) : Nat := field w 4 7
def accPaired (w : DWord) : Bool := w.getLsbD 30
def accF64 (w : DWord) : Bool := !accRank w && accFmt w == 2

/-- Sticky events (06 R99). -/
def aOVF : DWord := 0x10000
def aINV : DWord := 0x20000
def aNANIN : DWord := 0x40000
def aSAT : DWord := 0x80000
def aDISC : DWord := 0x100000
def aFlags : DWord := 0x1F0000
def flagA (b : Bool) (f : DWord) : DWord := if b then f else 0

def raiseAcc (s : State) (home a : Nat) (f : DWord) : State := setAccWord s home a (accWord s home a ||| f)

def accsOf (s : State) (home : Nat) : Nat := (theCar s home).accs
/-- A name at or above the count, or the odd half of an FP64 pair. -/
def accUnbound (s : State) (home a : Nat) : Bool := accsOf s home ≤ a || accPaired (accWord s home a)

/-- The home carriage whose names a scalar instruction means: in a path, that of the thread in the lowest occupied
slot (DEDUCED). -/
def accHome (s : State) : Nat :=
  match s.self.kind with
  | .path =>
    match slotsOf s.self with
    | st :: _ => homeCar st.2
    | [] => s.self.id
  | _ => s.self.id

/-- Width of a home carriage, the rows each of its threads owns, and the rows of a thread (06 R100). -/
def homeWidth (s : State) (home : Nat) : Nat := max 1 (widthOf (theCar s home))
def rowsPer (w : Nat) : Nat := 128 / max 1 w
def rowsOfTid (s : State) (tid : Nat) : List Nat :=
  let w := homeWidth s (homeCar tid)
  (span 0 (rowsPer w)).map (fun j => homeIdx tid + w * j)

/-! ## The interlock: an instruction naming an accumulator waits for its passes and for an image on its way into it
(03 R54, 06 R101, 10 R178) -/

/-- The names a tile stands on: an FP64 tile takes the name above too. -/
def accSpan (s : State) (home a : Nat) : List Nat := if accF64 (accWord s home a) then [a, a + 1] else [a]
def passOn (s : State) (homes : List Nat) (names : List Nat) : Bool :=
  s.passes.any (fun p => p.homes.any homes.contains && names.any (fun a => a == p.acc || (p.op == .f64 && a == p.acc + 1))) ||
    s.loads.any (fun l => l.img.any (fun g =>
      g.rows.any (fun r => homes.contains r.1 && (accSpan s r.1 g.acc).any names.contains)))

/-! ## Elements of a SUM tile and poison of accumulator words -/

def accDataKey (home a w : Nat) : Nat := accKey home a * 16384 + w
/-- Words of element (m, n): one, or two of an FP64 pair (10 R178). -/
def elemKey (home a : Nat) (f64 : Bool) (m n : Nat) : Nat :=
  accDataKey home a (if f64 then 2 * (m * 128 + n) else m * 128 + n)
def sumGet (s : State) (home a : Nat) (f64 : Bool) (m n : Nat) : Nat :=
  let k := elemKey home a f64 m n
  if f64 then (cget s.accData k).toNat + 2 ^ 32 * (cget s.accData (k + 1)).toNat else (cget s.accData k).toNat
def elemCells (home a : Nat) (f64 : Bool) (m n x : Nat) : List (Nat × Word) :=
  let k := elemKey home a f64 m n
  if f64 then [(k, BitVec.ofNat 32 x), (k + 1, BitVec.ofNat 32 (x / 2 ^ 32))] else [(k, BitVec.ofNat 32 x)]
def putCells (s : State) (es : List (Nat × Word)) : State := { s with accData := csetAll s.accData es }
def markA (s : State) (keys : List Nat) (b : Bool) : State :=
  { s with accPoison := csetAll s.accPoison (keys.map (fun k => (k, BitVec.ofBool b))) }
def aBad (s : State) (key : Nat) : Bool := cget s.accPoison key == 1

/-! ## Ranked lists (07 R108-R114). A RANK slot is stored as its difference from empty entries. -/

abbrev Entry := Word × Word
def emptyEntry : Entry := (0xFF800000#32, 0xFFFFFFFF#32)

def listKey (home a i j : Nat) : Nat := accDataKey home a (i * 128 + 2 * j)
def lenOf (s : State) (home a i : Nat) : Nat := (cget s.accLen (accKey home a * 128 + i)).toNat
def entryAt (s : State) (home a i j : Nat) : Entry :=
  let k := listKey home a i j
  (cget s.accData k ^^^ emptyEntry.1, cget s.accData (k + 1) ^^^ emptyEntry.2)
/-- Entries 0 to L − 1. -/
def listOf (s : State) (home a i : Nat) : List Entry := (span 0 (lenOf s home a i)).map (entryAt s home a i)
/-- Store a list: its entries, empty ones behind them, and its length. -/
def setList (s : State) (home a i : Nat) (l : List Entry) : State :=
  let cells := ((span 0 l.length).zip l).flatMap (fun p =>
    let k := listKey home a i p.1
    [(k, p.2.1 ^^^ emptyEntry.1), (k + 1, p.2.2 ^^^ emptyEntry.2)])
  { s with
    accData := csetAll (cclear s.accData (listKey home a i 0) (listKey home a (i + 1) 0)) cells
    accLen := cset s.accLen (accKey home a * 128 + i) (BitVec.ofNat 7 l.length) }
def listKeys (home a i : Nat) : List Nat := span (listKey home a i 0) 128
def listBad (s : State) (home a i : Nat) : Bool := (listKeys home a i).any (aBad s)

def isNanW (v : Word) : Bool := (decodeF fmtF32 v.toNat).isNan
/-- −0 becomes +0 (07 R111). -/
def normZero (v : Word) : Word := if v = 0x80000000#32 then 0 else v
/-- Before the first entry that ranks below it. -/
def rankInsert (e : Entry) : List Entry → List Entry
  | [] => [e]
  | x :: r => if rankLess x e then e :: x :: r else x :: rankInsert e r
/-- An offer under bound K; a NaN is discarded. -/
def offerTo (k : Nat) (l : List Entry) (e : Entry) : List Entry :=
  if isNanW e.1 then l else (rankInsert (normZero e.1, e.2) l).take k
def mergeInto (k : Nat) (l es : List Entry) : List Entry := es.foldl (offerTo k) l
/-- Offers to list i of a tile, with DISC for a discarded NaN. -/
def offerAll (s : State) (home a i : Nat) (es : List Entry) : State :=
  let w := accWord s home a
  let s := setList s home a i (mergeInto (accK w) (listOf s home a i) es)
  raiseAcc s home a (flagA (es.any (fun e => isNanW e.1)) aDISC)
/-- The threshold, and whether L = K (07 R113). -/
def thresholdOf (s : State) (home a i : Nat) : Entry × Bool :=
  let k := accK (accWord s home a)
  if lenOf s home a i = k ∧ 0 < k then (entryAt s home a i (k - 1), true) else (emptyEntry, false)

/-! ## ACCDEF (10 R177) -/

/-- Every element 0, no entry, every length 0, no poison. -/
def clearSlot (s : State) (home a : Nat) : State :=
  { s with
    accData := cclear s.accData (accDataKey home a 0) (accDataKey home (a + 1) 0)
    accPoison := cclear s.accPoison (accDataKey home a 0) (accDataKey home (a + 1) 0)
    accLen := cclear s.accLen (accKey home a * 128) (accKey home (a + 1) * 128) }
/-- The state word with its layout bits, flags clear. -/
def declared (w : DWord) (low : Nat) (paired : Bool) : DWord :=
  (w &&& 0xFFFFFFFFBF000000#64) ||| BitVec.ofNat 64 (low % 2 ^ 11) ||| (if paired then 0x40000000#64 else 0)

/-- ACCDEF.SUM.F64 needs an even name with the name above bound. -/
def pairFits (s : State) (home a : Nat) : Bool := a % 2 == 0 && a + 1 < accsOf s home

def defineAcc (s : State) (home a : Nat) (imm : Word) : State :=
  let f64 := !imm.getLsbD 0 && field imm 1 2 == 2
  let was := accF64 (accWord s home a)
  let s := setAccWord (clearSlot s home a) home a (declared (accWord s home a) (field imm 0 11) false)
  if f64 || was then setAccWord (clearSlot s home (a + 1)) home (a + 1) (declared (accWord s home (a + 1)) 0 f64) else s

def execAccdef (i : RriI) (s : State) : Out :=
  let a := i.h.d.toNat
  let f64 := !i.imm.getLsbD 0 && field i.imm 1 2 == 2
  scalarOp i.h [] s (fun s =>
    let home := accHome s
    if inRegion s.self then trapC s .divergeIllegal
    else if accUnbound s home a || (f64 && !pairFits s home a) then trapC s .accUnbound
    else if passOn s [home] (accSpan s home a ++ if f64 then [a + 1] else []) then s
    else nextPc (defineAcc s home a i.imm))

/-! ## ACCSTAT (10 R180) -/

def execAccstat (i : RrrI) (s : State) : Out :=
  let a := i.h.a.toNat
  let len := i.mod.getLsbD 1
  scalarOp i.h (if len then [i.h.b] else []) s (fun s =>
    let home := accHome s
    let w := accWord s home a
    if accUnbound s home a then trapC s .accUnbound
    else if len && !accRank w then trapC s .accKind
    else if passOn s [home] (accSpan s home a) then s
    else
      let x : DWord := if len then BitVec.ofNat 64 (lenOf s home a (field (rs s i.h.b) 0 7)) else w
      let s := ws s i.h.d x
      nextPc (if i.mod.getLsbD 0 then setAccWord s home a (w &&& ~~~aFlags) else s))

/-! ## Images (10 R178, R179, 07 R115) -/

/-- Bytes of an image element and its conversion: none moves the bits. -/
structure DrainFmt where
  elem : Nat
  code : Option Nat
  deriving DecidableEq, Repr

/-- The image format of a tile under DFMT; none where it does not fit. -/
def drainFmt (w : DWord) (dfmt : Nat) : Option DrainFmt :=
  if accRank w then (if dfmt = 0 then some ⟨4, none⟩ else none)
  else
    match dfmt, accFmt w with
    | 0, 0 => some ⟨4, some 1⟩
    | 0, 1 => some ⟨4, none⟩
    | 0, 2 => some ⟨8, some 0⟩
    | 1, 0 => some ⟨2, some 3⟩
    | 2, 0 => some ⟨2, some 2⟩
    | 3, 0 => some ⟨1, some 4⟩
    | 4, 0 => some ⟨1, some 5⟩
    | 5, 1 => some ⟨1, some 8⟩
    | 6, 2 => some ⟨4, some 1⟩
    | _, _ => none

/-- A drained element and the tile events it raises (10 R179). -/
def drainElem (w : DWord) (f : DrainFmt) (sat : Bool) (x : Nat) : Nat × DWord :=
  match f.code with
  | none => (x, 0)
  | some 8 =>
    let v := (BitVec.ofNat 32 x).toInt
    if loLim false 8 ≤ v ∧ v ≤ hiLim false 8 then (x % 256, 0)
    else if sat then ((clampI false 8 v).toNat, aSAT) else (x % 256, aOVF)
  | some c =>
    let r := convToCode c .rne sat (decodeF (if accF64 w then fmtF64 else fmtF32) x)
    (r.1, flagA (r.2 &&& fOF != 0) (if sat then aSAT else aOVF))

/-- The rows, or lists, an accumulator instruction moves: home carriage and row (10 R178). -/
def movedRows (s : State) (ts : List (Nat × Nat)) (a : Nat) : List (Nat × Nat) :=
  let homes := nubNat (ts.map (fun st => homeCar st.2))
  homes.flatMap (fun h =>
    if accRank (accWord s h a) && accCol (accWord s h a) then (span 0 128).map (fun m => (h, m))
    else (ts.filter (fun st => homeCar st.2 == h)).flatMap (fun st => (rowsOfTid s st.2).map (fun m => (h, m))))

def homesActive (ts : List (Nat × Nat)) : List Nat := nubNat (ts.map (fun st => homeCar st.2))

/-- Places of an image that a row fills: offset and length; a list also has its length byte. -/
def imagePlaces (w : DWord) (f : DrainFmt) (m : Nat) : List (Nat × Nat) :=
  if accRank w then [(512 * m, 512), (65536 + m, 1)] else [(128 * f.elem * m, 128 * f.elem)]

def imgSpace (i : MemI) : LocSpace := if i.mod.getLsbD 5 then .scr else .shm
def imgAddr (s : State) (i : MemI) : Nat :=
  ((rs s i.h.a).setWidth 32 + (rs s i.h.b).setWidth 32 + memOfs i.t : Word).toNat

/-- Every byte of the places lies in the space. -/
def placesOk (s : State) (sp : LocSpace) (x : Nat) (ps : List (Nat × Nat)) : Bool :=
  ps.all (fun p => (span (x + p.1) p.2).all (locOk s sp))
/-- The frame ACCLD and ACCST share: guard, names, format, faults of the image, waits for earlier passes. -/
def imageOp (i : MemI) (store : Bool) (s : State)
    (body : List (Nat × Nat) → Nat → List (Nat × Nat) → State → State) : Out :=
  let a := i.h.d.toNat
  let dfmt := field i.mod 7 3
  .next (
    let ts := active s i.h
    let homes := homesActive ts
    if ts.isEmpty then nextPc s
    else if homes.any (fun h => accUnbound s h a) then trapC s .accUnbound
    else if anyBadS s [i.h.a, i.h.b] then trapC s .poison
    else if homes.any (fun h => (drainFmt (accWord s h a) dfmt).isNone) then trapC s .accFormat
    else if 1 < homes.length && homes.any (fun h => accRank (accWord s h a) && accCol (accWord s h a)) then
      trapC s .divergeIllegal
    else
      let rows := movedRows s ts a
      if store && 1 < homes.length then trapC s .divergeIllegal
      else
        let x := imgAddr s i
        let sp := imgSpace i
        let places := rows.flatMap (fun r =>
          let w := accWord s r.1 a
          imagePlaces w ((drainFmt w dfmt).getD ⟨4, none⟩) r.2)
        let keys := places.flatMap (fun p => locKeys s sp 0 (x + p.1) p.2)
        if !placesOk s sp x places then trapAt s .addrRange (BitVec.ofNat 64 x)
        else if x % 64 ≠ 0 then trapAt s .addrAlign (BitVec.ofNat 64 x)
        else if passOn s homes (homes.flatMap (fun h => accSpan s h a)) then s
        else if store && logFull s sp keys then trapC s .specIllegal
        else nextPc (body rows x places s))

/-- The entries of a list image. -/
def entriesOf (bs : List Byte) (n : Nat) : List Entry :=
  (span 0 (min n 64)).map (fun j => (leBits 32 ((bs.drop (8 * j)).take 4), leBits 32 ((bs.drop (8 * j + 4)).take 4)))

/-- How an image reads: bytes from an offset on, and whether they are poisoned. -/
abbrev ImgView := (Nat → Nat → List Byte) × (Nat → Nat → Bool)
def imgView (s : State) (sp : LocSpace) (x : Nat) : ImgView := (fun o n => imgBytes s (locKeys s sp 0 (x + o) n), fun o n => imgBad s (locKeys s sp 0 (x + o) n))

/-- ACCLD of one row or list (10 R179). -/
def loadRow (v : ImgView) (a : Nat) (s : State) (r : Nat × Nat) : State :=
  let home := r.1
  let m := r.2
  let w := accWord s home a
  if accRank w then
    let es := entriesOf (v.1 (512 * m) 512) (leNat (v.1 (65536 + m) 1))
    let bad := v.2 (512 * m) 512 || v.2 (65536 + m) 1
    markA (offerAll (setList s home a m []) home a m es) (listKeys home a m) bad
  else
    let e := if accF64 w then 8 else 4
    let bs := v.1 (128 * e * m) (128 * e)
    let els := (span 0 128).map (fun n => (n, leAt bs (e * n) e))
    let nan : Bool :=
      accFmt w != 1 && els.any (fun p => (decodeF (if accF64 w then fmtF64 else fmtF32) p.2).isNan)
    let cells := els.flatMap (fun p => elemCells home a (accF64 w) m p.1 p.2)
    let bad := els.filter (fun p => v.2 (128 * e * m + e * p.1) e)
    let s := markA (putCells s cells) (cells.map (fun c => c.1)) false
    raiseAcc (markA s (bad.flatMap (fun p => (elemCells home a (accF64 w) m p.1 0).map (fun c => c.1))) true)
      home a (flagA nan aNANIN)

/-- The whole image may be accessed at once: nothing goes first, no line of it is owned, no store is hidden, and the turn
does not lag. -/
def imgPrompt (s : State) (x : LocAcc) : Bool := s.lag == 0 && s.stale.isEmpty && !accBlocked s x && !accBehind s s.waits x
/-- The single accesses of an image: aligned 4-byte words, and the length bytes of lists (10 R178). -/
def imgWords (places : List (Nat × Nat)) : List (Nat × Nat) :=
  places.flatMap (fun p => if p.2 % 4 = 0 then (span 0 (p.2 / 4)).map (fun j => (p.1 + 4 * j, 4)) else [(p.1, p.2)])
/-- A tile image is read: at once into the tile, or word by word as an outstanding load (11 R197). -/
def readImage (s : State) (sp : LocSpace) (m : MemAttr) (x : Nat) (places : List (Nat × Nat)) (g : ImgLoad)
    (now : State → State) : State :=
  let acc (id : Nat) (p : Nat × Nat) : LocAcc := newAcc s sp id m m.order (locKeys s sp 0 (x + p.1) p.2) (.load .img true)
  let all := newAcc s sp s.nextId m m.order (places.flatMap (fun p => locKeys s sp 0 (x + p.1) p.2)) (.load .img true)
  if imgPrompt s all then now s
  else
    let o := openLoad s
    runAccs sp { o.2 with loads := o.2.loads.map (fun l => if l.id = o.1 then { l with img := some g } else l) }
      ((imgWords places).map (acc o.1))

def execAccld (i : MemI) (s : State) : Out :=
  imageOp i false s (fun rows x places s =>
    let sp := imgSpace i
    readImage s sp (attrOf i.t) x places { merge := false, acc := i.h.d.toNat, rows := rows, key := locKey s sp 0 x }
      (fun s => rows.foldl (loadRow (imgView s sp x) i.h.d.toNat) s))

/-- The bytes ACCST writes for a row, by place, the events, and the offsets of poisoned elements. -/
def drainRow (s : State) (a : Nat) (f : DrainFmt) (sat : Bool) (r : Nat × Nat) :
    List (Nat × List Byte) × DWord × List Nat :=
  let home := r.1
  let m := r.2
  let w := accWord s home a
  if accRank w then
    let bs := (span 0 64).flatMap (fun j =>
      let e := if j < lenOf s home a m then entryAt s home a m j else emptyEntry
      bitsLe 4 e.1 ++ bitsLe 4 e.2)
    ([(512 * m, bs), (65536 + m, [BitVec.ofNat 8 (lenOf s home a m)])], 0,
      if listBad s home a m then (span 0 64).map (fun j => 512 * m + 8 * j) else [])
  else
    let els := (span 0 128).map (fun n => drainElem w f sat (sumGet s home a (accF64 w) m n))
    let bad := (span 0 128).filter (fun n => (elemCells home a (accF64 w) m n 0).any (fun c => aBad s c.1))
    ([(128 * f.elem * m, els.flatMap (fun e => leBytes f.elem e.1))], els.foldl (fun g e => g ||| e.2) 0,
      bad.map (fun n => 128 * f.elem * m + f.elem * n))

/-- ACCST of one row or list: what it writes at once, and its events. -/
def storeRow (i : MemI) (x : Nat) (s : State) (r : Nat × Nat) : State :=
  let a := i.h.d.toNat
  let sp := imgSpace i
  let f := (drainFmt (accWord s r.1 a) (field i.mod 7 3)).getD ⟨4, none⟩
  let d := drainRow s a f (i.mod.getLsbD 6) r
  let s := d.1.foldl (fun s p => carStore s (homesOf s.self) false (locKeys s sp 0 (x + p.1) p.2.length) p.2 false) s
  let at' (o : Nat) : Nat := (locKeys s sp 0 (x + o) 1).headD 0
  let s := if s.self.spinst ≠ 0 then
      d.2.2.foldl (fun s o => logStore s (homesOf s.self) [at' o] (accRead s (logOf s (homesOf s.self)) [at' o]) true) s
    else markM s (nubNat (d.2.2.map (fun o => at' o / 8))) true
  raiseAcc s r.1 a d.2.1
/-- The stores of one row or list, word by word, for an image that is written over time. -/
def rowStores (i : MemI) (x : Nat) (s : State) (id : Nat) (r : Nat × Nat) : List LocAcc :=
  let sp := imgSpace i
  let f := (drainFmt (accWord s r.1 i.h.d.toNat) (field i.mod 7 3)).getD ⟨4, none⟩
  let d := drainRow s i.h.d.toNat f (i.mod.getLsbD 6) r
  d.1.flatMap (fun p => (imgWords [(0, p.2.length)]).map (fun w =>
    newAcc s sp id (attrOf i.t) i.t.order (locKeys s sp 0 (x + p.1 + w.1) w.2)
      (.store ((p.2.drop w.1).take w.2) (d.2.2.any (fun o => p.1 + w.1 ≤ o && o < p.1 + w.1 + w.2)))))
def rowEvents (i : MemI) (s : State) (r : Nat × Nat) : State :=
  let a := i.h.d.toNat
  raiseAcc s r.1 a (drainRow s a ((drainFmt (accWord s r.1 a) (field i.mod 7 3)).getD ⟨4, none⟩) (i.mod.getLsbD 6) r).2.1

def execAccst (i : MemI) (s : State) : Out :=
  imageOp i true s (fun rows x places s =>
    let sp := imgSpace i
    let all := newAcc s sp s.nextId (attrOf i.t) i.t.order (places.flatMap (fun p => locKeys s sp 0 (x + p.1) p.2)) (.store [] false)
    if imgPrompt s all then (openStore (rows.foldl (storeRow i x) s)).2
    else
      let o := openStore s
      rows.foldl (rowEvents i) (runAccs sp o.2 (rows.flatMap (rowStores i x s o.1))))

end Sys2Proof.Machine
end

