-- ==== Sys2Proof/Machine/Rank.lean ====
section
/-! DEFINITION. Ranked-list instructions: RKINS, RKMRG, RKTHR, RKOUT, and the arrival of loaded data (10 R181-R184,
07 R110-R115, 02 R29, 11 R197). -/
namespace Sys2Proof.Machine

/-- J at or above the rows a thread owns is a reserved modifier (10 R181, R182). -/
def jReserved (s : State) (j : Nat) : Bool := rowsPer (widthOf s.self) ≤ j
def rkJ (i : PassI) : Nat := field i.low 0 2

/-- The list of a thread: t + w × J. -/
def ownList (s : State) (tid j : Nat) : Nat := homeIdx tid + homeWidth s (homeCar tid) * j

/-- Names of active threads: bound and RANK (10 R171 steps 1 and 2), in that order. -/
def rankNames (s : State) (ts : List (Nat × Nat)) (a : Nat) : Option Cause :=
  let homes := homesActive ts
  if homes.any (fun h => accUnbound s h a) then some .accUnbound
  else if homes.any (fun h => !accRank (accWord s h a)) then some .accKind
  else none

/-- The frame of a ranked-list instruction on tile `a`: J, REG_RANGE, no active thread, ACC_UNBOUND, ACC_KIND, the
checks of its own, POISON, then the wait for passes. -/
def rankOp (i : PassI) (a j : Nat) (regs srcs : List Use) (s : State)
    (own : List (Nat × Nat) → State → Option Cause) (body : List (Nat × Nat) → State → State) : Out :=
  .next (
    let ts := active s i.h
    if jReserved s j then trapC s .reservedModifier
    else if rangeBad s regs then trapC s .regRange
    else if ts.isEmpty then nextPc s
    else match rankNames s ts a with
      | some c => trapC s c
      | none =>
        match own ts s with
        | some c => trapC s c
        | none =>
          match poisonSlot s i.h srcs with
          | some t => trapSlot s .poison t 0
          | none =>
            if passOn s (homesActive ts) [a] then s else body ts s)

/-- POISON where a list that is read, or offered to and so compared with, is poisoned, else go on (24 R383, 07 R111). -/
def unlessBad (bad : Bool) (s : State) (ok : State) : State := if bad then trapC s .poison else ok

/-! ## RKINS (10 R181) -/

/-- The list a thread offers to. -/
def insertList (i : PassI) (s : State) (tid : Nat) : Nat :=
  if accCol (accWord s (homeCar tid) i.h.d.toNat) then field (opV s i.t.c tid) 0 7 else ownList s tid (rkJ i)
def insertOne (i : PassI) (s : State) (tid : Nat) : State :=
  offerAll s (homeCar tid) i.h.d.toNat (insertList i s tid) [(opV s i.h.a tid, opV s i.h.b tid)]

/-- C is read on a COL tile only. -/
def rkinsC (i : PassI) (s : State) : List Use :=
  if (homesActive (active s i.h)).any (fun h => accCol (accWord s h i.h.d.toNat)) then [(i.t.c, 1)] else []

def execRkins (i : PassI) (s : State) : Out :=
  rankOp i i.h.d.toNat (rkJ i) [(i.h.a, 1), (i.h.b, 1), (i.t.c, 1)]
    ([(i.h.a, 1), (i.h.b, 1)] ++ rkinsC i s) s
    (fun ts s =>
      let cols := (homesActive ts).map (fun h => accCol (accWord s h i.h.d.toNat))
      if cols.any (fun c => !c) && i.t.c != 0 then some .illegalOperand
      else if cols.any (fun c => c) && rkJ i != 0 then some .reservedModifier
      else none)
    (fun ts s =>
      unlessBad (ts.any (fun st => listBad s (homeCar st.2) i.h.d.toNat (insertList i s st.2))) s
        (nextPc (ts.foldl (fun s st => insertOne i s st.2) s)))

/-! ## RKMRG (10 R182) -/

def mrgSrc (i : PassI) : Nat := field i.low 0 3
def mrgJ (i : PassI) : Nat := if mrgSrc i = 0 then field i.low 3 2 else 0

/-- The list a thread holds in registers from v[a] on: its L and its entries. -/
def regLen (s : State) (i : PassI) (tid : Nat) : Nat := min 64 (field (rv s tid i.h.a.toNat) 0 7)
def regEntries (s : State) (i : PassI) (tid : Nat) : List Entry :=
  (span 0 (regLen s i tid)).map (fun j =>
    (rv s tid (i.h.a.toNat + 1 + 2 * j), rv s tid (i.h.a.toNat + 2 + 2 * j)))

/-- RKMRG.REG. -/
def mergeReg (i : PassI) (ts : List (Nat × Nat)) (s : State) : State :=
  if ts.any (fun st => s.self.nreg ≤ i.h.a.toNat + 2 * regLen s i st.2) then trapC s .regRange
  else
    let bad := ts.find? (fun st => (span i.h.a.toNat (1 + 2 * regLen s i st.2)).any (fun n => vBad s st.2 n))
    match bad with
    | some st => trapSlot s .poison st.1 0
    | none =>
      unlessBad (ts.any (fun st => listBad s (homeCar st.2) i.h.d.toNat (ownList s st.2 (mrgJ i)))) s
        (nextPc (ts.foldl (fun acc st =>
          offerAll acc (homeCar st.2) i.h.d.toNat (ownList s st.2 (mrgJ i)) (regEntries s i st.2)) s))

/-- RKMRG.ACC: the source tile is read whole before d is written. -/
def mergeAcc (i : PassI) (ts : List (Nat × Nat)) (s : State) : State :=
  let a := i.h.a.toNat
  let homes := homesActive ts
  match rankNames s ts a with
  | some c => trapC s c
  | none =>
    if passOn s homes [a] then s
    else
      let rows := movedRows s ts i.h.d.toNat
      let src := rows.map (fun r => (r, listOf s r.1 a r.2))
      unlessBad (rows.any (fun r => listBad s r.1 a r.2 || listBad s r.1 i.h.d.toNat r.2)) s
        (nextPc (src.foldl (fun s p => offerAll s p.1.1 i.h.d.toNat p.1.2 p.2) s))

/-- A list of an image merged into a tile; a poisoned unit of it poisons the list. -/
def mergeRow (v : ImgView) (a : Nat) (s : State) (r : Nat × Nat) : State :=
  let m := r.2
  let es := entriesOf (v.1 (512 * m) 512) (leNat (v.1 (65536 + m) 1))
  let bad := v.2 (512 * m) 512 || v.2 (65536 + m) 1
  let s := offerAll s r.1 a m es
  if bad then markA s (listKeys r.1 a m) true else s
/-- RKMRG.SHM and .SCR: a tile image, read by plain loads of the carriage. -/
def mergeImage (i : PassI) (ts : List (Nat × Nat)) (s : State) : State :=
  let sp : LocSpace := if mrgSrc i = 2 then .scr else .shm
  let x := (rs s i.h.a).toNat
  let a := i.h.d.toNat
  let rows := movedRows s ts a
  let places := rows.flatMap (fun r => [(512 * r.2, 512), (65536 + r.2, 1)])
  if !placesOk s sp x places then trapAt s .addrRange (BitVec.ofNat 64 x)
  else if x % 64 ≠ 0 then trapAt s .addrAlign (BitVec.ofNat 64 x)
  else if rows.any (fun r => listBad s r.1 a r.2) then trapC s .poison
  else nextPc (readImage s sp { order := 0, scope := 0, evict := 0 } x places { merge := true, acc := a, rows := rows, key := locKey s sp 0 x }
    (fun s => rows.foldl (mergeRow (imgView s sp x) a) s))

def execRkmrg (i : PassI) (s : State) : Out :=
  let src := mrgSrc i
  let regs : List Use := if src = 0 then [(i.h.a, 1)] else []
  let srcs : List Use := if src = 1 ∨ src = 2 then [(i.h.a, 1)] else []
  rankOp i i.h.d.toNat (mrgJ i) regs srcs s (fun _ _ => none) (fun ts s =>
    match src with
    | 0 => mergeReg i ts s
    | 3 => mergeAcc i ts s
    | _ => mergeImage i ts s)

/-! ## RKTHR (10 R183) and RKOUT (10 R184) -/

def execRkthr (i : PassI) (s : State) : Out :=
  let a := i.h.a.toNat
  rankOp i a (rkJ i) [(i.h.d, 1)] [] s (fun _ _ => none) (fun ts s =>
    let li (st : Nat × Nat) : Nat := ownList s st.2 (rkJ i)
    unlessBad (!i.low.getLsbD 2 && ts.any (fun st => listBad s (homeCar st.2) a (li st))) s
      (nextUnlessRead s (fun s => wvAll s (ts.map (fun st =>
        (vKey st.2 i.h.d.toNat,
          if i.low.getLsbD 2 then BitVec.ofNat 32 (lenOf s (homeCar st.2) a (li st))
          else (thresholdOf s (homeCar st.2) a (li st)).1.1))))))

/-- First entry and count. -/
def outRange (b : DWord) : Nat × Nat := (field b 0 6, min (field b 8 7) (64 - field b 0 6))
/-- Entry j of a list; a place at or beyond L gives the empty entry. -/
def outEntry (s : State) (home a i j : Nat) : Entry :=
  if j < lenOf s home a i then entryAt s home a i j else emptyEntry

def execRkout (i : PassI) (s : State) : Out :=
  let a := i.h.a.toNat
  rankOp i a (rkJ i) [(i.h.d, 1)] [(i.h.b, 1)] s (fun _ _ => none) (fun ts s =>
    let r := outRange (rs s i.h.b)
    let d := i.h.d.toNat
    if r.2 = 0 then nextPc s
    else if s.self.nreg < d + 2 * r.2 then trapC s .regRange
    else
      let li (st : Nat × Nat) : Nat := ownList s st.2 (rkJ i)
      unlessBad (ts.any (fun st => listBad s (homeCar st.2) a (li st))) s
        (nextUnlessRead s (fun s =>
          let out := wvAll s (ts.flatMap (fun st => (span 0 r.2).flatMap (fun n =>
            let e := outEntry s (homeCar st.2) a (li st) (r.1 + n)
            [(vKey st.2 (d + 2 * n), e.1), (vKey st.2 (d + 2 * n + 1), e.2)])))
          if i.low.getLsbD 2 then
            ts.foldl (fun s st => setList s (homeCar st.2) a (ownList s st.2 (rkJ i)) []) out
          else out)))

/-! ## The arrival of loaded data (02 R29, 11 R197) -/

/-- An image that has been read word by word. -/
def wordsView (g : ImgLoad) (es : List LoadElem) : ImgView :=
  let at' (k : Nat) : Option (Byte × Bool) := es.findSome? (fun e => match e with
    | .img key bs bad => if key ≤ k then (bs[k - key]?).map (fun b => (b, bad)) else none
    | _ => none)
  (fun o n => (span (g.key + o) n).map (fun k => ((at' k).map (fun x => x.1)).getD 0),
    fun o n => (span (g.key + o) n).any (fun k => ((at' k).map (fun x => x.2)).getD false))
/-- An element lands in its registers. -/
def landElem (s : State) : LoadElem → State
  | .v cells bad => markV (wvAll s cells) (cells.map (fun c => c.1)) bad
  | .s cid reg x bad =>
    if reg = 0 then s
    else onCar s cid (fun c => { c with s := cset c.s reg x, sPoison := setBitTo c.sPoison reg bad })
  | .img _ _ _ => s

/-- One element of an outstanding load arrives, or its whole image enters its tile; the load is done when none is
left. -/
def execLoadDataArrival (load elem : Nat) (s : State) : Out :=
  .next (match s.loads.find? (fun l => l.id == load) with
    | none => s
    | some l =>
      let gone (s : State) : State := { s with loads := s.loads.filter (fun l => l.id != load) }
      match l.img with
      | some g =>
        if idWaits s load then s
        else gone (g.rows.foldl (if g.merge then mergeRow (wordsView g l.elems) g.acc else loadRow (wordsView g l.elems) g.acc) s)
      | none =>
        match takeNth elem l.elems with
        | some (e, r) =>
          let s := landElem s e
          if r.isEmpty && !idWaits s load then gone s
          else { s with loads := s.loads.map (fun l => if l.id = load then { l with elems := r } else l) }
        | none => if l.elems.isEmpty && !idWaits s load then gone s else s)

end Sys2Proof.Machine
end

