-- ==== Sys2Proof/Machine/Matrix.lean ====
section
/-! DEFINITION. Matrix passes: the checks at issue, the reservation table, the k-steps in their three summations, and
grants, overtakes and write-back (06 R93-R107, 10 R168-R176, 07 R117-R119, 19 R309, R315). -/
namespace Sys2Proof.Machine

/-! ## The pass instructions (10 R173, R174, R176) -/

/-- Format codes of A and of B. -/
def passA' : PassOp → Nat
  | .e4 => 4 | .e5 => 5 | .nx4 => 6 | .bf16 => 3 | .f16 => 2 | .f32 => 1 | .f64 => 0
  | .i8 ua _ => if ua then 11 else 8
  | .spE4 => 4 | .spBf16 => 3 | .ssBf16 => 3 | .rk => 3
def passB' : PassOp → Nat
  | .i8 _ ub => if ub then 11 else 8
  | op => passA' op
/-- Products per cell and clock of the narrow modes (06 R93). -/
def passP : PassOp → Option Nat
  | .nx4 => some 8
  | .e4 | .e5 | .spE4 => some 4
  | .bf16 | .f16 | .spBf16 | .rk => some 2
  | .f32 | .f64 | .i8 _ _ | .ssBf16 => none
def passScaled : PassOp → Bool
  | .e4 | .e5 | .nx4 | .spE4 => true
  | _ => false
/-- FMT of the tile (10 R173). -/
def passTile : PassOp → Nat
  | .f64 => 2
  | .i8 _ _ => 1
  | _ => 0
def passSparseA : PassOp → Bool
  | .spE4 | .spBf16 | .ssBf16 => true
  | _ => false
def passSparseB (op : PassOp) : Bool := op == .ssBf16
/-- k-elements of a k-step. -/
def stepLen (p : Pass) : Nat :=
  match p.op with
  | .ssBf16 => 64
  | .f32 | .f64 | .i8 _ _ => 32
  | _ => p.interval
/-- k-steps of a pass; those of MMSS's second phase whose k-block holds no excess pair do nothing and are no boundary. -/
def stepCount (p : Pass) : Nat :=
  if p.op == .ssBf16 then 2 * (p.kLen / 64) else p.kLen / stepLen p

/-- Bytes of an A row: dense, or one record of 8 + 8 b bytes for each k-block (10 R169, R174). The window and extent checks
of a sparse row use its records' bytes (DEDUCED, log 102). -/
def aRowBytes (op : PassOp) (k : Nat) : Nat :=
  if passSparseA op then k / 64 * (8 + 8 * elemBits (passA' op)) else k * elemBits (passA' op) / 8

/-! ## Elements -/

/-- Element k of a dense array of b-bit elements. -/
def denseElem (bs : List Byte) (b k : Nat) : Option Nat :=
  some (if b < 8 then nbits (leAt bs (k * b / 8) 1) (k * b % 8) b else leAt bs (k * b / 8) (b / 8))
/-- Element k of sparse records: absent, or the slot that the bits below it count out. -/
def sparseElem (bs : List Byte) (b k : Nat) : Option Nat :=
  let rec' := k / 64 * (8 + 8 * b)
  let map : BitVec 64 := BitVec.ofNat 64 (leAt bs rec' 8)
  if map.getLsbD (k % 64) then
    let n := popcN map (k % 64)
    some (leAt bs (rec' + 8 + n * (b / 8)) (b / 8))
  else none

/-- What a cell multiplies: an element with its scale and special applied (06 R94, R96). -/
def elemValue (code : Nat) (scaled : Bool) (sc sp x : Nat) : FVal :=
  if code = 6 then nx4Val sc sp x
  else
    let v := decodeCode code x
    if !scaled then v else if sc = 0xFF then .nan false else scaleV ((sc : Nat) - 127 : Int) v

def rowElem (p : Pass) (bs : List Byte) (k : Nat) : Option Nat :=
  if passSparseA p.op then sparseElem bs (elemBits (passA' p.op)) k else denseElem bs (elemBits (passA' p.op)) k
/-- Scale and special of a row in block b. -/
def rowScale (r : PassRow) (b : Nat) : Nat × Nat :=
  match r.scales[b]? with
  | some x => (x.1.toNat, x.2.toNat)
  | none => (127, 0)
/-- Scale and special of column n in block b: byte n div 32 of slot n mod 32, or byte 0 of slot 0 (10 R170). -/
def colScale (p : Pass) (n b : Nat) : Nat × Nat :=
  let slot := if p.uni then 0 else n % 32
  let byte := if p.uni then 0 else n / 32
  match p.bScale[b]? with
  | some x => ((byteOf ((x.1[slot]?).getD 0x7F7F7F7F#32) byte).toNat, (byteOf ((x.2[slot]?).getD 0) byte).toNat)
  | none => (127, 0)

/-- An aligned word of tile memory as a clock of the pass reads it: where copies wrote it meanwhile, any value it held or
the one it holds (06 R95). A word is read in one clock of a k-step. -/
def tileWordChoice (s : State) (p : Pass) (n o : Nat) : Option Word :=
  if p.oldB.isEmpty then none
  else
    let at' := n * 16384 + o / 4
    let olds := p.oldB.filter (fun w => w.1 == at')
    (olds[free s (2 ^ 40 + (p.id * 2 ^ 20 + p.done) * 2 ^ 24 + at') % (olds.length + 1)]?).map (fun w => w.2)
def passTileByte (s : State) (p : Pass) (n o : Nat) : Byte :=
  match tileWordChoice s p n o with
  | some w => byteOf w (o % 4)
  | none => tileGet s p.gen p.quad n o
/-- Column n's bytes of a region from byte `o` on. -/
def colBytes (s : State) (p : Pass) (n o len : Nat) : List Byte :=
  (span (p.bOfs + o) len).map (fun x => passTileByte s p n x)
def colBad (s : State) (p : Pass) (n o len : Nat) : Bool := mBad s (tileKey p.gen p.quad n (p.bOfs + o)) len

/-- The key of byte o of a row of an `.AS` array. -/
def asKey (p : Pass) (base : Nat) (r : PassRow) (o : Nat) : Nat := memKey .shm p.coach (base + r.row * r.bytes.length + o)
/-- A row as the pass reads it at this turn: each word of an `.AS` array holds the value it was last read with or the one
it holds now (10 R172). -/
def rowNow (s : State) (p : Pass) (r : PassRow) : PassRow :=
  match p.aAddr with
  | none => r
  | some base =>
    let log := logOf s [p.cid]
    let fresh (w : Nat) : Bool := free s (2 ^ 80 + (p.id * 2 ^ 20 + p.done) * 2 ^ 24 + r.row * 2 ^ 12 + w) % 2 != 0
    { r with
      bytes := ((span 0 r.bytes.length).zip r.bytes).map (fun b =>
        if fresh (b.1 / 4) then ((seeBytes s p.cid log [asKey p base r b.1])[0]?).getD 0 else b.2)
      bad := (span 0 (r.bytes.length / 4)).filter (fun w =>
        if fresh w then seeBad s p.cid log [asKey p base r (4 * w)] else r.bad.contains w) }

/-! ## Summation (06 R96, R98, R99) -/

/-- A product and its event. -/
def cellMul (a b : FVal) : FVal × DWord :=
  let r := mulV a b
  (r.1, flagA r.2 aINV)
/-- The exact sum of many values: any NaN, or infinities of both signs, give a NaN. -/
def sumVals (ts : List FVal) : FVal :=
  if ts.any FVal.isNan || (ts.any (fun t => t == .inf false) && ts.any (fun t => t == .inf true)) then .nan false
  else
    match ts with
    | [] => .fin false 0 0
    | t :: r => r.foldl (fun a b => (addV .rne a b).1) t

/-- Infinities of both signs among products: INV, unless the partial is infinite or a NaN already and only propagates
(06 R99). -/
def bothInf (part : FVal) (ps : List FVal) : Bool :=
  part.isFin && ps.any (fun t => t == .inf false) && ps.any (fun t => t == .inf true)
/-- One clock: the partial and the present products, one rounding. -/
def clock (part : FVal) (prods : List (FVal × DWord)) : FVal × DWord :=
  let x := sumVals (part :: prods.map (fun q => q.1))
  let r := round26 x
  (r, prods.foldl (fun g q => g ||| q.2) (flagA (bothInf part (prods.map (fun q => q.1))) aINV) |||
    flagA (x.isFin && r.isInf) aOVF)

/-- A narrow k-step: clocks of P products in ascending k, then the promotion into FP32. -/
def narrowStep (pp : Nat) (prods : List (Option (FVal × DWord))) (acc : Nat) : Nat × DWord :=
  let cl := (chunksN pp prods.length prods).foldl (fun (st : FVal × DWord) c =>
    let r := clock st.1 (c.filterMap id)
    (r.1, st.2 ||| r.2)) (.fin false 0 0, 0)
  let x := sumVals [decodeF fmtF32 acc, cl.1]
  let r := roundNe fmtF32 x
  (r, cl.2 ||| flagA (x.isFin && (decodeF fmtF32 r).isInf) aOVF)

/-- A fused step of R98. -/
def fusedStep (F : Fmt) (prod : FVal × DWord) (acc : Nat) : Nat × DWord :=
  let x := sumVals [decodeF F acc, prod.1]
  let r := roundNe F x
  (r, prod.2 ||| flagA (x.isFin && (decodeF F r).isInf) aOVF)
def fusedSteps (F : Fmt) (prods : List (FVal × DWord)) (acc : Nat) : Nat × DWord :=
  prods.foldl (fun st q =>
    let r := fusedStep F q st.1
    (r.1, st.2 ||| r.2)) (acc, 0)

/-- An INT8 step: mod 2^32, OVF where the exact sum lies outside the signed range. -/
def intSteps (prods : List Int) (acc : Nat) : Nat × DWord :=
  prods.foldl (fun st q =>
    let x := (BitVec.ofNat 32 st.1).toInt + q
    ((BitVec.ofInt 32 x).toNat, st.2 ||| flagA (x < loLim false 32 || hiLim false 32 < x) aOVF)) (acc, 0)

/-- Values of a row and of a column over a k-step: the k of each element with its value, absent ones none. -/
def rowVals (p : Pass) (r : PassRow) (bs : List Byte) (k0 n : Nat) : List (Option FVal) :=
  (span k0 n).map (fun k => (rowElem p bs k).map (fun x =>
    elemValue (passA' p.op) (passScaled p.op) (rowScale r (k / 32)).1 (rowScale r (k / 32)).2 x))
def colVals (s : State) (p : Pass) (n k0 len : Nat) : List (Option FVal) :=
  let b := elemBits (passB' p.op)
  let bs := if passSparseB p.op then colBytes s p n (k0 / 64 * 136) (len / 64 * 136) else colBytes s p n (k0 * b / 8) (len * b / 8)
  (span 0 len).map (fun k =>
    (if passSparseB p.op then sparseElem bs b k else denseElem bs b k).map (fun x =>
      elemValue (passB' p.op) (passScaled p.op) (colScale p n ((k0 + k) / 32)).1 (colScale p n ((k0 + k) / 32)).2 x))
def prodOf : Option FVal × Option FVal → Option (FVal × DWord)
  | (some a, some b) => some (cellMul a b)
  | _ => none

/-- The signed or unsigned integers of the INT8 mode. -/
def rowInts (p : Pass) (bs : List Byte) (k0 n : Nat) : List Int :=
  (span k0 n).map (fun k => intOf (passA' p.op == 11) (BitVec.ofNat 8 ((rowElem p bs k).getD 0)))
def colInts (s : State) (p : Pass) (n k0 len : Nat) : List Int :=
  (colBytes s p n k0 len).map (fun x => intOf (passB' p.op == 11) x)

/-- Matching pairs of one k-block: the first sixteen are booked, the rest excess (06 R103). -/
def pairsOf (a b : List (Option FVal)) : List (FVal × DWord) := (a.zip b).filterMap prodOf

/-- One cell of k-step i: its accumulator code and the events of it; for MMSS also its excess pairs of phase 1. -/
def cellStep (s : State) (p : Pass) (i : Nat) (a : List (Option FVal)) (ai : List Int) (n acc : Nat) :
    Nat × DWord × Nat :=
  let len := stepLen p
  match p.op with
  | .i8 _ _ =>
    let r := intSteps ((ai.zip (colInts s p n (i * len) len)).map (fun q => q.1 * q.2)) acc
    (r.1, r.2, 0)
  | .ssBf16 =>
    let blk := i % (p.kLen / 64)
    let pairs := pairsOf a (colVals s p n (blk * 64) 64)
    let r := fusedSteps fmtF32 (if i < p.kLen / 64 then pairs.take 16 else pairs.drop 16) acc
    (r.1, r.2, if i < p.kLen / 64 then pairs.length - 16 else 0)
  | op =>
    let prods := (a.zip (colVals s p n (i * len) len)).map prodOf
    match passP op with
    | some pp =>
      let r := narrowStep pp prods acc
      (r.1, r.2, 0)
    | none =>
      let r := fusedSteps (if op == .f64 then fmtF64 else fmtF32) (prods.filterMap id) acc
      (r.1, r.2, 0)

/-- NANIN of a k-step: an element, special or scale of an active row or column is a NaN (06 R99). -/
def nanIn (s : State) (p : Pass) (r : PassRow) (i : Nat) (a : List (Option FVal)) : Bool :=
  let len := stepLen p
  let k0 := if p.op == .ssBf16 then i % (p.kLen / 64) * 64 else i * len
  let isN (v : Option FVal) : Bool :=
    match v with
    | some x => x.isNan
    | none => false
  let badSc (x : Nat × Nat) : Bool :=
    passScaled p.op && (x.1 == 0xFF || (p.op == .nx4 && (decodeF fmtE4M3 x.2).isNan))
  let blocks := span (k0 / 32) (len / 32)
  let intMode : Bool :=
    match p.op with
    | .i8 _ _ => true
    | _ => false
  !intMode && (a.any isN || blocks.any (fun b => badSc (rowScale r b)) ||
    (span 0 128).any (fun n => (colVals s p n k0 len).any isN || blocks.any (fun b => badSc (colScale p n b))))

/-! ## One k-step of a pass -/

/-- What a row's step produces: the 128 codes, the events, the excess pairs, the poisoned columns. -/
structure RowStep where
  codes : List Nat
  events : DWord
  excess : Nat
  bad : List Nat
  deriving DecidableEq, Repr

def accCode (s : State) (p : Pass) (place : Nat) (r : PassRow) (n : Nat) : Nat :=
  if p.op == .rk then (cget p.scores (place * 128 + n)).toNat
  else sumGet s r.home p.acc (p.op == .f64) r.row n

def rowStep (s : State) (p : Pass) (i place : Nat) (r : PassRow) : RowStep :=
  let len := stepLen p
  let blk := if p.op == .ssBf16 then i % (p.kLen / 64) * 64 else i * len
  let r := rowNow s p r
  let bs := r.bytes
  let a := rowVals p r bs blk len
  let ai := rowInts p bs blk len
  let cells := (span 0 128).map (fun n => cellStep s p i a ai n (accCode s p place r n))
  let b := elemBits (passB' p.op)
  let bOff := if passSparseB p.op then blk / 64 * 136 else blk * b / 8
  let bLen := if passSparseB p.op then len / 64 * 136 else len * b / 8
  { codes := cells.map (fun c => c.1)
    events := cells.foldl (fun g c => g ||| c.2.1) 0 ||| flagA (nanIn s p r i a) aNANIN
    excess := sumNat (cells.map (fun c => c.2.2))
    bad := if !r.bad.isEmpty then span 0 128 else (span 0 128).filter (fun n => colBad s p n bOff bLen) }

def onPass (s : State) (id : Nat) (f : Pass → Pass) : State :=
  { s with passes := s.passes.map (fun p => if p.id = id then f p else p) }
/-- The k-th pass reads words of its `.AS` array: at any time between issue and write-back (10 R172). -/
def passTurn (s : State) (k : Nat) : State :=
  match s.passes[k]? with
  | none => s
  | some p => onPass s p.id (fun q => { q with rows := q.rows.map (rowNow s q) })

/-- Store a row's results: into the tile, or into MMRK's scores. -/
def putRow (s : State) (p : Pass) (place : Nat) (r : PassRow) (x : RowStep) : State :=
  let els := (span 0 128).zip x.codes
  let s := raiseAcc s r.home p.acc x.events
  let s := onPass s p.id (fun q => { q with excess := q.excess + x.excess })
  if p.op == .rk then
    onPass s p.id (fun q => { q with
      scores := csetAll q.scores (els.map (fun e => (place * 128 + e.1, BitVec.ofNat 32 e.2)))
      scoreBad := csetAll q.scoreBad (x.bad.map (fun n => (place * 128 + n, 1))) })
  else
    let f64 := p.op == .f64
    markA (putCells s (els.flatMap (fun e => elemCells r.home p.acc f64 r.row e.1 e.2)))
      (x.bad.flatMap (fun n => (elemCells r.home p.acc f64 r.row n 0).map (fun c => c.1))) true

/-- k-step i over every active row. -/
def passStep (id : Nat) (s : State) (i : Nat) : State :=
  match s.passes.find? (fun p => p.id == id) with
  | none => s
  | some p =>
    let out := ((span 0 p.rows.length).zip p.rows).map (fun r => (r.1, r.2, rowStep s p i r.1 r.2))
    let more := out.any (fun o => o.2.2.excess != 0)
    onPass (out.foldl (fun s o => putRow s p o.1 o.2.1 o.2.2) s) id (fun q => { q with
      done := i + 1, overAt := if more then q.overAt ++ [i] else q.overAt })

/-- Rows of a .Z pass start from zero (10 R173). -/
def zeroRows (s : State) (p : Pass) : State :=
  let f64 := p.op == .f64
  let keys := p.rows.flatMap (fun r => (span 0 128).flatMap (fun n => (elemCells r.home p.acc f64 r.row n 0)))
  markA (putCells s keys) (keys.map (fun c => c.1)) false

/-- Run `n` k-steps of a pass from where it stands. -/
def runSteps (s : State) (p : Pass) (n : Nat) : State :=
  let s := if p.done = 0 && p.zero && n != 0 then zeroRows s p else s
  (span p.done n).foldl (passStep p.id) s

/-! ## Write-back (06 R104, 07 R117, 10 R175) -/

/-- The offers of MMRK: list and entry of each score (07 R117). -/
def rankOffers (p : Pass) (home : Nat) (col : Bool) : List (Nat × Entry × Bool) :=
  ((span 0 p.rows.length).zip p.rows).flatMap (fun r =>
    if r.2.home ≠ home then []
    else (span 0 128).map (fun n =>
      let key := r.1 * 128 + n
      (if col then n else r.2.row,
        (cget p.scores key, p.base + BitVec.ofNat 32 (if col then r.2.row else n)),
        cget p.scoreBad key == 1)))

def offerScores (s : State) (p : Pass) : State :=
  p.homes.foldl (fun s h =>
    (rankOffers p h (accCol (accWord s h p.acc))).foldl (fun s o =>
      let s := offerAll s h p.acc o.1 [o.2.1]
      if o.2.2 then markA s (listKeys h p.acc o.1) true else s) s) s

/-- The entry frees; MMSS's handle becomes DONE with EXCESS. -/
def writeBack (s : State) (id : Nat) : State :=
  match s.passes.find? (fun p => p.id == id) with
  | none => s
  | some p =>
    let s := if p.op == .rk then offerScores s p else s
    let s := if p.op == .ssBf16 then doneToken s p.id p.tok (BitVec.ofNat 64 (min p.excess (2 ^ 32 - 1))) else s
    { s with passes := s.passes.filter (fun q => q.id != id) }

/-! ## The arbiter (19 R309, R311, R315) -/

/-- The lowest-numbered unfinished coach of a running launch. -/
def guaranteed (s : State) (coach : Nat) : Bool :=
  match coach? s coach with
  | none => false
  | some k =>
    match launch? s k.launch with
    | none => false
    | some l => isLowest l k

/-- Cycles a pass has waited: since its posting, but for those it held the array (19 R309). -/
def passWait (s : State) (p : Pass) : Nat := s.cyc - p.posted - p.ran
def passPrio (s : State) (p : Pass) : Nat :=
  if guaranteed s p.coach then 8 else min 7 (p.prio + passWait s p / 4096)
/-- Before in the order of grants: higher effective priority first (R315). Among equals the passes over the B just read
follow one another (20 R321, DEDUCED, log 128), then posting cycle, then quad core rank. -/
def passFirst (s : State) (a b : Pass) : Bool :=
  let x := passPrio s a
  let y := passPrio s b
  if x ≠ y then y < x
  else if a.follow ≠ b.follow then a.follow
  else if a.posted ≠ b.posted then a.posted < b.posted
  else if a.rank ≠ b.rank then a.rank < b.rank else a.id ≤ b.id

def quadPasses (s : State) (quad : Nat) : List Pass := s.passes.filter (fun p => p.quad == quad)
def runningPass (s : State) (quad : Nat) : Option Pass := (quadPasses s quad).find? (fun p => p.running)
def waitingPasses (s : State) (quad : Nat) : List Pass :=
  sortBy (passFirst s) ((quadPasses s quad).filter (fun p => !p.running))

/-- The loop whose window an instance's pass belongs to. -/
def passLoop (s : State) (p : Pass) : Option Nat :=
  (s.loops.find? (fun l => l.insts.any (fun x => x.cid == p.cid))).map (fun l => l.cid)
/-- The opcodes of two passes are equal: MMA.I8 is one opcode whatever its signs (10 R173). -/
def sameOpcode : PassOp → PassOp → Bool
  | .i8 _ _, .i8 _ _ => true
  | a, b => a == b
/-- Passes of instances of one window over the same B, with the same opcode, K and I (20 R321). -/
def sameB (s : State) (p q : Pass) : Bool :=
  (passLoop s p).isSome && passLoop s p == passLoop s q && p.quad == q.quad && p.gen == q.gen && p.bOfs == q.bOfs &&
    sameOpcode p.op q.op && p.kLen == q.kLen && p.interval == q.interval
def execPassGrant (quad : Nat) (s : State) : Out :=
  .next (match runningPass s quad, waitingPasses s quad with
    | none, p :: _ =>
      { s with passes := s.passes.map (fun q =>
          if q.id = p.id then { q with running := true, follow := false, held := passPrio s p, granted := s.cyc }
          else if !q.running && sameB s p q then { q with follow := true } else q) }
    | _, _ => s)

/-- Every k-step is done; of MMSS's second phase only k-blocks with an excess pair count (06 R103). -/
def passEnded (p : Pass) : Bool :=
  p.done == stepCount p || (p.op == .ssBf16 && p.kLen / 64 ≤ p.done && p.overAt.all (fun b => p.kLen / 64 + b < p.done))
/-- A running pass comes to a boundary after `n` k-steps and leaves the array there; where nothing is left it has ended. -/
def stopPass (s : State) (p : Pass) (n : Nat) : State :=
  let t := runSteps s p n
  if (t.passes.find? (fun q => q.id == p.id)).any passEnded then writeBack t p.id
  else onPass t p.id (fun q => { q with running := false, ran := q.ran + (s.cyc - q.granted) })

/-- The running pass has gone on to a k-step boundary before its last, and stops there for a higher priority. -/
def execPassOvertake (quad : Nat) (s : State) : Out :=
  .next (match runningPass s quad, waitingPasses s quad with
    | some p, w :: _ =>
      let held := if guaranteed s p.coach then 8 else p.held
      let left := stepCount p - p.done
      if held < passPrio s w && 2 ≤ left then
        stopPass s p (1 + free s 6 % (left - 1))
      else s
    | _, _ => s)

/-- Pre-emption stops the running passes of a coach at a k-step boundary, which may be their end (06 R106). -/
def stopPasses (s : State) (coach : Nat) : State :=
  ((s.passes.filter (fun p => p.running && p.coach == coach))).foldl (fun s p =>
    let left := stepCount p - p.done
    stopPass s p (min left (1 + free s (0x5000 + p.id) % max 1 left))) s

def execPassWriteback (quad : Nat) (s : State) : Out :=
  .next (match runningPass s quad with
    | some p => writeBack (runSteps s p (stepCount p - p.done)) p.id
    | none => s)

/-! ## Tokens -/

/-- A new token of the moving carriage for handle h, and the carriage's count of engine instructions. -/
def issueToken (s : State) (op h : Nat) (tf : Bool) : DWord × State :=
  let ctag := match ownCoach s with
    | some k => k.ctag
    | none => 0
  let tok := mkToken s.self.seq ctag s.self.index h
  (tok, onSelf s (fun c => { pendHandle c h op tok tf c.pc with seq := c.seq + 1 }))

end Sys2Proof.Machine
end

