-- ==== Sys2Proof/Machine/Order.lean ====
section
/-! DEFINITION. Where engine operations access memory, and what the consistency model puts before them (12 R199-R208). -/
namespace Sys2Proof.Machine

/-! ## Ranges of the space codes (16 R267): 0 global, 1 shared memory, 2 scratchpad, 3 the other die's scratchpad -/

abbrev Range := Nat × Nat × Nat

/-- Where an operation issues from; the unit that translates for it, and its mismatch record. -/
structure EngAt where
  cid : Nat
  homes : List Nat
  coach : Nat
  core : Nat
  world : Bool
  space : BitVec 16
  eng : Nat
  blk : Nat
  /-- The step of its request. -/
  since : Nat
  deriving DecidableEq, Repr

def engSelf (s : State) : EngAt :=
  { cid := s.self.id, homes := homesOf s.self, coach := s.self.coach, core := s.self.core, world := s.self.world, space := s.self.space
    eng := engCopy s.self.core, blk := mmCore s.self.core, since := s.tick }
/-- The world of an Akbex port and its sequencer (22 R353). -/
def portWorld (s : State) (p : Nat) : Bool := (rsys s 0 5 0x010).getLsbD p
/-- The sequencer of a port translates for its collectives, the routing engine of the die for a ROUTE, else the copy
engine of the core. -/
def engOf (o : EngOp) : EngAt :=
  let u : Nat × Nat := match o.kind with
    | .coll _ p => (3072 + p, mmPort p)
    | .route _ _ => (engRoute (dieOf o.core), mmRoute (dieOf o.core))
    | _ => (engCopy o.core, mmCore o.core)
  { cid := o.cid, homes := o.homes, coach := o.coach, core := o.core, world := o.world, space := o.space, eng := u.1, blk := u.2, since := o.asked }

/-- The die whose scratchpad a code names. -/
def codeDie (e : EngAt) (code : Nat) : Nat := if code = 3 then 1 - dieOf e.core else dieOf e.core
/-- A scratchpad range: no byte of the other world's part or of the spill area. -/
def scrRangeOk (s : State) (world : Bool) (die a n : Nat) : Bool :=
  scrOk s world die a && scrOk s world die (a + n - 1) && (a + n ≤ Config.spillLo || Config.spillHi ≤ a)
/-- A range of a local space lies within it. -/
def rangeIn (s : State) (e : EngAt) (r : Range) : Bool :=
  r.2.2 == 0 || (match r.1 with
    | 0 => true
    | 1 => r.2.1 + r.2.2 ≤ shmSize s e.coach
    | _ => scrRangeOk s e.world (codeDie e r.1) r.2.1 r.2.2)
def rangeKey (e : EngAt) (r : Range) : Nat :=
  if r.1 = 1 then memKey .shm e.coach r.2.1 else memKey .scr (codeDie e r.1) r.2.1
/-- Lines of the ranges that ownership covers. -/
def rangeLines (e : EngAt) (rs : List Range) : List Nat :=
  nubNat (rs.flatMap (fun r => if r.1 = 1 || r.1 = 2 then linesTouched (rangeKey e r) r.2.2 else []))

/-- Two ranges of virtual addresses meet. -/
def rangesMeet (xs ys : List (Nat × Nat)) : Bool :=
  xs.any (fun x => ys.any (fun y => x.1 < y.1 + y.2 && y.1 < x.1 + x.2))
def globOf (rs : List Range) : List (Nat × Nat) :=
  rs.filterMap (fun r => if r.1 = 0 && r.2.2 != 0 then some (r.2.1, r.2.2) else none)
/-- Address of the score of token t for expert e (07 R120). -/
def scoreAt (d : RouteDesc) (t e : Nat) : Nat :=
  (d.score + BitVec.ofNat 64 t * d.tstride + BitVec.ofNat 64 e * d.estride).toNat
def routeReads (d : RouteDesc) : List (Nat × Nat) :=
  (span 0 d.t).flatMap (fun t => (span 0 d.e).map (fun e => (scoreAt d t e, 4)))
/-- The outputs of a ROUTE at their largest (07 R124). -/
def routeWrites (d : RouteDesc) : List (Nat × Nat) :=
  let rows := if d.expert then d.e else d.t
  [(d.idxOut.toNat, 4 * d.k * rows), (d.wgtOut.toNat, 4 * d.k * rows), (d.hist.toNat, 4 * d.e), (d.resid.toNat, 4 + 4 * d.t)]
/-- Global ranges an operation reads, and those it writes. -/
def globReads (o : EngOp) : List (Nat × Nat) :=
  match o.kind with
  | .copy src _ => globOf src
  | .copyT _ daddr _ _ _ _ _ => [(daddr, 64)]
  | .tileT _ _ _ tb _ => [(tDaddr tb, 64)]
  | .tileCopy true _ _ _ _ _ _ _ rows n => rows.map (fun a => (a, n))
  | .cart c => [(c.daddr, 64)]
  | .amog a _ w _ _ _ _ => [(a, if w then 8 else 4)]
  | .route d _ => routeReads d
  | .coll blk _ => [(blk, 128)]
  | _ => []
def globWrites (o : EngOp) : List (Nat × Nat) :=
  match o.kind with
  | .copy _ dst => globOf dst
  | .tileCopy false _ _ _ _ _ _ _ rows n => rows.map (fun a => (a, n))
  | .amog a _ w _ _ _ _ => [(a, if w then 8 else 4)]
  | .sigW a _ => [(a, 8)]
  | .route d _ => routeWrites d
  | _ => []

/-! ## Locations of global memory and of the other die's scratchpad: physical bytes (12 R200) -/

def spotsOf (s : State) (e : EngAt) (rs : List (Nat × Nat)) : List (Nat × Nat) :=
  rs.flatMap (fun r => (piecesOf r.1 r.2).filterMap (fun p =>
    match leafFor s e.eng e.world e.space p.1 with
    | .ok l => some (targetKey (leafTarget l.1 l.2 p.1), p.2)
    | .error _ => none))
def farOf (e : EngAt) (rs : List Range) : List (Nat × Nat) :=
  rs.filterMap (fun r => if r.1 = 3 && r.2.2 != 0 then some (rangeKey e r, r.2.2) else none)

/-! ### Rows of carts -/

def tGat : Nat := 1
def tGatp : Nat := 2
def tSca : Nat := 3
def tScaa : Nat := 4

/-- The virtual address of a row. -/
def rowVa (h : CartHead) (row : Nat) : Nat := (h.base.toNat + row * h.stride) % 2 ^ 64
def rowSpan (h : CartHead) (row : Nat) : List (Nat × Nat) := piecesOf (rowVa h row) h.rowBytes
/-- Where the rows lie that a formed cart has not had its replies for. -/
def cartSpots (s : State) (c : Cart) : List (Nat × Nat) :=
  if c.sent && c.await == 0 then []
  else c.entries.flatMap (fun en =>
    let pkg := (c.map[en.slot]?).getD 0
    (rowSpan c.head en.row).filterMap (fun r =>
      match walkP s pkg c.head.world c.head.space r.1 with
      | .ok l => some (memKey .hbm pkg (pteAddr l.1 + r.1 % 2 ^ l.2), r.2)
      | .error _ => none))

/-! ### Pools: an operation on a pool may reach whatever the pool holds -/

def poolReg (s : State) (n off : Nat) : DWord := rsys s 0 3 (0x100 * n + off)
def pcfg (s : State) (n : Nat) : DWord := poolReg s n 0x20
def poolPages (s : State) (n : Nat) : Nat := field (pcfg s n) 32 24
/-- The key of a physical address of this package's HBM. -/
def hk (a : Nat) : Nat := memKey .hbm Config.ownPackage (a % 2 ^ 39)
def keyPool (k : DWord) : Nat := field k 52 4
/-- A pool's pages, their metadata, its prefix index, and the entries of its sequences with their tables. -/
def poolSpots (s : State) (n : Nat) (seqs : List Nat) : List (Nat × Nat) :=
  let at' (off : Nat) : Nat := hk (poolReg s n off).toNat
  let entry (q : Nat) : Nat := (poolReg s n 0x10).toNat + 64 * q
  let num (a k : Nat) : Nat := mnum s (hk a) k
  [(at' 0, 65536 * poolPages s n), (at' 8, 256 * poolPages s n), (at' 0x18, 4352 * 2 ^ field (pcfg s n) 24 8)] ++
    seqs.flatMap (fun q => [(hk (entry q), 64), (hk (num (entry q + 8) 8), 4 * num (entry q + 0x10) 4 * (num (entry q + 4) 1 + 1))])
/-- Where a sequence-cache operation accesses memory, and whether it writes there. -/
def kvSpots (s : State) (o : EngOp) : Bool × List (Nat × Nat) :=
  match o.kind with
  | .kvapp n q _ _ _ _ _ _ _ => (true, poolSpots s n [q])
  | .kvfork n q d _ => (true, poolSpots s n [q, d])
  | .kvfree n q none => (true, poolSpots s n [q])
  | .kvfree n _ (some _) => (true, poolSpots s n [])
  | .kvmap ks _ => (false, (ks.map (fun k => k.2)).flatMap (fun k => poolSpots s (keyPool k) [field k 32 20]))
  | .pfxf n _ (some x) _ => (true, poolSpots s n [x.1])
  | .pfxf n _ none _ => (false, poolSpots s n [])
  | .pfxi n _ _ _ => (true, poolSpots s n [])
  | .pgchk n _ => (true, poolSpots s n [])
  | _ => (false, [])

/-! ### Collectives: what the steps of the program may touch -/

def coll? (s : State) (id : Nat) : Option Coll := s.colls.find? (fun c => c.id == id)
def stOp (w : DWord) : Nat := field w 60 4
def stOper (w : DWord) : Nat := field w 57 3
def stBuf (w : DWord) : Nat := field w 54 3
def stDist (w : DWord) : Int := (w.extractLsb' 42 12).toInt
def stIdx (w : DWord) : Bool := w.getLsbD 41
def stLc (w : DWord) : Nat := field w 39 2
def stOfs (w : DWord) : Nat := field w 25 14
def stLen (w : DWord) : Nat := field w 13 12
def stFlag (w : DWord) : Bool := w.getLsbD 12
def stAux (w : DWord) : Nat := field w 0 12

def lcOf (c : Coll) (i : Nat) : Nat := (c.lcs[i]?).getD 0
def bufOf (c : Coll) (i : Nat) : Nat := (c.bufs[i]?).getD 0
/-- The step words from an address to the program's END. -/
def stepWords (s : State) (e : EngAt) : Nat → Nat → List DWord
  | 0, _ => []
  | n + 1, va =>
    match leafFor s e.eng e.world e.space va with
    | .error _ => []
    | .ok l =>
      let w : DWord := BitVec.ofNat 64 (mnum s (targetKey (leafTarget l.1 l.2 va)) 8)
      if stOp w = 0 then [] else w :: stepWords s e n (va + 8)
/-- The largest extent of a step's chunk: a loop counter stays below the count of a LOOP on it. -/
def stepExtent (c : Coll) (ws : List DWord) (w : DWord) : List (Nat × Nat) :=
  let laps := ((ws.filter (fun x => stOp x == 6 && stLc x == stLc w)).map (fun x => stLen x - 1)).foldl max (lcOf c (stLc w))
  let at' := 4096 * stOfs w
  let n := 64 * stLen w * (if stIdx w then laps + 1 else 1)
  match stOp w with
  | 4 => [(bufOf c (stBuf w) + at', n), (bufOf c (field w 42 3) + at', n)]
  | 5 => []
  | 6 => []
  | _ => [(bufOf c (stBuf w) + at', n)]
def collSpots (s : State) (o : EngOp) : List (Nat × Nat) :=
  match coll? s o.id with
  | none => []
  | some c =>
    let ws := stepWords s (engOf o) 4096 c.prog
    spotsOf s (engOf o) (ws.flatMap (stepExtent c ws))

/-! ### All of them -/

def readSpots (s : State) (o : EngOp) : List (Nat × Nat) :=
  spotsOf s (engOf o) (globReads o) ++ (match o.kind with
    | .copy src _ => farOf (engOf o) src
    | .cart c => if c.head.typ = tSca then [] else cartSpots s c
    | .coll _ _ => collSpots s o
    | _ => (kvSpots s o).2)
def writeSpots (s : State) (o : EngOp) : List (Nat × Nat) :=
  spotsOf s (engOf o) (globWrites o) ++ (match o.kind with
    | .copy _ dst => farOf (engOf o) dst
    | .cart c => if c.head.typ ≤ 2 then [] else cartSpots s c
    | .coll _ _ => collSpots s o
    | _ => if (kvSpots s o).1 then (kvSpots s o).2 else [])
/-- HBM of this package, where R203 orders loads; peer and host memory, where stores reach each observer on their own. -/
def isHbm (key : Nat) : Bool := key / 2 ^ 48 % 8 == spaceTag .hbm && key / 2 ^ 51 == Config.ownPackage
def isFar (key : Nat) : Bool :=
  key / 2 ^ 48 % 8 == spaceTag .host || (key / 2 ^ 48 % 8 == spaceTag .hbm && key / 2 ^ 51 != Config.ownPackage)
/-- Bytes that no line of this operation's carriage's spaces holds. -/
def isGlobal (o : EngOp) (key : Nat) : Bool :=
  isHbm key || isFar key || (key / 2 ^ 48 % 8 == spaceTag .scr && key / 2 ^ 51 != dieOf o.core)

/-! ## Order (12 R202-R204, R208): what comes first -/

/-- Earlier operations of the same carriage with accesses still to perform. -/
def opsBefore (s : State) (o : EngOp) : List EngOp :=
  s.ops.filter (fun x => x.id < o.id && x.cid == o.cid && opOpen x)
/-- Earlier local accesses of the carriage that are not performed. -/
def waitsBefore (s : State) (o : EngOp) : List LocAcc :=
  s.waits.filter (fun w => w.id < o.id && w.cid == o.cid)
/-- Every earlier access of the carriage has been performed, at the operation's scope. -/
def allBefore (s : State) (o : EngOp) : Bool :=
  (opsBefore s o).isEmpty && (waitsBefore s o).isEmpty &&
    s.stale.all (fun e => !isBefore e o.cid o.id || !hiddenFrom s o.scope o.cid e)
/-- With ORDER 0b10 or 0b11 an operation's writes are a release. -/
def releaseReady (s : State) (o : EngOp) : Bool := opOrder o ≤ 1 || allBefore s o
/-- Steps 3 to 5 of R195 are a release at the instruction's SCOPE, which holds no other carriage when it is CARR. The record
and the counter step of an instance above 0 wait for its commit (16 R266; its handle with them, DEDUCED, log 139). -/
def doneReady (s : State) (o : EngOp) : Bool := (o.inst == 0 || !signals o) && (o.scope == 0 || allBefore s o)

/-! ## What comes before an operation's reads and its writes (12 R202-R204, R208) -/

/-- A range is one single-copy atomic access: 1, 2, 4 or 8 bytes, naturally aligned (12 R200). -/
def isUnit (r : Range) : Bool := (r.2.2 == 1 || r.2.2 == 2 || r.2.2 == 4 || r.2.2 == 8) && r.2.1 % r.2.2 == 0
/-- One element, RLX or stronger: the accesses of R203 in global memory. -/
def isElement (o : EngOp) : Bool :=
  (o.order != 0 && match o.kind with
    | .copy [x] [y] => isUnit x && isUnit y
    | _ => false) || (match o.kind with
    | .amog _ _ _ _ _ _ _ => true
    | _ => false)
def readsHbm (s : State) (o : EngOp) : Bool := isElement o && (readSpots s o).any (fun r => isHbm r.1)
def writesHbm (s : State) (o : EngOp) : Bool := isElement o && (writeSpots s o).any (fun r => isHbm r.1)
/-- Carts have their own order at a row (13 R222), operations on a pool at its row engine (14 R230). -/
def ordersItself (x o : EngOp) : Bool :=
  match x.kind, o.kind with
  | .cart _, .cart _ => true
  | a, b => isKv a && isKv b
where
  isKv (k : OpKind) : Bool :=
    match k with
    | .kvapp _ _ _ _ _ _ _ _ _ => true
    | .kvfork _ _ _ _ => true
    | .kvmap _ _ => true
    | .kvfree _ _ _ => true
    | .pfxf _ _ _ _ => true
    | .pfxi _ _ _ _ => true
    | .pgchk _ _ => true
    | _ => false
/-- Spots of two operations meet where R202 orders them. -/
def spotsMeet (x o : EngOp) (xs os : List (Nat × Nat)) : Bool := !ordersItself x o && rangesMeet xs os
/-- An earlier operation comes before this one's reads: its writes or open reads meet them, it is an open acquire or SC,
or both load from HBM. -/
def readsAfter (s : State) (x o : EngOp) : Bool :=
  spotsMeet x o (writeSpots s x) (readSpots s o) || (readsOpen x && spotsMeet x o (readSpots s x) (readSpots s o)) ||
    (2 ≤ opOrder x && readsOpen x) || opOrder x == 3 || (readsOpen x && readsHbm s x && readsHbm s o)
/-- An earlier operation comes before this one's writes: they meet its accesses, or HBM stores follow its load. -/
def writesAfter (s : State) (x o : EngOp) : Bool :=
  spotsMeet x o (writeSpots s x) (writeSpots s o) ||
    (readsOpen x && (spotsMeet x o (readSpots s x) (writeSpots s o) || (readsHbm s x && writesHbm s o)))
/-- A local access of the carriage comes before an operation's reads: an acquire, an SC access, or a load or SC before a
FENCE. -/
def waitHolds (s : State) (o : EngOp) : Bool :=
  let own := waitsBefore s o
  own.any (fun w => match w.act with
    | .fence => w.order == 3 || own.any (fun v => v.id < w.id && isLoadAct v.act) ||
        (opsBefore s o).any (fun x => x.id < w.id && readsOpen x)
    | a => (2 ≤ w.order.toNat && isLoadAct a) || w.order == 3)
def readsBehind (s : State) (o : EngOp) : Bool :=
  (opOrder o == 3 && !allBefore s o) || waitHolds s o || (opsBefore s o).any (fun x => readsAfter s x o)
def writesBehind (s : State) (o : EngOp) : Bool :=
  (waitsBefore s o).any (fun w => w.act == .fence) || (opsBefore s o).any (fun x => writesAfter s x o)

/-- Its reads are an acquire or in the SC order (12 R205, R206, R208). -/
def readOrder (s : State) (o : EngOp) : State :=
  if opOrder o ≤ 1 || (s.stale.isEmpty && s.syncs.isEmpty) then s
  else
    let keys := (readSpots s o).flatMap (fun r => span r.1 r.2)
    takeSync (if opOrder o = 3 then catchUp s o.cid keys else s) o.cid o.scope keys

end Sys2Proof.Machine
end

