-- ==== Sys2Proof/Machine/Engine.lean ====
section
/-! DEFINITION. Engine operations: issue with ownership of lines, reading at the grant, landing at completion, rings,
and CPY, CPYT, AMOG, SIG, CTRS, EDRN, TLD, TST (11 R192-R198, 12 R208, 16 R264-R272, R279, 10 R185, R186). -/
namespace Sys2Proof.Machine

/-! ## Bytes by key: tile bytes are stored as differences from what the window held -/

def isTileKey (key : Nat) : Bool := key / 2 ^ 48 % 8 == spaceTag .tile
def keyFill (key : Nat) : Byte :=
  if isTileKey key then Config.freeByte (key / 2 ^ 51 / 32) (key % 2 ^ 48) else 0
def getKey (s : State) (key n : Nat) : List Byte := (span key n).map (fun k => mget s k ^^^ keyFill k)

/-- A tile copy writes under a posted pass: the pass keeps the words as they stood (06 R95). -/
def keepOld (s : State) (key n : Nat) : State :=
  if !isTileKey key || s.passes.isEmpty || n = 0 then s
  else
    let idx := key / 2 ^ 51
    let words := span (key % 2 ^ 48 / 4) ((key + n - 1) / 4 - key / 4 + 1)
    { s with passes := s.passes.map (fun p =>
        if p.gen = idx / 32 && p.quad = idx % 32 then
          { p with oldB := p.oldB ++ words.map (fun w => (w, leBits 32 (getKey s (key / 2 ^ 48 * 2 ^ 48 + 4 * w) 4))) }
        else p) }
def putKey (s : State) (key : Nat) (bs : List Byte) : State :=
  mwrite (keepOld s key bs.length) key (((span key bs.length).zip bs).map (fun x => x.2 ^^^ keyFill x.1))

/-- The instance of a log that has no room is poisoned (20 R325). -/
def poisonFull (s : State) (homes : List Nat) : State :=
  if logOver s homes [] then focus (poisonInstance (focus s (homes.headD 0))) s.self.id else s
/-- What an operation writes: into the log of its instance, which may be gone (16 R266, 20 R323), or into memory. Before
its completion, in a turn that lags, a PLN write of global memory, or any write of peer or host memory but SC, is hidden
from other carriages for a while (12 R203, R207). -/
def opPut (s : State) (o : EngOp) (final : Bool) (key : Nat) (bs : List Byte) : State :=
  if o.inst ≠ 0 then poisonFull (logStore s o.homes (span key bs.length) bs false) o.homes
  else
    let t := wroteBy o.cid s (putKey s key bs)
    if !final && s.lag = 2 && isGlobal o key && (o.order == 0 || isFar key) && opOrder o != 3 then
      hide s t o.id o.cid false (span key bs.length)
    else t

/-! ## Reading -/

/-- What a run of reads gave before its first fault: the bytes, and the cause with its address. -/
structure Got where
  bytes : List Byte
  fault : Option (Cause × Nat)
  deriving DecidableEq, Repr

/-- Bytes before the first poisoned unit of a run. -/
def cleanLen (s : State) (cid : Nat) (log : List LogStore) (key n : Nat) : Nat :=
  match (unitsTouched key n).find? (fun u => seeBad s cid log [8 * u]) with
  | some u => 8 * u - key
  | none => n
/-- Read pieces in order: (key, length, address to report). -/
def readKeys (s : State) (cid : Nat) (log : List LogStore) : List (Nat × Nat × Nat) → Got
  | [] => { bytes := [], fault := none }
  | (key, n, a) :: r =>
    let m := cleanLen s cid log key n
    let bs := if log.isEmpty && s.stale.isEmpty then getKey s key m else seeBytes s cid log (span key m)
    if m < n then { bytes := bs, fault := some (.poison, a + m) }
    else
      let rest := readKeys s cid log r
      { rest with bytes := bs ++ rest.bytes }
/-- A global range, translated piece by piece. -/
def readGlob (s : State) (e : EngAt) : List (Nat × Nat) → Got
  | [] => { bytes := [], fault := none }
  | (va, n) :: r =>
    match xlate s e.eng e.world e.space va .read with
    | .error c => { bytes := [], fault := some (c, va) }
    | .ok t =>
      let one := readKeys s e.cid [] [(targetKey t, n, va)]
      if one.fault.isSome then one
      else
        let rest := readGlob s e r
        { rest with bytes := one.bytes ++ rest.bytes }
def readRange (s : State) (e : EngAt) (log : List LogStore) (r : Range) : Got :=
  if r.1 = 0 then readGlob s e (piecesOf r.2.1 r.2.2) else readKeys s e.cid log [(rangeKey e r, r.2.2, r.2.1)]
def readRanges (s : State) (e : EngAt) (log : List LogStore) : List Range → Got
  | [] => { bytes := [], fault := none }
  | r :: rest =>
    let one := readRange s e log r
    if one.fault.isSome then one
    else
      let more := readRanges s e log rest
      { more with bytes := one.bytes ++ more.bytes }

/-- A failure of the wrong world is counted at the walking block or at the row engine (22 R359, R426). -/
def noteOp (s : State) (e : EngAt) (c : Cause) (va : Nat) : State :=
  if c = .world then noteWorld s e.blk e.since e.world e.space va (leafFor s e.eng e.world e.space va) else s
def noteGot (s : State) (e : EngAt) (g : Got) : State :=
  match g.fault with
  | some (c, va) => noteOp s e c va
  | none => s

def globUp (s : State) (e : EngAt) (rs : List (Nat × Nat)) : Bool := rangesUp s e.eng e.world e.space rs

/-! ## Landing (11 R195 step 1, R198, 16 R267) -/

/-- A piece of a destination: its key, or the cause that stops it; its address; its bytes. -/
structure Piece where
  at' : Except Cause Nat
  addr : Nat
  bytes : List Byte
  deriving Repr

/-- Cut bytes along pieces of a range. -/
def cutPieces (f : Nat → Except Cause Nat) : List (Nat × Nat) → List Byte → List Piece
  | [], _ => []
  | (a, n) :: r, bs => { at' := f a, addr := a, bytes := bs.take n } :: cutPieces f r (bs.drop n)
def chunkPieces (s : State) (e : EngAt) (c : Chunk) : List Piece :=
  match c.dest with
  | .loc key => [{ at' := .ok key, addr := key % 2 ^ 48, bytes := c.bytes }]
  | .glob va =>
    cutPieces (fun a =>
      match xlate s e.eng e.world e.space a .write with
      | .ok t => .ok (targetKey t)
      | .error x => .error x) (piecesOf va c.bytes.length) c.bytes

def pieceBytes (ps : List Piece) : Nat := sumNat (ps.map (fun p => p.bytes.length))
/-- Offset, cause and address of the first piece that cannot be written. -/
def firstFail : Nat → List Piece → Option (Nat × Cause × Nat)
  | _, [] => none
  | off, p :: r =>
    match p.at' with
    | .error c => some (off, c, p.addr)
    | .ok _ => firstFail (off + p.bytes.length) r

/-- Bytes at or beyond `n` are undefined (00 R3). -/
def upTo (s : State) (n off key : Nat) (bs : List Byte) : List Byte :=
  if off + bs.length ≤ n then bs
  else ((span off bs.length).zip bs).map (fun x =>
    if x.1 < n then x.2 else Config.freeByte s.tick (key + x.1 - off))
/-- The runs of consecutive keys among bytes with their keys. -/
def runsOf : List (Nat × Byte) → List (Nat × List Byte)
  | [] => []
  | (k, b) :: r =>
    match runsOf r with
    | [] => [(k, [b])]
    | (j, bs) :: t => if j = k + 1 then (k, b :: bs) :: t else (k, [b]) :: (j, bs) :: t
/-- The runs of consecutive bytes whose keys satisfy a test. -/
def runsWhere (ok : Nat → Bool) (k : Nat) (bs : List Byte) : List (Nat × List Byte) :=
  runsOf (((span k bs.length).zip bs).filter (fun x => ok x.1))
/-- Land pieces but for the bytes that landed early; those at or beyond `n` are undefined. -/
def putPieces (o : EngOp) (n : Nat) : Nat → List Piece → State → State
  | _, [], s => s
  | off, p :: r, s =>
    let s := match p.at' with
      | .error _ => s
      | .ok key =>
        let bs := upTo s n off key p.bytes
        if o.early.isEmpty then opPut s o true key bs
        else (runsWhere (fun k => !o.early.contains k) key bs).foldl (fun s x => opPut s o true x.1 x.2) s
    putPieces o n (off + p.bytes.length) r s
/-- Land all pieces, as one write with what landed early. -/
def landPieces (o : EngOp) (n : Nat) (ps : List Piece) (s : State) : State :=
  let t := putPieces o n 0 ps s
  if o.early.isEmpty then t else ofWrite t s.past.length o.id true

/-! ## Tile copies (10 R185, R186) -/

/-- Elements of b bits, and the bytes they pack into. -/
def unpackElems (b n : Nat) (bs : List Byte) : List Nat := (span 0 n).map (fun k => (denseElem bs b k).getD 0)
def packElems (b : Nat) (xs : List Nat) : List Byte :=
  if b < 8 then (chunksN 2 xs.length xs).map (fun p => BitVec.ofNat 8 (p.headD 0 + 16 * (p.drop 1).headD 0))
  else xs.flatMap (fun x => leBytes (b / 8) x)
/-- Sequences of m elements turned into m sequences. -/
def swapElems (b m : Nat) (qs : List (List Byte)) : List (List Byte) :=
  let es := qs.map (unpackElems b m)
  (span 0 m).map (fun i => packElems b (es.map (fun e => (e[i]?).getD 0)))

/-- The chunks of a region's 128 slices. -/
def sliceChunks (gen quad ofs : Nat) (cols : List (List Byte)) : List Chunk :=
  ((span 0 cols.length).zip cols).map (fun c => { dest := .loc (tileKey gen quad c.1 ofs), bytes := c.2 })

/-- The slices a TLD writes, from the rows it read: a fault that stopped the rows leaves every slice unfinished, and what
it holds undefined, unless the rows are slices. -/
def tldChunks (s : State) (tposed : Bool) (b k gen quad ofs : Nat) (rows : List (List Byte)) (whole : Bool) : List Chunk :=
  if tposed then sliceChunks gen quad ofs rows
  else
    (sliceChunks gen quad ofs (swapElems b 128 rows)).map (fun c => match c.dest with
      | .loc key => if whole then c else { c with bytes := (span key (k * b / 8)).map (fun x => Config.freeByte s.tick x) }
      | .glob _ => c)

/-- What lands: the chunks of what was read, turned as a tile copy turns them. -/
def outNow (s : State) (o : EngOp) : List Chunk :=
  match o.kind with
  | .tileCopy true tposed _ fmt k ofs gen quad _ _ =>
    tldChunks s tposed (elemBits fmt) k gen quad ofs (o.out.map (fun c => c.bytes)) (!o.faultBit)
  | .tileCopy false tposed _ fmt k _ _ _ rows _ =>
    let cols := o.out.map (fun c => c.bytes)
    let rs := if tposed then cols else swapElems (elemBits fmt) k cols
    (rows.zip rs).map (fun x => { dest := .glob x.1, bytes := x.2 })
  | _ => o.out

def isCopy (o : EngOp) : Bool :=
  match o.kind with
  | .copy _ _ => true
  | .copyT _ _ _ _ _ _ _ => true
  | .tileT _ _ _ _ _ => true
  | .tileCopy _ _ _ _ _ _ _ _ _ _ => true
  | _ => false

def failOp (o : EngOp) (c : Cause) : EngOp := { o with faultBit := true, cause := causeCode c }

/-- Land what an operation writes: the state and the operation with its outcome. A cancellation stops it at its limit, unless
a fault came before (R198). A fault stops it after some number of bytes that the manual does not fix. -/
def landOp (s : State) (o : EngOp) (lim : Option Nat) : State × EngOp :=
  let e := engOf o
  let ps := (outNow s o).flatMap (chunkPieces s e)
  let total := pieceBytes ps
  let src := if isCopy o && o.faultBit then o.bytes else total
  let bad := firstFail 0 ps
  let stop := min src ((bad.map (fun x => x.1)).getD total)
  match lim, bad with
  | some l, _ =>
    if l ≤ stop then (landPieces o l ps s, { failOp o (if o.preempted then .preempted else .cancelled) with bytes := l })
    else faulted e ps stop src bad
  | none, some _ => faulted e ps stop src bad
  | none, none =>
    if isCopy o && o.faultBit then faulted e ps stop src none
    else
      -- a cancelled copy with no boundary left stops at its end
      (landPieces o total ps s, { (if o.cancel && isCopy o then failOp o .cancelled else o) with bytes := total })
where
  /-- A source or a piece of the destination stops it. -/
  faulted (e : EngAt) (ps : List Piece) (stop src : Nat) (bad : Option (Nat × Cause × Nat)) : State × EngOp :=
    let n := free s 7 % (stop + 1)
    match bad with
    | some (g, c, va) =>
      let o' := if o.faultBit && src ≤ g then o else failOp o c
      (landPieces o n ps (noteOp s e c va), { o' with bytes := n })
    | none => (landPieces o n ps s, { o with bytes := n })

/-! ## Completion rings (11 R196, 25 R389) -/

def ringReg (i off : Nat) : Nat := 0x40 * i + off
/-- log2 of the records; none when unconfigured. -/
def ringSize (s : State) (core i : Nat) : Option Nat :=
  let z := (rcore s core (ringReg i 8)).toNat
  if z = 0 then none else some (if z ≤ 3 then 4 else min z 16)
/-- The key of a record: RBASE names scratchpad or HBM. A base that is no multiple of 64 is rounded down, and a record past
the end of its space wraps (DESIGN CHOICE, log 131). -/
def ringKey (s : State) (core i slot : Nat) : Nat :=
  let b := rcore s core (ringReg i 0)
  let a := b.toNat / 64 * 64 + 16 * slot
  if Config.ringInHbm b then memKey .hbm Config.ownPackage (a % 2 ^ 39)
  else memKey .scr (dieOf core) (a % Config.scratchBytes)

/-- The status word (11 R194); LATE is bit 57 (15 R255). -/
def opStatus (o : EngOp) : DWord :=
  let hi := o.hiBits.toNat ||| (if o.late then 2 else 0)
  BitVec.ofNat 64 (b2n o.faultBit * 2 ^ 61 + hi * 2 ^ 56 + o.cause.toNat * 2 ^ 48 + o.midBits.toNat * 2 ^ 40 +
    (if isCopy o then o.bytes % 2 ^ 40 else o.lowBits.toNat))

/-- Bytes written, as the record reports them: what landed with what was written before, a cart's tile without its mask
(13 R224, log 134). -/
def writtenBytes (o : EngOp) : Nat :=
  match o.kind with
  | .cart _ => o.lowBits.toNat
  | .coll _ _ => o.lowBits.toNat
  | _ => o.bytes + o.wrote
def ringRecord (o : EngOp) : List Byte :=
  let st := opStatus o
  bitsLe 8 o.tok ++ leBytes 4 (b2n o.faultBit * 2 ^ 31 + o.cause.toNat * 2 ^ 16 + field st 56 5 * 2 ^ 8 + field st 40 8) ++
    leBytes 4 (min (writtenBytes o) (2 ^ 32 - 1))
/-- The record enters its ring (11 R196): the indices count records without wrapping, the slot is RPROD mod 2^z, and the ring
is full when they are 2^z apart (DESIGN CHOICE, log 103). -/
def ringPut (s : State) (o : EngOp) : State :=
  let i := o.ring
  let prod := rcore s o.core (ringReg i 0x10)
  let ovf := rcore s o.core (ringReg i 0x20)
  let full : Bool :=
    match ringSize s o.core i with
    | none => true
    | some z => 2 ^ z ≤ (prod - rcore s o.core (ringReg i 0x18)).toNat
  if full then wcore s o.core (ringReg i 0x20) (if ovf = BitVec.allOnes 64 then ovf else ovf + 1)
  else
    let z := (ringSize s o.core i).getD 4
    let key := ringKey s o.core i (prod.toNat % 2 ^ z)
    wcore (noteSync (putKey s key (ringRecord o)) o.cid o.scope (span key 16)) o.core (ringReg i 0x10) (prod + 1)

/-! ## Completion (11 R195, 16 R279) -/

/-- EDRNs that joined the operation lose it, counting its fault. -/
def leaveJoins (s : State) (o : EngOp) : State :=
  { s with ops := s.ops.map (fun x =>
      match x.kind with
      | .edrn joined faults total =>
        if joined.contains o.id then
          { x with kind := .edrn (joined.filter (fun j => j != o.id)) (faults + b2n o.faultBit) total }
        else x
      | _ => x) }
/-- The issuing carriage goes on when it still waits for the operation's lines. -/
def wakeIssuer (s : State) (id : Nat) : State :=
  mapCars s (fun c => if c.wait = .issuing id then { c with wait := .run } else c)

/-! ## Completion (11 R195) -/

/-- Steps 3 to 5 of R195. -/
def signalOp (s : State) (o : EngOp) : State :=
  let s := if o.ctr = 0 then s
    else wroteBy o.cid s (actr (noteSync s o.cid o.scope [ctrMark o.coach (o.ctr - 1)]) o.coach (o.ctr - 1) 1)
  let s := if o.ring = 0 then s else ringPut s o
  wakeIssuer (leaveJoins (doneToken s o.id o.tok (opStatus o)) o) o.id
/-- Steps 2 to 5 of R195; the release of steps 3 to 5 may still have to wait. -/
def finishOp (s : State) (o : EngOp) : State :=
  let s := applyWaits { s with ops := s.ops.filter (fun x => x.id != o.id) }
  if doneReady s o then signalOp s o
  else wakeIssuer { s with ops := s.ops ++ [{ o with stage := .landed, shared := [], excl := [] }] } o.id

/-- All of R195. -/
def completeOp (s : State) (o : EngOp) (lim : Option Nat) : State :=
  let r := landOp s o lim
  finishOp r.1 r.2

/-- A cancelled operation that had not started (11 R198). -/
def cancelOp (s : State) (o : EngOp) : State := finishOp s { failOp o .cancelled with bytes := 0, out := [] }

/-! ## Issue (16 R264-R266) -/

/-- Effects on global memory or on the coach, held until an instance commits (16 R266, 20 R325). -/
def holds (k : OpKind) : Bool :=
  match k with
  | .copy _ dst => dst.any (fun r => r.1 == 0 || r.1 == 3)
  | .copyT st _ _ _ _ _ _ => st
  | .tileT _ _ _ _ _ => true
  | .tileCopy _ _ _ _ _ _ _ _ _ _ => true
  | .ctrs _ _ _ => true
  | .route _ _ => true
  | .kvfork _ _ _ _ => true
  | .kvfree _ _ _ => true
  | .pfxf _ _ (some _) _ => true
  | .pfxi _ _ _ _ => true
  | _ => false
/-- The engine queue of an instance holds sixteen: operations whose writes or whose counter and record wait for its commit
(16 R266, 20 R325). -/
def holdFull (s : State) (i : EngI) (k : OpKind) : Bool :=
  s.self.spinst != 0 && (holds k || i.t.ring != 0 || i.t.ctr != 0) &&
    16 ≤ (s.ops.filter (fun o => o.coach == s.self.coach && o.inst == s.self.spinst && (holds o.kind || signals o))).length

/-- An access of the moving carriage's engines that no instruction's fields qualify yet. -/
def baseOp (s : State) (id : Nat) (kind : OpKind) : EngOp :=
  { id := id, cid := s.self.id, homes := homesOf s.self, coach := s.self.coach, core := s.self.core
    world := s.self.world, space := s.self.space, tok := 0, eaddr := s.self.pc, tf := false
    ring := 0, ctr := 0, order := 0, scope := 0, isTile := false
    stage := .requesting, kind := kind, shared := [], excl := []
    held := 0, asked := s.tick, fetched := false, out := [], early := [], cause := 0, faultBit := false, hiBits := 0, midBits := 0, lowBits := 0, bytes := 0, wrote := 0, started := false
    cancel := false, preempted := false, late := false, inst := s.self.spinst, win := (loopOf s s.self).isSome, deadline := 0 }
/-- A new operation of the moving carriage. -/
def newOp (s : State) (i : EngI) (id : Nat) (tok : DWord) (kind : OpKind) (shared excl : List Nat) : EngOp :=
  { baseOp s id kind with
    tok := tok, tf := i.tf, ring := i.t.ring.toNat, ctr := i.t.ctr.toNat, order := i.t.order, scope := i.t.scope
    shared := shared.filter (fun l => !excl.contains l), excl := excl }

/-- Issue: the token, the operation, PC + 12; the carriage waits until it holds its lines. -/
def issueOp (i : EngI) (kind : OpKind) (shared excl : List Nat) (f : EngOp → EngOp) (s : State) : State :=
  if holdFull s i kind then trapC s .specIllegal
  else
    let n := newId s
    let t := issueToken n.2 n.1 i.h.d.toNat i.tf
    let o := f (newOp n.2 i n.1 t.1 kind shared excl)
    nextPc (onSelf { t.2 with ops := t.2.ops ++ [o] } (fun c => { c with wait := .issuing n.1 }))
/-- An operation that owns nothing and completes at once through R195. -/
def issueDone (i : EngI) (kind : OpKind) (s : State) : State :=
  let n := newId s
  let t := issueToken n.2 n.1 i.h.d.toNat i.tf
  finishOp (nextPc t.2) (newOp n.2 i n.1 t.1 kind [] [])
/-- A fault met after issue: nothing moves (16 R265). -/
def issueFail (i : EngI) (c : Cause) (f : EngOp → EngOp) (s : State) : State :=
  issueOp i .failed [] [] (fun o => f (failOp o c)) s

/-- An engine instruction: guard, poisoned s operands, then its own checks and issue. -/
def engOp (i : EngI) (srcs : List OpField) (s : State) (body : State → State) : Out := scalarOp i.h srcs s body

/-- A precise fault of a local range or an address (16 R258, 23 R369). -/
def trapAddr (s : State) (c : Cause) (a : Nat) : State := trapAt s c (BitVec.ofNat 64 a)

/-! ## CPY and CPYT (16 R267, R268) -/

def cpyBytes (i : EngI) : Nat :=
  let unit := match field i.t.emod 14 2 with
    | 0 => 1
    | 1 => 64
    | 2 => 4096
    | _ => 65536
  field i.t.emod 0 14 * unit
/-- Source and destination of a CPY from operand values. -/
def cpySrc (i : EngI) (a : DWord) : Range := (field i.mod 6 3, a.toNat, cpyBytes i)
def cpyDst (i : EngI) (b : DWord) : Range := (field i.mod 3 3, b.toNat, cpyBytes i)
/-- The first of the two that lies outside its space. -/
def cpyBad (s : State) (e : EngAt) (i : EngI) (a b : DWord) : Option Nat :=
  if !rangeIn s e (cpySrc i a) then some a.toNat
  else if !rangeIn s e (cpyDst i b) then some b.toNat
  else none

def execCpy (i : EngI) (s : State) : Out :=
  engOp i [i.h.a, i.h.b] s (fun s =>
    let e := engSelf s
    let a := rs s i.h.a
    let b := rs s i.h.b
    if cpyBytes i = 0 then issueDone i (.copy [] []) s
    else match cpyBad s e i a b with
      | some x => trapAddr s .addrRange x
      | none =>
        issueOp i (.copy [cpySrc i a] [cpyDst i b]) (rangeLines e [cpySrc i a]) (rangeLines e [cpyDst i b]) id s)

/-- The tensor behind a handle: a well-formed descriptor, or the cause (10 R165, R268). -/
def tensorFor (s : State) (e : EngAt) (addr : Nat) : Except (Cause × Nat) TensorDesc :=
  match engRead s e.eng e.world e.space addr 64 with
  | .error x => .error x
  | .ok (bs, bad) =>
    if bad then .error (.poison, addr) else if descOk bs then .ok (descOf bs) else .error (.tileRange, addr)

def execCpyt (i : EngI) (s : State) : Out :=
  engOp i [i.h.b] s (fun s =>
    let e := engSelf s
    let t := rt s i.h.a
    let n := i.mod.toNat + 1
    let rb := field i.t.emod 0 12 + 1
    let st := i.t.emod.getLsbD 13
    let code := if i.t.emod.getLsbD 12 then 2 else 1
    let a := (rs s i.h.b).toNat
    let loc : Range := (code, a, n * rb)
    if tKind t = .invalid then trapC s .tileInvalid
    else if tKind t ≠ .tensor then trapC s .tileMismatch
    else if !rangeIn s e loc then trapAddr s .addrRange a
    else
      let lines := rangeLines e [loc]
      issueOp i (.copyT st (tDaddr t) (tRowo t) (tColb t) n rb loc) (if st then lines else []) (if st then [] else lines) id s)

/-! ## TLD and TST (10 R185) -/

def tileOp (toTile : Bool) (i : EngI) (s : State) : Out :=
  engOp i [] s (fun s =>
    let ta := rt s i.h.a
    let tb := rt s i.h.b
    let tposed := i.t.emod.getLsbD 0
    if tKind ta = .invalid ∨ tKind tb = .invalid then trapC s .tileInvalid
    else if tKind ta ≠ .tilemem ∨ tKind tb ≠ .tensor then trapC s .tileMismatch
    else if (tFmt ta == 6 && tposed) || (tSparse ta && !tposed) then trapC s .reservedModifier
    else
      issueOp i (.tileT toTile tposed ta tb ((regionWindow s ta).map (fun w => (w.gen, w.quad)))) [] []
        (fun o => { o with isTile := true }) s)

/-! ## At issue: what the descriptor says (10 R165, R185, 16 R268) -/

/-- The ranges of a CPYT, or the status cause. -/
def cpytAt (s : State) (e : EngAt) (st : Bool) (daddr rowo colb n rb : Nat) (loc : Range) : Except (Cause × Nat) OpKind :=
  match tensorFor s e daddr with
  | .error x => .error x
  | .ok d =>
    if d.rows < rowo + n || d.rowBytes < colb + rb then .error (.tileRange, daddr)
    else
      let rows : List Range := (span 0 n).map (fun r => (0, rowAddr d (rowo + r) colb, rb))
      .ok (if st then .copy [loc] rows else .copy rows [loc])
/-- The window and the rows of a tile copy, or the status cause. -/
def tileAt (s : State) (e : EngAt) (toTile tposed : Bool) (ta tb : BitVec 128) (win : Option (Nat × Nat)) :
    Except (Cause × Nat) OpKind :=
  let addr := tDaddr tb
  match tensorFor s e addr with
  | .error x => .error x
  | .ok d =>
    if d.fmt ≠ tFmt ta then .error (.tileMismatch, addr)
    else
      let nr := if tposed then 128 else tK ta
      let rb := if tposed then regionBytes (tFmt ta) (tK ta) (tSparse ta) else 128 * elemBits (tFmt ta) / 8
      match win with
      | none => .error (.tileRange, addr)
      | some w =>
        if d.rows < tRowo tb + nr || d.rowBytes < tColb tb + rb then .error (.tileRange, addr)
        else .ok (.tileCopy toTile tposed (tSparse ta) (tFmt ta) (tK ta) (tOfs ta) w.1 w.2
          ((span 0 nr).map (fun r => rowAddr d (tRowo tb + r) (tColb tb))) rb)

def execTld (i : EngI) (s : State) : Out := tileOp true i s
def execTst (i : EngI) (s : State) : Out := tileOp false i s

/-! ## AMOG (16 R270): encoded with PLN it executes as RLX (03 R51) -/

def execAmog (i : EngI) (s : State) : Out :=
  engOp i [i.h.a, i.h.b] s (fun s =>
    let e := engSelf s
    let a := (rs s i.h.a).toNat
    let b := (rs s i.h.b).toNat
    let wide := i.t.emod.getLsbD 6
    let nr := i.t.emod.getLsbD 5
    let blk : Range := (if i.t.emod.getLsbD 4 then 2 else 1, b, 32)
    if s.self.spinst ≠ 0 then trapC s .specIllegal
    else if !rangeIn s e blk then trapAddr s .addrRange b
    else if a % (if wide then 8 else 4) ≠ 0 then trapAddr s .addrAlign a
    else if b % 32 ≠ 0 then trapAddr s .addrAlign b
    else
      let lines := rangeLines e [blk]
      issueOp i (.amog a (rangeKey e blk) wide nr (i.t.emod.extractLsb' 0 4) 0 0)
        (if nr then lines else []) (if nr then [] else lines) (fun o => { o with order := if o.order = 0 then 1 else o.order }) s)

/-- The new value's bytes of a global atomic. -/
def amogBytes (wide : Bool) (aop : BitVec 4) (old : List Byte) (b cmp : DWord) : List Byte :=
  if wide then bitsLe 8 (atomicNew aop (leBits 64 old) b cmp)
  else bitsLe 4 (atomicNew aop (leBits 32 old) (b.setWidth 32) (cmp.setWidth 32))

/-- It is performed at the location's home; the old value is kept to be written at completion. -/
def amogRun (s : State) (o : EngOp) (a blk : Nat) (wide nr : Bool) (aop : BitVec 4) (b cmp : DWord) : State :=
  let e := engOf o
  let fail (c : Cause) (s : State) : State := onOp (noteOp s e c a) o.id (fun o => { failOp o c with stage := .ready, fetched := true })
  match xlate s e.eng e.world e.space a .read, xlate s e.eng e.world e.space a .write with
  | .error c, _ => fail c s
  | _, .error c => fail c s
  | .ok t, .ok _ =>
    let n := if wide then 8 else 4
    let key := targetKey t
    if mBad s key n then fail .poison s
    else
      let old := mread s key n
      -- a release that it overwrites is still met by who reads the new value
      let t := if 2 ≤ opOrder o then takeSync s o.cid o.scope (span key n) else s
      let t := { opPut t o false key (amogBytes wide aop old b cmp) with syncs := s.syncs }
      onOp (if 2 ≤ opOrder o then noteSync t o.cid o.scope (span key n) else t) o.id (fun o =>
        { o with stage := .ready, fetched := true, wrote := n
                 out := if nr then [] else [{ dest := .loc (blk + 16), bytes := old ++ zeros (8 - n) }] })

/-! ## SIG and CTRS (16 R271, R272, 02 R38) -/

def execSigN (i : EngI) (s : State) : Out :=
  engOp i (if rs s i.h.a = 0 then [i.h.a] else [i.h.a, i.h.b]) s (fun s =>
    if s.self.spinst ≠ 0 then trapC s .specIllegal
    else
      let b := rs s i.h.b
      issueOp i (.sigN (rs s i.h.a) (field b 0 32) (field b 48 16) (field i.t.emod 0 3) (field i.t.emod 3 12)) [] [] id s)
def execSigW (i : EngI) (s : State) : Out :=
  engOp i [i.h.a, i.h.b] s (fun s =>
    let a := (rs s i.h.a).toNat
    if s.self.spinst ≠ 0 then trapC s .specIllegal
    else if a % 8 ≠ 0 then trapAddr s .addrAlign a
    else issueOp i (.sigW a (rs s i.h.b)) [] [] id s)

/-- The coach a launch identifier and a coach index name, of this world and space: started, not retired. -/
def sigTarget (s : State) (world : Bool) (space : BitVec 16) (lid : DWord) (index : Nat) : Option Nat :=
  match s.launches.find? (fun l => l.lid == lid && l.rcd.world == world && l.rcd.space == space) with
  | none => none
  | some l => (s.coaches.find? (fun k => k.launch == l.id && k.index == index && !k.waiting)).map (fun k => k.id)
/-- A saved coach takes no increment: it waits for the restore, so that none is lost (02 R38). -/
def coachAway (s : State) (k : Nat) : Bool := (s.coaches.find? (fun c => c.id == k)).any (fun c => c.saved)
/-- The add is performed at its target; in another package it is, or finds no target, as that package stands. -/
def sigRun (s : State) (o : EngOp) (lid : DWord) (coach pkg ctr inc : Nat) : State :=
  let done (s : State) : State := onOp s o.id (fun o => { o with stage := .ready })
  let miss (s : State) : State := onOp s o.id (fun o => { failOp o .notarget with stage := .ready })
  let add (k : Nat) : State :=
    done (wroteBy o.cid s (actr (if 2 ≤ opOrder o then noteSync s o.cid o.scope [ctrMark k ctr] else s) k ctr (BitVec.ofNat 32 inc)))
  if lid = 0 then add o.coach
  else if pkg = 0xFFFF ∨ pkg = Config.ownPackage then
    match sigTarget s o.world o.space lid coach with
    | some k => if coachAway s k then s else add k
    | none => miss s
  else if (routePort s pkg).isNone then s
  else if free s 8 % 2 = 0 then done s else miss s
/-- One single-copy atomic store. -/
def sigStore (s : State) (o : EngOp) (a : Nat) (data : DWord) : State :=
  let e := engOf o
  match xlate s e.eng e.world e.space a .write with
  | .error c => onOp (noteOp s e c a) o.id (fun o => { failOp o c with stage := .ready })
  | .ok t =>
    let r := opPut s o false (targetKey t) (bitsLe 8 data)
    onOp (if 2 ≤ opOrder o then noteSync r o.cid o.scope (span (targetKey t) 8) else r) o.id (fun o => { o with stage := .ready, wrote := 8 })

def execCtrs (i : EngI) (s : State) : Out :=
  let op := field i.t.emod 3 2
  engOp i (if op ≤ 1 then [i.h.a] else []) s (fun s =>
    issueOp i (.ctrs op (field i.t.emod 0 3) ((rs s i.h.a).setWidth 32)) [] [] id s)
/-- Set, add, bind, unbind: a bound n7 discards the first two, and keeps the last value it read when unbound. -/
def ctrsRun (s : State) (coach op ctr : Nat) (val : Word) : State :=
  match op with
  | 0 => wctr s coach ctr val
  | 1 => actr s coach ctr val
  | 2 => evalCtrs (onCoach s coach (fun k => { k with n7 := true })) coach
  | _ =>
    if n7Bound s coach then
      let x := rctr s coach 7
      wctr (onCoach s coach (fun k => { k with n7 := false })) coach 7 x
    else s

/-! ## EDRN (16 R279) -/

def execEdrn (i : EngI) (s : State) : Out :=
  engOp i [] s (fun s =>
    let core := i.t.emod.getLsbD 0
    let joined := (s.ops.filter (fun o => if core then o.core == s.self.core else o.homes.any (homesOf s.self).contains)).map (fun o => o.id)
    if joined.isEmpty then issueDone i (.edrn [] 0 0) s
    else
      let s := issueOp i (.edrn joined 0 joined.length) [] [] (fun o => { o with stage := .issued, started := true }) s
      onSelf s (fun c => { c with wait := match c.wait with
        | .issuing _ => .run
        | w => w }))

/-- An operation takes another number: those that joined it and its handles keep it. -/
def renumber (s : State) (old new : Nat) : State :=
  let s := mapCars s (fun c => { c with hOp := c.hOp.map (fun x =>
    if x.2 = BitVec.ofNat 64 old then (x.1, BitVec.ofNat 64 new) else x) })
  { s with ops := s.ops.map (fun x => match x.kind with
      | .edrn joined faults total => { x with kind := .edrn (joined.map (fun j => if j = old then new else j)) faults total }
      | _ => x) }

end Sys2Proof.Machine
end

