-- ==== Sys2Proof/Machine/Seq.lean ====
section
/-! DEFINITION. Sequence caches and the prefix index: pools, pages, sequences, appends, forks, frees, prefix entries,
residency lookups, rollback, the scrubber and PGCHK (14 R228-R240, 16 R276, R277, 24 R385, 25 R396). -/
namespace Sys2Proof.Machine

/-! ## Pools (14 R228) -/

def setPoolReg (s : State) (n off : Nat) (x : DWord) : State := wsys s 0 3 (0x100 * n + off) x
def poolEn (s : State) (n : Nat) : Bool := (pcfg s n).getLsbD 0
def poolWorld (s : State) (n : Nat) : Bool := (pcfg s n).getLsbD 11
def poolDim (s : State) (n : Nat) : Nat := field (pcfg s n) 15 9
def poolMgr (s : State) (n : Nat) : Nat := field (pcfg s n) 12 3
def poolFree (s : State) (n : Nat) : Nat := (poolReg s n 0x28).toNat
def poolRsv (s : State) (n : Nat) : Nat := (poolReg s n 0x30).toNat
/-- The managing row engine serves the world (22 R353). -/
def poolServed (s : State) (n : Nat) (world : Bool) : Bool := serves s Config.ownPackage (poolMgr s n) world
/-- An operation of this world may act on the pool. -/
def poolOk (s : State) (n : Nat) (world : Bool) : Bool :=
  poolEn s n && !s.poolClosing.contains n && poolWorld s n == world && poolServed s n world

def hnum (s : State) (a n : Nat) : Nat := mnum s (hk a) n
def hput (s : State) (a n v : Nat) : State := mwrite s (hk a) (leBytes n v)
/-- The 64 KiB units of a range of HBM. -/
def unitsOf (a n : Nat) : List Nat := (span (a / 65536) ((a + n - 1) / 65536 - a / 65536 + 1)).map (fun u => u * 65536 % 2 ^ 39)
/-- Every unit of a range belongs to a world (22 R355). -/
def unitsOk (s : State) (world : Bool) (a n : Nat) : Bool :=
  (unitsOf a n).all (fun u => unitWorld s Config.ownPackage u == world)
/-- Row engines take every unit of a range (22 R353, R359). -/
def rowsTake (s : State) (world : Bool) (a n : Nat) : Bool :=
  (unitsOf a n).all (fun u => rowTakes s Config.ownPackage u world)

/-- A pool's row engine writes only units that are taken (14 R228). -/
def poolWrite (s : State) (n a : Nat) (bs : List Byte) : State :=
  if rowsTake s (poolWorld s n) a bs.length then mwrite s (hk a) bs else s
def poolPut (s : State) (n a k v : Nat) : State := poolWrite s n a (leBytes k v)

def pageAt (s : State) (n i : Nat) : Nat := (poolReg s n 0).toNat + 65536 * i
def metaAt (s : State) (n i : Nat) : Nat := (poolReg s n 8).toNat + 256 * i
def noPage : Nat := 0xFFFFFFFF
/-- The metadata of pages is reached, and that of pages with their bytes (14 R228, 22 R355). -/
def metasTaken (s : State) (n : Nat) (is : List Nat) : Bool := is.all (fun i => rowsTake s (poolWorld s n) (metaAt s n i) 256)
def pagesTaken (s : State) (n : Nat) (is : List Nat) : Bool :=
  metasTaken s n is && is.all (fun i => rowsTake s (poolWorld s n) (pageAt s n i) 65536)

/-! ## Page metadata (14 R229) -/

structure Page where
  ref : Nat
  sealed' : Bool
  sealing : Bool
  poison : Bool
  fill : Nat
  deriving DecidableEq, Repr

def page (s : State) (n i : Nat) : Page :=
  let w := hnum s (metaAt s n i + 0x84) 3
  { ref := nbits w 0 12, sealed' := bitN w 12, sealing := bitN w 13, poison := bitN w 14, fill := nbits w 16 8 }
def setPage (s : State) (n i : Nat) (p : Page) : State :=
  poolPut s n (metaAt s n i + 0x84) 3
    (p.ref % 4096 + b2n p.sealed' * 2 ^ 12 + b2n p.sealing * 2 ^ 13 + b2n p.poison * 2 ^ 14 + p.fill % 256 * 2 ^ 16)

/-- The head of the free list, kept as index + 1. -/
def freeTop (s : State) (n : Nat) : Option Nat :=
  match (cget s.freeHead n).toNat with
  | 0 => none
  | k + 1 => some k
def setTop (s : State) (n : Nat) (k : Option Nat) : State :=
  { s with freeHead := cset s.freeHead n (match k with
      | none => 0
      | some i => BitVec.ofNat 33 (i + 1)) }
def topLink (s : State) (n : Nat) : Nat := (freeTop s n).getD noPage
def setFree (s : State) (n k : Nat) : State := setPoolReg s n 0x28 (BitVec.ofNat 64 k)

/-- The first pages of the free list. -/
def freeWalk (s : State) (n : Nat) : Nat → Nat → List Nat
  | 0, _ => []
  | k + 1, i => if i = noPage then [] else i :: freeWalk s n k (hnum s (metaAt s n i + 0x88) 4)
def freeList (s : State) (n k : Nat) : List Nat := freeWalk s n k (topLink s n)
/-- Pop a page: REF 1, FILL 0 (R230, R233). -/
def popPage (s : State) (n : Nat) : Nat × State :=
  match freeTop s n with
  | none => (noPage, s)
  | some i =>
    let next := hnum s (metaAt s n i + 0x88) 4
    let s := setTop s n (if next = noPage then none else some next)
    (i, setPage (setFree s n (poolFree s n - 1)) n i { ref := 1, sealed' := false, sealing := false, poison := false, fill := 0 })
/-- Push a page: its metadata is cleared but for the link. -/
def pushPage (s : State) (n i : Nat) : State :=
  let s1 := poolWrite s n (metaAt s n i) (zeros 256)
  let s2 := poolPut s1 n (metaAt s n i + 0x88) 4 (topLink s n)
  setFree (setTop s2 n (some i)) n (poolFree s n + 1)
/-- Drop one reference (R237): the state, and 1 when the page returned to the free list. -/
def releasePage (s : State) (n i : Nat) : State × Nat :=
  let p := page s n i
  if p.ref = 0 then (s, 0)
  else if 1 < p.ref then (setPage s n i { p with ref := p.ref - 1 }, 0)
  else if p.poison then
    let c := poolReg s n 0x38
    (setPoolReg (setPage s n i { p with ref := 0 }) n 0x38 (if c = BitVec.allOnes 64 then c else c + 1), 0)
  else (pushPage s n i, 1)
def releaseAll (s : State) (n : Nat) (is : List Nat) : State × Nat :=
  is.foldl (fun st i =>
    let r := releasePage st.1 n i
    (r.1, st.2 + r.2)) (s, 0)

/-- The test of R230 for k new pages. -/
def canTake (s : State) (n k : Nat) (rsv : Bool) : Bool := (if rsv then 0 else poolRsv s n) + k ≤ poolFree s n

/-- The CRC of a page and its scales. -/
def pageCrc (s : State) (n i : Nat) : Word :=
  crc32c (mread s (hk (pageAt s n i)) 65536 ++ mread s (hk (metaAt s n i)) 128)
/-- Sealing in its two steps (R234): SEALING first; then the CRC and SEALED. -/
def sealBegin (s : State) (n i : Nat) : State :=
  let p := page s n i
  if p.fill = 128 && !p.sealed' && !p.sealing then setPage s n i { p with sealing := true } else s
def sealEnd (s : State) (n i : Nat) : State :=
  let p := page s n i
  if p.sealing then
    let s1 := hput s (metaAt s n i + 0x80) 4 (pageCrc s n i).toNat
    setPage s1 n i { p with sealed' := true, sealing := false }
  else s

/-- Pages of a run whose count is full when its turn comes, each taking one reference: they need a copy (R236, R239). -/
def fullPages (s : State) (n : Nat) : List Nat → List Nat → List Nat
  | _, [] => []
  | seen, i :: r =>
    if 4095 ≤ (page s n i).ref + (seen.filter (fun k => k == i)).length then i :: fullPages s n seen r
    else fullPages s n (i :: seen) r

/-- A copy of a page (R236): data, scales, FILL, CRC, SEALED and POISON; REF 1. -/
def copyPage (s : State) (n i : Nat) : Nat × State :=
  let r := popPage s n
  let p := page s n i
  let s1 := mwrite r.2 (hk (pageAt s n r.1)) (mread s (hk (pageAt s n i)) 65536)
  let s2 := mwrite s1 (hk (metaAt s n r.1)) (mread s (hk (metaAt s n i)) 0x84)
  (r.1, setPage s2 n r.1 { p with ref := 1, sealing := false })
/-- Take a reference, or a copy of a page whose count is full: the page to enter. -/
def sharePage (s : State) (n i : Nat) : Nat × State :=
  let p := page s n i
  if p.ref = 4095 then copyPage s n i else (i, setPage s n i { p with ref := p.ref + 1 })

/-! ## Enabling and disabling (14 R228) -/

/-- The fields of PCFG that are RW. -/
def pcfgMask : DWord := 0x00FFFFFFFFFFF801#64
def poolValid (s : State) (n : Nat) (cfg : DWord) : Bool :=
  field cfg 32 24 != 0 && field cfg 15 9 != 0 && field cfg 15 9 ≤ 256 && field cfg 24 8 ≤ 24 &&
    (poolReg s n 0).toNat % 65536 == 0 && (poolReg s n 8).toNat % 256 == 0 && (poolReg s n 0x10).toNat % 64 == 0 &&
    (poolReg s n 0x18).toNat % 4096 == 0
/-- The free list of every page, page 0 at its head. Of the pool's appends before, nothing is left to publish. -/
def buildFree (s : State) (n pages : Nat) : State :=
  let s := { s with ranges := s.ranges.filter (fun r => r.pool != n) }
  let s1 := (span 0 pages).foldl (fun s i => poolPut s n (metaAt s n i + 0x88) 4 (if i + 1 = pages then noPage else i + 1)) s
  setFree (setTop s1 n (some 0)) n pages

/-- An operation has arrived at the managing row engine and not completed: an append that has not landed, a free that
waits. -/
def poolBusy (s : State) (n : Nat) : Bool :=
  s.ranges.any (fun r => r.pool == n && !r.landed) || s.ops.any (fun o => o.stage == .issued && o.started && (match o.kind with
    | .kvfree m _ none => m == n
    | _ => false))

/-- A KVFREE that waits has arrived at the managing row engine: what arrives after it comes after it (R230, R237). -/
def freeAhead (s : State) (op n : Nat) : Bool :=
  s.ops.any (fun x => x.id != op && x.stage == .issued && x.started && (match x.kind with
    | .kvfree m _ none => m == n
    | _ => false))
/-- The operation's turn at the managing row engine has come, and what its ORDER puts before its writes has happened
(12 R204, R208). -/
def kvTurn (s : State) (o : EngOp) (n : Nat) : Bool := !freeAhead s o.id n && releaseReady s o && !writesBehind s o

/-- A write of PCFG. -/
def writePcfg (s : State) (n : Nat) (x : DWord) : State :=
  if poolEn s n then
    (if x.getLsbD 0 then s
     else if poolBusy s n then { s with poolClosing := n :: s.poolClosing.filter (fun k => k != n) }
     else setPoolReg s n 0x20 (pcfg s n &&& ~~~1#64))
  else
    let cfg := x &&& pcfgMask
    let s1 := setPoolReg s n 0x20 (cfg &&& ~~~1#64)
    if x.getLsbD 0 && poolValid s n cfg then buildFree (setPoolReg s1 n 0x20 cfg) n (field cfg 32 24) else s1
/-- A write of a pool register: RO ones and, while EN is 1, the bases ignore it. -/
def writePool (s : State) (n off : Nat) (x : DWord) : State :=
  if off < 0x20 then (if poolEn s n then s else setPoolReg s n off x)
  else if off = 0x20 then writePcfg s n x
  else if off = 0x30 ∨ off = 0x40 then setPoolReg s n off x
  else s

def execPoolEnable (pool : Nat) (cfg : DWord) (s : State) : Out :=
  .next (if pool < 16 ∧ cfg.getLsbD 0 then writePcfg s pool cfg else s)
/-- Clearing EN, or the clearing that waited for the operations that had arrived. -/
def execPoolDisable (pool : Nat) (s : State) : Out :=
  .next (if pool ≥ 16 then s
    else if s.poolClosing.contains pool then
      (if poolBusy s pool then s
       else setPoolReg { s with poolClosing := s.poolClosing.filter (fun k => k != pool) } pool 0x20 (pcfg s pool &&& ~~~1#64))
    else writePcfg s pool (pcfg s pool &&& ~~~1#64))

/-! ## Sequences (14 R231) -/

structure SeqE where
  at' : Nat
  cur : Nat
  h : Nat
  opened : Bool
  table : Nat
  cap : Nat
  res : Nat
  deriving DecidableEq, Repr

def seqAt (s : State) (n q : Nat) : Nat := (poolReg s n 0x10).toNat + 64 * q
def seqE (s : State) (n q : Nat) : SeqE :=
  let a := seqAt s n q
  { at' := a, cur := nbits (hnum s a 4) 0 24, h := hnum s (a + 4) 1 + 1, opened := hnum s (a + 5) 1 == 1
    table := hnum s (a + 8) 8, cap := hnum s (a + 0x10) 4, res := nbits (hnum s (a + 0x14) 4) 0 24 }
def setCur (s : State) (e : SeqE) (x : Nat) : State := hput s e.at' 4 (x % 2 ^ 24)
def setRes (s : State) (e : SeqE) (x : Nat) : State := hput s (e.at' + 0x14) 4 (x % 2 ^ 24)
def setOpened (s : State) (e : SeqE) (b : Bool) : State := hput s (e.at' + 5) 1 (b2n b)
def slotAddr (e : SeqE) (j g : Nat) : Nat := e.table + 4 * (j * e.h + g)
def tableGet (s : State) (e : SeqE) (j g : Nat) : Nat := hnum s (slotAddr e j g) 4
def tablePut (s : State) (e : SeqE) (j g i : Nat) : State := hput s (slotAddr e j g) 4 i
/-- Slot and head of the entries of slots lo to hi − 1. -/
def entriesIn (e : SeqE) (lo hi : Nat) : List (Nat × Nat) :=
  (span lo (hi - lo)).flatMap (fun j => (span 0 e.h).map (fun g => (j, g)))
/-- Mapped pages of slots lo to hi − 1. -/
def pagesIn (s : State) (e : SeqE) (lo hi : Nat) : List Nat :=
  ((entriesIn e lo hi).map (fun x => tableGet s e x.1 x.2)).filter (fun i => i != noPage)
def unmapFrom (s : State) (e : SeqE) (lo hi : Nat) : State :=
  (entriesIn e lo hi).foldl (fun s x => tablePut s e x.1 x.2 noPage) s
/-- The row engine may touch the entry and its table (22 R355). -/
def seqReach (s : State) (world : Bool) (e : SeqE) : Bool :=
  rowsTake s world e.at' 64 && (e.cap == 0 || rowsTake s world e.table (4 * e.cap * e.h))

/-! ## The residency map (14 R232) -/

def keySeq (k : DWord) : Nat := field k 32 20
def mapResult (s : State) (world : Bool) (k : DWord) : DWord :=
  let n := keyPool k
  let head := field k 24 8
  let pos := field k 0 24
  let e := seqE s n (keySeq k)
  let mk (st pg : Nat) : DWord := BitVec.ofNat 64 (st * 2 ^ 60 + pos % 128 * 2 ^ 32 + pg)
  if !poolOk s n world || !e.opened || e.h ≤ head || e.cur ≤ pos || !seqReach s world e then mk 1 noPage
  else
    let i := tableGet s e (pos / 128) head
    if i = noPage ∨ !metasTaken s n [i] then mk 1 noPage
    else
      let p := page s n i
      mk (if p.poison then 2 else if p.sealing then 3 else 0) i

/-! ## Status (16 R276) -/

def kOk : Nat := 0
def kHit : Nat := 1
def kMiss : Nat := 2
def kReserve : Nat := 3
def kRefsat : Nat := 4
def kCapacity : Nat := 5
def kNoseq : Nat := 6
def kWorld : Nat := 7
def kExists : Nat := 8
def kUnsealed : Nat := 9
def kFull : Nat := 10
def kBadlist : Nat := 11
def kvDone (s : State) (op st value : Nat) : State :=
  onOp s op (fun o => { o with stage := .ready, fetched := true, midBits := BitVec.ofNat 8 st, lowBits := BitVec.ofNat 40 value })

/-- Status WORLD: an enabled pool of this world that does not take the operation counts a drop at its managing row
engine (14 R228, 22 R353, R426). -/
def kvWorld (s : State) (o : EngOp) (n value : Nat) : State :=
  let s := if poolEn s n && !s.poolClosing.contains n && poolWorld s n == o.world then
      noteMismatch s (mmRowEngine (poolMgr s n)) o.world o.space Config.ownPackage (BitVec.ofNat 64 (free s 34)) else s
  kvDone s o.id kWorld value

/-! ## Issue (16 R277) -/

/-- Local range then alignment, or the trap (16 R258). -/
def localBad (s : State) (e : EngAt) (a n al : Nat) : Option (Cause × Nat) :=
  if !rangeIn s e (1, a, n) then some (.addrRange, a) else if a % al ≠ 0 then some (.addrAlign, a) else none

/-- The window the moving carriage runs in, when it does. -/
def windowOf (s : State) : Option Loop := loopOf s s.self
def markedIn (l : Loop) (n q : Nat) : Bool := l.marks.any (fun m => m.1 == n && m.2.1 == q)
def instOf (l : Loop) (j : Nat) : Option Inst := l.insts.find? (fun i => i.j == j)
def hasAppend (i : Inst) (n q : Nat) : Bool := i.appended.any (fun a => a.1 == n && a.2.1 == q)
def onInst (s : State) (cid j : Nat) (f : Inst → Inst) : State :=
  onLoop s cid (fun l => { l with insts := l.insts.map (fun i => if i.j = j then f i else i) })
/-- R327: an instance above 0 appends to marked sequences only, and every instance once to each. -/
def appendIllegal (s : State) (n q : Nat) : Bool :=
  match windowOf s with
  | none => false
  | some l =>
    let marked := markedIn l n q
    (s.self.spinst != 0 && !marked) || (marked && (match instOf l s.self.spinst with
      | some i => hasAppend i n q
      | none => false))
def noteAppend (s : State) (n q : Nat) : State :=
  match windowOf s with
  | none => s
  | some l => if markedIn l n q then
      onInst s l.cid s.self.spinst (fun i => { i with appended := i.appended ++ [(n, q, 0)] }) else s

def execKvapp (i : EngI) (s : State) : Out :=
  engOp i [i.h.a, i.h.b] s (fun s =>
    let e := engSelf s
    let k := rs s i.h.a
    let a := (rs s i.h.b).toNat
    let n := field k 0 24
    let h := field i.t.emod 8 8 + 1
    let d16 := alignUp (poolDim s (keyPool k)) 16
    let len := h * n * (2 * d16 + 16)
    match localBad s e a len 16 with
    | some x => trapAddr s x.1 x.2
    | none =>
      if appendIllegal s (keyPool k) (keySeq k) then trapC s .specIllegal
      else
        issueOp i (.kvapp (keyPool k) (keySeq k) n h (i.t.emod.getLsbD 0) d16 (memKey .shm e.coach a) [] none)
          (rangeLines e [(1, a, len)]) [] id (noteAppend s (keyPool k) (keySeq k)))

def execKvfork (i : EngI) (s : State) : Out :=
  engOp i [i.h.a, i.h.b] s (fun s =>
    let k := rs s i.h.a
    issueOp i (.kvfork (keyPool k) (keySeq k) (keySeq (rs s i.h.b)) (i.t.emod.getLsbD 0)) [] [] id s)

def execKvmap (i : EngI) (s : State) : Out :=
  if rangeBad s [(i.h.a, 2)] then .next (trapC s .regRange)
  else engOp i [i.h.b] s (fun s =>
    let e := engSelf s
    let a := (rs s i.h.b).toNat
    let len := 8 * widthOf s.self
    let ts := liveOf s s.self
    match localBad s e a len 8 with
    | some x => trapAddr s x.1 x.2
    | none =>
      match ts.find? (fun st => threadBad s [(i.h.a, 2)] st.2) with
      | some st => trapSlot s .poison st.1 0
      | none =>
        issueOp i (.kvmap (ts.map (fun st => (st.1, rv64 s st.2 i.h.a.toNat))) (memKey .shm e.coach a))
          [] (rangeLines e [(1, a, len)]) id s)

def execKvfree (i : EngI) (s : State) : Out :=
  let pfx := i.t.emod.getLsbD 0
  engOp i (i.h.a :: if pfx then [i.h.b] else []) s (fun s =>
    let k := rs s i.h.a
    issueOp i (.kvfree (keyPool k) (keySeq k) (if pfx then some (rs s i.h.b) else none)) [] [] id s)

def execPfxf (i : EngI) (s : State) : Out :=
  engOp i [i.h.a, i.h.b] s (fun s =>
    let e := engSelf s
    let k := rs s i.h.a
    if i.t.emod.getLsbD 0 then
      issueOp i (.pfxf (keyPool k) (rs s i.h.b) (some (keySeq k, field k 0 17)) 0) [] [] id s
    else
      let a := field k 0 32
      match localBad s e a 1028 4 with
      | some x => trapAddr s x.1 x.2
      | none =>
        issueOp i (.pfxf (keyPool k) (rs s i.h.b) none (memKey .shm e.coach a)) [] (rangeLines e [(1, a, 1028)]) id s)

def execPfxi (i : EngI) (s : State) : Out :=
  engOp i [i.h.a, i.h.b] s (fun s =>
    let e := engSelf s
    let k := rs s i.h.a
    let a := field k 0 32
    match localBad s e a 1028 4 with
    | some x => trapAddr s x.1 x.2
    | none =>
      issueOp i (.pfxi (keyPool k) (rs s i.h.b) (memKey .shm e.coach a) []) [] (rangeLines e [(1, a, 1028)]) id s)

def execPgchk (i : EngI) (s : State) : Out :=
  engOp i [i.h.a] s (fun s =>
    let k := rs s i.h.a
    if s.self.spinst ≠ 0 then trapC s .specIllegal
    else issueOp i (.pgchk (keyPool k) (field k 0 32)) [] [] id s)

/-! ## Appending (14 R233, R234) -/

/-- The append of an instance has arrived at the managing row engine. -/
def noteReserve (s : State) (o : EngOp) (n q got : Nat) : State :=
  match s.loops.find? (fun l => (car s l.cid).coach == o.coach) with
  | none => s
  | some l => onInst s l.cid o.inst (fun i => { i with appended := i.appended.map (fun a =>
      if a.1 = n ∧ a.2.1 = q ∧ a.2.2 = 0 then (n, q, got + 1) else a) })

/-- Open a FREE sequence: every entry unmapped, CURSOR and RES 0 (R231); nothing that landed in it before is published
any more. -/
def openSeq (s : State) (n q : Nat) (e : SeqE) : State :=
  if e.opened then s
  else
    let s := { s with ranges := s.ranges.filter (fun r => !(r.pool == n && r.seq == q && r.landed)) }
    setRes (setCur (unmapFrom (setOpened s e true) e 0 e.cap) e 0) e 0

/-- Allocate pages for slots lo to hi − 1. -/
def fillSlots (s : State) (n : Nat) (e : SeqE) (lo hi : Nat) : State :=
  (entriesIn e lo hi).foldl (fun s x =>
    let r := popPage s n
    tablePut r.2 e x.1 x.2 r.1) s

def execKvReserve (op : Nat) (s : State) : Out :=
  .next (match op? s op with
    | none => s
    | some o =>
      match o.kind with
      | .kvapp n q cnt h rsv d16 src data none =>
        if o.stage ≠ .issued || !ready s (136 + poolMgr s n) || !kvTurn s o n then s
        else
          let e := seqE s n q
          let c := if e.opened then e.res else 0
          let j0 := ceilDiv c 128
          let j1 := ceilDiv (c + cnt) 128
          let refuse (st : Nat) : State := kvDone (noteReserve s o n q 0) op st 0
          let new := freeList s n (h * (j1 - j0))
          let touched := new ++ (if e.opened then pagesIn s e (c / 128) j0 else [])
          if !poolOk s n o.world || !seqReach s o.world e then kvWorld (noteReserve s o n q 0) o n 0
          else if cnt = 0 ∨ 2 ^ 24 < c + cnt ∨ e.cap < j1 ∨ h ≠ e.h then refuse kCapacity
          else if !canTake s n (h * (j1 - j0)) rsv then refuse kReserve
          else if !pagesTaken s n touched then kvWorld (noteReserve s o n q 0) o n 0
          else
            let s1 := setRes (fillSlots (openSeq s n q e) n e j0 j1) e (c + cnt)
            let s2 := { s1 with ranges := s1.ranges ++ [{ op := op, pool := n, seq := q, first := c, n := cnt, landed := false
                                                          inst := o.inst, unpub := o.win, counted := 2 ^ 24, coach := o.coach }] }
            noteReserve (onOp s2 op (fun o => { o with
              kind := .kvapp n q cnt h rsv d16 src data (some c), lowBits := BitVec.ofNat 40 c, started := true })) o n q cnt
      | _ => s)

/-- CURSOR moves over the landed, committed ranges that come first (R233 step 5). -/
def publishEnd : Nat → List KvRange → Nat
  | cur, [] => cur
  | cur, r :: rest => if r.landed && !r.unpub then publishEnd (max cur (r.first + r.n)) rest else cur
def seqRanges (s : State) (n q : Nat) : List KvRange := s.ranges.filter (fun r => r.pool == n && r.seq == q)
def publish (s : State) (n q : Nat) : State :=
  let e := seqE s n q
  let x := publishEnd e.cur (seqRanges s n q)
  if e.opened && e.cur < x && rowsTake s (poolWorld s n) e.at' 64 then setCur s e x else s

/-- Write one position's record into its page, which a SEALED one never takes (R234). -/
def landPos (s : State) (r : KvRange) (h cnt d16 : Nat) (data : List Byte) (st : State) (x : Nat × Nat) : State :=
  let n := r.pool
  let e := seqE s n r.seq
  let g := x.2
  let pos := r.first + x.1
  let i := tableGet st e (pos / 128) g
  if i = noPage ∨ h ≤ g ∨ (page st n i).sealed' then st
  else
    let rb := 2 * d16 + 16
    let rec' := (data.drop ((g * cnt + x.1) * rb)).take rb
    let dim := poolDim s n
    let pad (bs : List Byte) : List Byte := bs.take dim ++ zeros (256 - dim)
    let a := pageAt s n i + 256 * (pos % 128)
    let st := poolWrite st n a (pad rec')
    let st := poolWrite st n (a + 32768) (pad (rec'.drop d16))
    let st := poolWrite st n (metaAt s n i + pos % 128) ((rec'.drop (2 * d16)).take 1)
    let p := page st n i
    if r.counted ≤ pos then st else setPage st n i { p with fill := min 128 (p.fill + 1) }
/-- Pages of the slots a range touches. -/
def rangePages (s : State) (r : KvRange) : List Nat :=
  if r.n = 0 then [] else pagesIn s (seqE s r.pool r.seq) (r.first / 128) ((r.first + r.n - 1) / 128 + 1)
/-- An uncommitted instance has landed positions of the page's slot, or a position of it that FILL counts has not landed. -/
def slotHeld (s : State) (r : KvRange) (j : Nat) : Bool :=
  (seqRanges s r.pool r.seq).any (fun x => (if x.landed then x.inst != 0 else x.counted < x.first + x.n) &&
    x.first < 128 * j + 128 && 128 * j < x.first + x.n)
/-- Begin sealing the full pages of a range whose slots no uncommitted instance has filled (R234). -/
def sealRange (s : State) (r : KvRange) : State :=
  if r.n = 0 then s
  else (span (r.first / 128) ((r.first + r.n - 1) / 128 - r.first / 128 + 1)).foldl (fun s j =>
    if slotHeld s r j then s
    else (pagesIn s (seqE s r.pool r.seq) j (j + 1)).foldl (fun s i => sealBegin s r.pool i) s) s

/-- The data of a reserved range lands, and CURSOR publishes then or at a later turn (16 R277), at which its pages' sealing
ends and a published range is forgotten. -/
def execAppendLand (op : Nat) (s : State) : Out :=
  .next (match s.ranges.find? (fun r => r.op == op) with
    | none =>
      -- rolled back before it landed: the handle still completes
      match op? s op with
      | some o => (match o.kind with
        | .kvapp _ _ _ _ _ _ _ _ (some _) => if o.stage = .issued then onOp s op (fun o => { o with stage := .ready, fetched := true }) else s
        | _ => s)
      | none => s
    | some r =>
      if r.landed then
        let u := publish s r.pool r.seq
        let s1 := (rangePages s r).foldl (fun s i => sealEnd s r.pool i) u
        if !r.unpub && r.first + r.n ≤ (seqE u r.pool r.seq).cur then
          { s1 with ranges := s1.ranges.filter (fun x => x.op != op) } else s1
      else
        match op? s op with
        | some o => (match o.kind with
          | .kvapp n q cnt h _ d16 _ data _ =>
            if !releaseReady s o || writesBehind s o then s else
            let s1 := ((span 0 r.n).flatMap (fun i => (span 0 h).map (fun g => (i, g)))).foldl (landPos s r h cnt d16 data) s
            let s2 := { s1 with ranges := s1.ranges.map (fun x => if x.op = op then { x with landed := true } else x) }
            let s3 := if r.inst = 0 then sealRange s2 r else s2
            onOp (if free s 49 % 2 = 0 then publish s3 n q else s3) op (fun o => { o with stage := .ready, fetched := true, wrote := h * r.n * (2 * d16 + 16) })
          | _ => s)
        | none => s)

/-- A held append of an instance proceeds once every lower instance has appended to the sequence, reached SPEND or been
rejected (20 R327). -/
def execSpecKvappRelease (op : Nat) (s : State) : Out :=
  .next (match op? s op with
    | none => s
    | some o =>
      match o.kind, s.loops.find? (fun l => (car s l.cid).coach == o.coach) with
      | .kvapp n q _ _ _ _ _ _ _, some l =>
        let past (i : Inst) : Bool :=
          i.rejected || i.committed || i.appended.any (fun a => a.1 == n && a.2.1 == q && a.2.2 != 0) ||
            (i.reached && !s.ops.any (fun x => x.homes.contains i.cid && (match x.kind with
              | .kvapp m r _ _ _ _ _ _ none => m == n && r == q
              | _ => false)))
        if o.stage = .held && (l.insts.filter (fun i => i.j < o.inst)).all past then
          onOp s op (fun o => { o with stage := .issued }) else s
      | _, _ => s)

/-- A commit publishes an instance's appends (R233, R234); one that has not arrived will be no append of a window. -/
def commitAppends (s : State) (coach j : Nat) : State :=
  let own (r : KvRange) : Bool := r.coach == coach && r.inst == j && r.unpub
  let mine := s.ranges.filter own
  let s1 := { s with
    ranges := s.ranges.map (fun r => if own r then { r with inst := 0, unpub := false } else r)
    ops := s.ops.map (fun o => if o.coach = coach && o.inst = j then { o with win := false } else o) }
  mine.foldl (fun s r => publish (if r.landed then sealRange s r else s) r.pool r.seq) s1

/-- The bytes of positions `lo` to `hi` − 1 of a page are undefined (R235, 00 R3): free bytes, in a page that nothing else
holds. -/
def deadBytes (n lo hi : Nat) (s : State) (i : Nat) : State :=
  if 1 < (page s n i).ref ∨ (page s n i).sealed' then s
  else
    let any (a k : Nat) : List Byte := (span a k).map (fun x => Config.freeByte s.tick (2 ^ 90 + x))
    let put (s : State) (a k : Nat) : State := poolWrite s n a (any a k)
    put (put (put s (pageAt s n i + 256 * lo) (256 * (hi - lo))) (pageAt s n i + 32768 + 256 * lo) (256 * (hi - lo)))
      (metaAt s n i + lo) (hi - lo)
/-- The dead positions res to top − 1 of a sequence, page by page. -/
def deadSlots (s : State) (n : Nat) (e : SeqE) (res top : Nat) : State :=
  (span (res / 128) (ceilDiv top 128 - res / 128)).foldl (fun s j =>
    (pagesIn s e j (j + 1)).foldl (deadBytes n (max res (128 * j) - 128 * j) (min top (128 * j + 128) - 128 * j)) s) s

/-- Roll a marked sequence back to mark + a (R235), where its entry and table are taken (R228, 22 R355). FILL of the last page counts every position below RES, so a committed
one that lands later does not raise it again. -/
def rollback (s : State) (n q mark a : Nat) : State :=
  let e := seqE s n q
  if !e.opened || !seqReach s (poolWorld s n) e then s
  else
    let res := mark + a
    let base := 128 * ((res - 1) / 128)
    let keep (r : KvRange) : Bool := !(r.pool == n && r.seq == q) || r.first < res
    let cut (r : KvRange) : KvRange :=
      if r.pool = n ∧ r.seq = q then { r with n := min r.n (res - r.first), unpub := false, counted := if r.landed then r.counted else base }
      else r
    let s1 := deadSlots { s with ranges := (s.ranges.filter keep).map cut } n e res (max e.res res)
    let lo := ceilDiv res 128
    let hi := ceilDiv (max e.res res) 128
    let s2 := unmapFrom (releaseAll s1 n (pagesIn s1 e lo hi)).1 e lo hi
    let unl := (seqRanges s2 n q).filter (fun r => !r.landed)
    let s3 :=
      if res = 0 then s2
      else
        (pagesIn s2 e ((res - 1) / 128) ((res - 1) / 128 + 1)).foldl (fun s i =>
          let s := setPage s n i { page s n i with fill := res - base }
          if unl.any (fun r => base < r.first + r.n) then s else sealEnd (sealBegin s n i) n i) s2
    let stop := (unl.map (fun r => r.first)).foldl min res
    setRes (setCur s3 e stop) e res

/-! ## Forking and freeing (14 R236, R237) -/

def forkRun (s : State) (o : EngOp) (n q d : Nat) (rsv : Bool) : State :=
  let e := seqE s n q
  let f := seqE s n d
  let c := e.cur
  if !poolOk s n o.world || !seqReach s o.world e || !seqReach s o.world f then kvWorld s o n 0
  else if !e.opened || f.opened then kvDone s o.id kNoseq 0
  else if f.cap < ceilDiv c 128 ∨ e.h ≠ f.h then kvDone s o.id kCapacity 0
  else
    let whole := entriesIn e 0 (c / 128)
    let part := entriesIn e (c / 128) (ceilDiv c 128)
    let at' (x : Nat × Nat) : Nat := tableGet s e x.1 x.2
    let shared := pagesIn s e 0 (c / 128)
    let copied := pagesIn s e (c / 128) (ceilDiv c 128)
    let sat := fullPages s n [] shared
    let need := sat.length + copied.length
    if !canTake s n need rsv then kvDone s o.id (if sat.isEmpty then kReserve else kRefsat) 0
    else if !metasTaken s n shared || !pagesTaken s n (sat ++ copied ++ freeList s n need) then kvWorld s o n 0
    else
      let s0 := setRes (setCur (unmapFrom (setOpened s f true) f 0 f.cap) f c) f c
      let s1 := whole.foldl (fun s x =>
        if at' x = noPage then s
        else
          let r := sharePage s n (at' x)
          tablePut r.2 f x.1 x.2 r.1) s0
      let s2 := part.foldl (fun s x =>
        if at' x = noPage then s
        else
          let r := copyPage s n (at' x)
          tablePut r.2 f x.1 x.2 r.1) s1
      kvDone s2 o.id kOk c

def execKvforkArrive (op : Nat) (s : State) : Out :=
  .next (match op? s op with
    | none => s
    | some o =>
      match o.kind with
      | .kvfork n q d rsv => if o.stage = .issued && ready s (136 + poolMgr s n) && kvTurn s o n then forkRun s o n q d rsv else s
      | _ => s)

/-- Every append of the sequence has landed and none of its pages is being sealed. -/
def freeReady (s : State) (n q : Nat) : Bool :=
  let e := seqE s n q
  (seqRanges s n q).all (fun r => r.landed) && (!e.opened || (pagesIn s e 0 e.cap).all (fun i => !(page s n i).sealing))
/-- The mapped pages of an open sequence. -/
def openPages (s : State) (n q : Nat) : List Nat := if (seqE s n q).opened then pagesIn s (seqE s n q) 0 (seqE s n q).cap else []
def freeRun (s : State) (o : EngOp) (n q : Nat) : State :=
  let e := seqE s n q
  if !e.opened then kvDone s o.id kOk 0
  else
    let r := releaseAll s n (pagesIn s e 0 e.cap)
    let s1 := setRes (setCur (setOpened r.1 e false) e 0) e 0
    kvDone { s1 with ranges := s1.ranges.filter (fun x => !(x.pool == n && x.seq == q)) } o.id kOk r.2

/-! ## The prefix index (14 R238-R240) -/

def pfxBase (s : State) (n : Nat) : Nat := (poolReg s n 0x18).toNat
def pfxBuckets (s : State) (n : Nat) : Nat := 2 ^ field (pcfg s n) 24 8
def bucketOf (s : State) (n : Nat) (k : DWord) : Nat := k.toNat % pfxBuckets s n
def entryAddr (s : State) (n b x : Nat) : Nat := pfxBase s n + 256 * b + 64 * x
def listAddr (s : State) (n b x : Nat) : Nat := pfxBase s n + 256 * pfxBuckets s n + 1024 * (4 * b + x)
def entryValid (s : State) (n b x : Nat) : Bool := hnum s (entryAddr s n b x + 8) 1 == 1
def entryH (s : State) (n b x : Nat) : Nat := hnum s (entryAddr s n b x + 9) 1 + 1
def entryPages (s : State) (n b x : Nat) : List Nat :=
  (span 0 (entryH s n b x)).map (fun g => hnum s (listAddr s n b x + 4 * g) 4)
/-- The valid entry that holds a key; a pool without an index has none. -/
def pfxFind (s : State) (n : Nat) (k : DWord) : Option Nat :=
  if pfxBase s n = 0 then none
  else (span 0 4).find? (fun x =>
    entryValid s n (bucketOf s n k) x && hnum s (entryAddr s n (bucketOf s n k) x) 8 == k.toNat)
/-- The bucket's home: the row engine of its stack. -/
def pfxReady (s : State) (n : Nat) (k : DWord) : Bool := ready s (136 + stackOf (pfxBase s n + 256 * bucketOf s n k))
def pfxReach (s : State) (world : Bool) (n : Nat) (k : DWord) : Bool :=
  pfxBase s n == 0 || (rowsTake s world (entryAddr s n (bucketOf s n k) 0) 256 &&
    rowsTake s world (listAddr s n (bucketOf s n k) 0) 4096)

/-- H, then H page indices, as bytes. -/
def listBytes (ps : List Nat) : List Byte := leBytes 4 ps.length ++ ps.flatMap (leBytes 4)

/-- Enter a list at slot j of a sequence (R239); a FREE one is opened as by a first append (R231, log 44). -/
def attachRun (s : State) (o : EngOp) (n q j : Nat) (ps : List Nat) : State :=
  let e0 := seqE s n q
  let e := if e0.opened then e0 else { e0 with cur := 0, res := 0 }
  let atEnd := j = e.cur / 128 ∧ e.cur % 128 = 0
  if !(j < e.cur / 128 || atEnd) || e.cap ≤ j || ps.length ≠ e.h then kvDone s o.id kCapacity ps.length
  else
    let sat := fullPages s n [] ps
    let old := if e.opened then pagesIn s e j (j + 1) else []
    if !sat.isEmpty && !canTake s n sat.length false then kvDone s o.id kRefsat ps.length
    else if !metasTaken s n (ps ++ old) || !pagesTaken s n (sat ++ freeList s n sat.length) then kvWorld s o n 0
    else
      let s1 := ((span 0 ps.length).zip ps).foldl (fun s x =>
        let r := sharePage s n x.2
        tablePut r.2 e j x.1 r.1) (openSeq s n q e)
      let s2 := (releaseAll s1 n old).1
      let s3 := if atEnd then setRes (setCur s2 e (e.cur + 128)) e (e.res + 128) else s2
      kvDone s3 o.id kHit ps.length

def execPfxLookupArrive (op : Nat) (s : State) : Out :=
  .next (match op? s op with
    | none => s
    | some o =>
      match o.kind with
      | .pfxf n k att dst =>
        if o.stage ≠ .issued || !pfxReady s n k || !(att.isNone || (ready s (136 + poolMgr s n) && kvTurn s o n)) then s
        else if !poolOk s n o.world || !pfxReach s o.world n k then kvWorld s o n 0
        else match pfxFind s n k with
          | none => kvDone s op kMiss 0
          | some x =>
            let ps := entryPages s n (bucketOf s n k) x
            match att with
            | some (q, j) => if seqReach s o.world (seqE s n q) then attachRun s o n q j ps else kvWorld s o n 0
            | none => onOp (kvDone s op kHit ps.length) op (fun o => { o with out := [{ dest := .loc dst, bytes := listBytes ps }] })
      | _ => s)

/-- The test of an insert, in order (R240). -/
def insertRun (s : State) (o : EngOp) (n : Nat) (k : DWord) (dst : Nat) (words : List Nat) : State :=
  let h := words.headD 0
  let ps := (words.drop 1).take h
  let b := bucketOf s n k
  if h = 0 ∨ 256 < h ∨ ps.any (fun i => poolPages s n ≤ i) then kvDone s o.id kBadlist h
  else match pfxFind s n k with
    | some x =>
      let win := entryPages s n b x
      onOp (kvDone s o.id kExists win.length) o.id (fun o => { o with out := [{ dest := .loc dst, bytes := listBytes win }] })
    | none =>
      if !metasTaken s n ps then kvWorld s o n h
      else if ps.any (fun i => !(page s n i).sealed') then kvDone s o.id kUnsealed h
      else if !(fullPages s n [] ps).isEmpty then kvDone s o.id kRefsat h
      else match (if pfxBase s n = 0 then none else (span 0 4).find? (fun x => !entryValid s n b x)) with
        | none => kvDone s o.id kFull h
        | some x =>
          let s1 := mwrite s (hk (entryAddr s n b x)) (bitsLe 8 k ++ leBytes 1 1 ++ leBytes 1 (h - 1) ++ zeros 54)
          let s2 := mwrite s1 (hk (listAddr s n b x)) (ps.flatMap (leBytes 4))
          let s3 := ps.foldl (fun s i => setPage s n i { page s n i with ref := (page s n i).ref + 1 }) s2
          kvDone s3 o.id kOk h

def execPfxInsertArrive (op : Nat) (s : State) : Out :=
  .next (match op? s op with
    | none => s
    | some o =>
      match o.kind with
      | .pfxi n k dst words =>
        if o.stage ≠ .issued || !pfxReady s n k || !ready s (136 + poolMgr s n) || !kvTurn s o n then s
        else if !poolOk s n o.world || !pfxReach s o.world n k then kvWorld s o n (words.headD 0)
        else insertRun s o n k dst words
      | _ => s)

/-- Remove an entry, releasing its references. -/
def removeRun (s : State) (o : EngOp) (n : Nat) (k : DWord) : State :=
  match pfxFind s n k with
  | none => kvDone s o.id kMiss 0
  | some x =>
    let b := bucketOf s n k
    let r := releaseAll s n (entryPages s n b x)
    if !metasTaken s n (entryPages s n b x) then kvWorld s o n 0
    else kvDone (mwrite r.1 (hk (entryAddr s n b x)) (zeros 64)) o.id kOk r.2

/-- A free that has to wait has arrived: a clearing of EN waits for it (R228, R237). -/
def execKvfreeArrive (op : Nat) (s : State) : Out :=
  .next (match op? s op with
    | none => s
    | some o =>
      match o.kind with
      | .kvfree n q none =>
        if o.stage ≠ .issued || !ready s (136 + poolMgr s n) || !kvTurn s o n then s
        else if !o.started && (!poolOk s n o.world || !seqReach s o.world (seqE s n q)) then kvWorld s o n 0
        else if !freeReady s n q then onOp s op (fun o => { o with started := true })
        else if metasTaken s n (openPages s n q) then freeRun s o n q else kvWorld s o n 0
      | .kvfree n _ (some k) =>
        if o.stage ≠ .issued || !pfxReady s n k || !ready s (136 + poolMgr s n) || !kvTurn s o n then s
        else if !poolOk s n o.world || !pfxReach s o.world n k then kvWorld s o n 0
        else removeRun s o n k
      | _ => s)

/-! ## Page checks (24 R385, 25 R396) -/

/-- A contained error adds to a function's UECNT, saturating (24 R384). -/
def errStat (fn : Nat) : Nat := 0x100 + 16 * fn
def bumpUe (s : State) (fn : Nat) : State :=
  let r := (rsys s 0 2 (errStat fn)).toNat
  wsys s 0 2 (errStat fn) (BitVec.ofNat 64 (setField (setField r 32 16 (min (nbits r 32 16 + 1) 65535)) 62 2 2))
/-- ERRADDR takes an address too, unless it holds one that has not been read. -/
def noteErr (s : State) (fn : Nat) (a : DWord) : State :=
  let s := bumpUe s fn
  if cget s.unread fn == 1 then s else { wsys s 0 2 (errStat fn + 8) a with unread := cset s.unread fn 1 }
/-- The first poisoned unit among the bytes that a check of a page reads: its physical address. -/
def pagePoison (s : State) (n i : Nat) : Option Nat :=
  ((unitsTouched (hk (pageAt s n i)) 65536 ++ unitsTouched (hk (metaAt s n i)) 128).find? (fun u => cget s.mPoison u == 1)).map
    (fun u => 8 * u % 2 ^ 48)
/-- A mismatch, or a contained error while reading, poisons the page and is logged with its pool and index. -/
def pageBad (s : State) (n i : Nat) : State :=
  let s1 := setPoolReg (setPage s n i { page s n i with poison := true }) n 0x48 (BitVec.ofNat 64 (n * 2 ^ 52 + i))
  match pagePoison s n i with
  | some a => noteErr s1 (136 + poolMgr s n) (BitVec.ofNat 64 a)
  | none => bumpUe s1 (136 + poolMgr s n)
/-- The check finds the stored CRC, and no contained error while reading. -/
def pageGood (s : State) (n i : Nat) : Bool :=
  hnum s (metaAt s n i + 0x80) 4 == (pageCrc s n i).toNat && (pagePoison s n i).isNone

def execPgchkCheck (op : Nat) (s : State) : Out :=
  .next (match op? s op with
    | none => s
    | some o =>
      match o.kind with
      | .pgchk n i =>
        let fin (s : State) (st : Nat) (crc : Nat) : State := kvDone s op st crc
        if o.stage ≠ .issued || !ready s (136 + poolMgr s n) then s
        else if !poolOk s n o.world then fin s 5 0
        else if poolPages s n ≤ i then fin s 4 0
        else if !pagesTaken s n [i] then fin s 5 0
        else if !(page s n i).sealed' then fin s 2 0
        else if (page s n i).poison then fin s 3 0
        else if pageGood s n i then fin s 0 (pageCrc s n i).toNat
        else fin (pageBad s n i) 1 (pageCrc s n i).toNat
      | _ => s)

/-- The page is on the pool's free list. -/
def pageFree (s : State) (n i : Nat) : Bool := (freeList s n (poolFree s n)).contains i
/-- The next sealed page from where the scrubber stands, in ascending order and round again; free ones are skipped. -/
def scrubPick (s : State) (n : Nat) : Option Nat :=
  let p := poolPages s n
  let at' := (cget s.scrubNext n).toNat % max 1 p
  (span at' (p - at') ++ span 0 at').find? (fun i => pagesTaken s n [i] && (page s n i).sealed' && !pageFree s n i)
def execScrubberTick (pool : Nat) (s : State) : Out :=
  .next (if pool < 16 && poolEn s pool && poolReg s pool 0x40 != 0 && ready s (136 + poolMgr s pool) then
      match scrubPick s pool with
      | none => s
      | some i =>
        let s1 := { s with scrubNext := cset s.scrubNext pool (BitVec.ofNat 32 (i + 1)) }
        if pageGood s pool i then s1 else pageBad s1 pool i
    else s)

end Sys2Proof.Machine
end

