-- ==== Sys2Proof/Machine/Ap.lean ====
section
/-! DEFINITION. The access-processor forms of SLD, QPOP, QPUSH and EXIT (14 R241-R244). They run with `apMode` set: the
s and k registers and the pc are the context's own, and a trap is a fault of the context. -/
namespace Sys2Proof.Machine

/-- The residency key of a lookup (14 R242). -/
def apKey (s : State) (i : LocI) : DWord := rs s i.h.a + rs s i.h.b + i.t.ofs.signExtend 64

/-- What a lookup loads: the low bytes of the map result in the width given. -/
def apLookup (i : LocI) (s : State) : State :=
  nextPc (ws s i.h.d (loadS (bitsLe (widBytes i.wid) (mapResult s s.self.world (apKey s i))) i.u))

/-- An interlocked load: it reads once no line of its bytes is owned exclusively (14 R244, 11 R193). -/
def apLoad (sp : LocSpace) (i : LocI) (s : State) : State :=
  let a := sclAddr s i true
  let n := widBytes i.wid
  if !locOk s sp a then trapC s .addrRange
  else if a % n != 0 then trapC s .addrAlign
  else
    let keys := locKeys s sp 0 a n
    if (keyLines keys).any (lineExcl s) then s
    else
      let s1 := ws s i.h.d (loadS (seeBytes s s.self.id [] keys) i.u)
      let bad := seeBad s s.self.id [] keys && sNum i.h.d != 0
      nextPc (onAp s1 (fun c => { c with sPoison := setBitTo c.sPoison (sNum i.h.d) bad }))

/-- MOD[1:0] selects shared memory, the scratchpad or a residency lookup. -/
def execApSld (i : LocI) (s : State) : Out :=
  scalarOp i.h [i.h.a, i.h.b] s (fun s =>
    match i.low.toNat with
    | 0 => apLoad .shm i s
    | 1 => apLoad .scr i s
    | _ => apLookup i s)

/-- It waits while the inbound queue is empty. -/
def execApQpop (i : RrrI) (s : State) : Out :=
  scalarOp i.h [] s (fun s =>
    match (apOf s).inbound with
    | [] => s
    | x :: r => nextPc (ws (onAp s (fun c => { c with inbound := r })) i.h.d x))

/-- Entries of one carriage queue (02 R37: 32 at most). -/
def queueLen (s : State) (n : Nat) : Nat := (s.self.q.filter (fun e => e.1 == n)).length

/-- It waits while queue D holds 32 entries. -/
def execApQpush (i : RrrI) (s : State) : Out :=
  scalarOp i.h [i.h.a] s (fun s =>
    let n := i.h.d.toNat
    if 32 ≤ queueLen s n then s
    else nextPc (onSelf s (fun c => { c with q := c.q ++ [(n, rs s i.h.a)] })))

/-- EXIT closes all eight queues and ends the context. -/
def execApExit (i : RrrI) (s : State) : Out :=
  scalarOp i.h [] s (fun s =>
    onSelf s (fun k => { k with ap := some { apOf s with running := false, exited := true }, qClosed := 0xFF }))

end Sys2Proof.Machine
end

