-- ==== Sys2Proof/Machine/Cart.lean ====
section
/-! DEFINITION. Index carts: GAT, GATP, SCA, SCAA, their fold and partition, the home switch, the row engines, pooling,
replies and placement (13 R213-R227, 16 R269). -/
namespace Sys2Proof.Machine

/-! ## Homes (13 R213) -/

/-- The dies that DIES marks, counting upward. -/
def diesOf (d : TensorDesc) : List Nat := (if d.dies.getLsbD 0 then [0] else []) ++ (if d.dies.getLsbD 1 then [1] else [])
def rowBlock (d : TensorDesc) (r : Nat) : Nat :=
  if d.hash then ((leBytes 4 r).foldl crcByte d.seed).toNat else r / 2 ^ d.logn
/-- Package slot, die and stack of a row. -/
def rowHome (d : TensorDesc) (r : Nat) : Nat × Nat × Nat :=
  let g := rowBlock d r
  let ds := diesOf d
  let die := (ds[(g / d.pkgs) % max 1 ds.length]?).getD 0
  (g % d.pkgs, die, 4 * die + (g / (d.pkgs * ds.length)) % 4)

/-! ## Element arithmetic (13 R217, R221, R222) -/

def addF32 (x y : Word) : Word := atomicNew 10 x y 0
/-- One contribution: FP32 or INT32. -/
def addElem (fmt : Nat) (x y : Word) : Word := if fmt = 9 then x + y else addF32 x y
def wordsOf (bs : List Byte) : List Word := (span 0 (bs.length / 4)).map (fun i => leBits 32 ((bs.drop (4 * i)).take 4))
def bytesOfWords (ws : List Word) : List Byte := ws.flatMap (bitsLe 4)
/-- Elements as FP32: exactly, or by widening BF16. -/
def poolWords (fmt : Nat) (bs : List Byte) : List Word :=
  if fmt = 3 then (span 0 (bs.length / 2)).map (fun i => BitVec.ofNat 32 (leAt bs (2 * i) 2 * 2 ^ 16)) else wordsOf bs
def poolTwo (pool : Nat) (x y : List Word) : List Word :=
  (x.zip y).map (fun p => if pool = 2 then pmaxF32 p.1 p.2 else addF32 p.1 p.2)
/-- A bag in the tensor's format, rounded once. -/
def bagBytes (fmt : Nat) (ws : List Word) : List Byte :=
  if fmt = 3 then ws.flatMap (fun w => leBytes 2 (roundNe fmtBF16 (decodeF fmtF32 w.toNat))) else bytesOfWords ws

/-- The value kept for a key, or nothing. -/
def assoc {α : Type} (k : Nat) (xs : List (Nat × α)) : Option α := (xs.find? (fun x => x.1 == k)).map (fun x => x.2)
/-- Combine partials as they arrive: the first to arrive is taken as it stands (13 R221). -/
def poolIn (pool : Nat) (acc new : List (Nat × List Word)) : List (Nat × List Word) :=
  new.foldl (fun acc b =>
    match assoc b.1 acc with
    | some x => acc.map (fun y => if y.1 = b.1 then (b.1, poolTwo pool x b.2) else y)
    | none => acc ++ [b]) acc

/-! ## Issue (16 R269) -/

/-- The package map: slot i's package, read as of issue. -/
def cartMap (s : State) (e : EngAt) (d : TensorDesc) : Except (Cause × Nat) (List Nat) :=
  if d.map = 0 then .ok (span 0 d.pkgs)
  else
    let g := readGlob s e (piecesOf d.map.toNat (2 * d.pkgs))
    match g.fault with
    | some x => .error x
    | none => .ok ((span 0 d.pkgs).map (fun i => leAt g.bytes (2 * i) 2))

/-- The thread of a slot when it is live. -/
def slotLive (s : State) (slot : Nat) : Option Nat :=
  match (s.self.slots[slot]?).getD 0 with
  | 0 => none
  | t + 1 => if isLive s t then some t else none
/-- Position p's word in the registers from `reg` on. -/
def slotWord (s : State) (reg p : Nat) : Word :=
  let w := max 1 (widthOf s.self)
  match slotLive s (p % w) with
  | some t => rv s t (reg + p / w)
  | none => 0xFFFFFFFF#32
def slotWordBad (s : State) (reg p : Nat) : Option Nat :=
  let w := max 1 (widthOf s.self)
  match slotLive s (p % w) with
  | some t => if vBad s t (reg + p / w) then some (p % w) else none
  | none => none

/-- Format and element checks of the type: GATP FP32 or BF16, SCAA FP32 or INT32. -/
def cartFmtOk (typ fmt : Nat) : Bool :=
  if typ = tGatp then fmt == 1 || fmt == 3 else if typ = tScaa then fmt == 1 || fmt == 9 else true

/-- The descriptor and the map, or why no cart is formed. -/
def cartDesc (s : State) (e : EngAt) (typ addr : Nat) : Except (Cause × Nat) (TensorDesc × List Nat) :=
  match tensorFor s e addr with
  | .error x => .error x
  | .ok d =>
    match cartMap s e d with
    | .error x => .error x
    | .ok m => if cartFmtOk typ d.fmt then .ok (d, m) else .error (.tileMismatch, addr)

/-- Local ranges of a cart: its index array, its rows and its mask (16 R269). -/
def cartRows (c : Cart) : Range := (1, c.x, (if c.head.typ = tGatp then c.m else c.c) * c.head.rowBytes)
def cartMask (c : Cart) : Range := (1, c.maskAt, 64)
def cartIdx (c : Cart) : List Range :=
  match c.idxAt with
  | some a => [(1, a, 4 * if c.head.typ = tGatp then 2 * c.c else c.c)]
  | none => []
/-- The cart with the row bytes of a descriptor; the mask follows its row area. -/
def withRowBytes (c : Cart) (rb : Nat) : Cart :=
  let n := (if c.head.typ = tGatp then c.m else c.c) * rb
  { c with head := { c.head with rowBytes := rb }, maskAt := c.x + ceilDiv n 64 * 64 }
/-- The lines it owns shared, and those it owns exclusive. -/
def cartLines (e : EngAt) (c : Cart) : List Nat × List Nat :=
  if 3 ≤ c.head.typ then (rangeLines e (cartIdx c ++ [cartRows c]), rangeLines e [cartMask c])
  else (rangeLines e (cartIdx c), rangeLines e [cartRows c, cartMask c])
def cartFits (s : State) (e : EngAt) (c : Cart) : Bool := rangeIn s e (cartRows c) && rangeIn s e (cartMask c)
/-- The cart as of issue: what its descriptor and its package map hold then (13 R213). -/
def cartAt (s : State) (e : EngAt) (c : Cart) : Except (Cause × Nat) Cart :=
  match cartDesc s e c.head.typ c.daddr with
  | .error x => .error x
  | .ok (d, map) =>
    let c := withRowBytes c d.rowBytes
    .ok { c with head := { c.head with fmt := d.fmt, base := d.base, stride := d.stride }, desc := d, map := map }

/-- The cart an instruction names, before its issue: the row bytes are those its descriptor held when it was checked. -/
def newCart (s : State) (i : EngI) (typ : Nat) (got : Except (Cause × Nat) TensorDesc) : Cart :=
  let e := engSelf s
  let t := rt s i.h.a
  let b := rs s i.h.b
  let ia := field b 32 32
  let c := field i.t.emod 0 9 + 1
  let mem := i.t.emod.getLsbD 9
  let q := ceilDiv c (max 1 (widthOf s.self))
  let d := got.toOption.getD (descOf (zeros 64))
  let head : CartHead :=
    { op := 0, typ := typ, world := e.world, pool := field i.t.emod 10 2, space := e.space
      reqPkg := Config.ownPackage, reqCore := s.self.core + 128 * dieOf s.self.core, token := 0, fmt := d.fmt, rowBytes := 0, base := d.base, stride := d.stride }
  withRowBytes
    { head := head, c := c, m := if typ = tGatp then i.mod.toNat + 1 else c, x := field b 0 32, maskAt := 0
      daddr := tDaddr t, desc := d, rowo := tRowo t, map := []
      idxAt := if mem then some ia else none
      idx := if mem then [] else (span 0 c).map (fun p => (slotWord s ia p).toNat)
      bags := if mem || typ != tGatp then [] else (span 0 c).map (fun p => (slotWord s (ia + q) p).toNat % 512)
      entries := [], kept := [], faults := [], sent := false, dup := false, await := 0, rows := [], bagAcc := [] } d.rowBytes

/-- The slot of the first position whose index or bag register is poisoned. -/
def cartPoison (s : State) (i : EngI) (typ : Nat) : Option Nat :=
  let ia := field (rs s i.h.b) 32 32
  let c := field i.t.emod 0 9 + 1
  let q := ceilDiv c (max 1 (widthOf s.self))
  if i.t.emod.getLsbD 9 then none
  else ((span 0 c).filterMap (fun p =>
    (slotWordBad s ia p).or (if typ = tGatp then slotWordBad s (ia + q) p else none))).head?

def cartOp (typ : Nat) (i : EngI) (s : State) : Out :=
  engOp i [i.h.b] s (fun s =>
    let e := engSelf s
    let t := rt s i.h.a
    let ia := field (rs s i.h.b) 32 32
    let q := ceilDiv (field i.t.emod 0 9 + 1) (max 1 (widthOf s.self))
    if tKind t = .invalid then trapC s .tileInvalid
    else if tKind t ≠ .tensor then trapC s .tileMismatch
    else if tColb t ≠ 0 then trapC s .tileRange
    else if 3 ≤ typ && s.self.spinst != 0 then trapC s .specIllegal
    else if !i.t.emod.getLsbD 9 && s.self.nreg < ia + (if typ = tGatp then 2 * q else q) then trapC s .regRange
    else
      let got := tensorFor s e (tDaddr t)
      let c := newCart s i typ got
      if !(cartIdx c).all (rangeIn s e) then trapAddr s .addrRange ia
      else if got.toBool && !cartFits s e c then trapAddr s .addrRange c.x
      else if c.idxAt.isSome && ia % 4 != 0 then trapAddr s .addrAlign ia
      else if c.x % 64 ≠ 0 then trapAddr s .addrAlign c.x
      else match cartPoison s i typ with
        | some slot => trapSlot s .poison slot 0
        | none =>
          let ls := if got.toBool then cartLines e c else ([], [])
          issueOp i (.cart c) ls.1 ls.2 id s)

def execGat (i : EngI) (s : State) : Out := cartOp tGat i s
def execGatp (i : EngI) (s : State) : Out := cartOp tGatp i s
def execSca (i : EngI) (s : State) : Out := cartOp tSca i s
def execScaa (i : EngI) (s : State) : Out := cartOp tScaa i s

/-! ## At the grant: indices and rows as of issue -/

/-- The words of an index array; a poisoned one is reported. -/
def idxWords (s : State) (e : EngAt) (log : List LogStore) (a n : Nat) : List (Nat × Bool) :=
  let key := memKey .shm e.coach a
  (span 0 n).map (fun p =>
    (leNat (seeBytes s e.cid log (span (key + 4 * p) 4)), seeBad s e.cid log (span (key + 4 * p) 4)))

/-- The cart formed: entries that travel, and positions that fault at the requester: a poisoned index,
an index out of range (R214), and of a clean index in range a poisoned bag word (DESIGN CHOICE, log 100) or a bag out of
range (R269). -/
def formCart (s : State) (o : EngOp) (log : List LogStore) (c : Cart) : Cart :=
  let e := engOf o
  let words := match c.idxAt with
    | some a => idxWords s e log a (if c.head.typ = tGatp then 2 * c.c else c.c)
    | none => (c.idx ++ c.bags).map (fun w => (w, false))
  let pos := (span 0 c.c).map (fun p =>
    let w := (words[p]?).getD (0, false)
    let g := (words[c.c + p]?).getD (0, false)
    let bag := if c.head.typ = tGatp then g.1 % 512 else 0
    let row := (c.rowo + w.1) % 2 ^ 32
    let key := memKey .shm e.coach (c.x + p * c.head.rowBytes)
    let send := 3 ≤ c.head.typ
    let data := if send then seeBytes s e.cid log (span key c.head.rowBytes) else []
    let pooled := c.head.typ == tGatp
    let home := rowHome c.desc row
    let en : CartEntry :=
      { row := row, pos := p, bag := bag, mult := 1, slot := home.1, die := home.2.1, stack := home.2.2, data := data
        bad := if send then (span 0 (ceilDiv c.head.rowBytes 8)).filter (fun u => seeBad s e.cid log (span (key + 8 * u) (min 8 (c.head.rowBytes - 8 * u)))) else [], code := 0, cause := 0, keys := [], done := [] }
    if w.2 then { en with code := 4, cause := causeCode .poison }
    else if c.desc.rows ≤ row then { en with code := 1, cause := causeCode .indexRange }
    else if pooled && g.2 then { en with code := 4, cause := causeCode .poison }
    else if pooled && c.m ≤ bag then { en with code := 1, cause := causeCode .indexRange }
    else en)
  { c with
    head := { c.head with op := o.id, token := o.tok }
    entries := pos.filter (fun en => en.code == 0)
    faults := (pos.filter (fun en => en.code != 0)).map (fun en => (en.pos, en.code, en.cause)) }

/-! ## The local switch (13 R216, R217, R226) -/

def sameGroup (typ : Nat) (a b : CartEntry) : Bool := a.row == b.row && (typ != tGatp || a.bag == b.bag)
/-- The contributions of an SCAA group, summed in ascending position from +0. -/
def sumRows (fmt rb : Nat) (rows : List (List Byte)) : List Byte :=
  let z : List Word := (span 0 (rb / 4)).map (fun _ => 0)
  bytesOfWords (rows.foldl (fun acc r => (acc.zip (wordsOf r)).map (fun p => addElem fmt p.1 p.2)) z)
/-- The folded entry of a group in ascending position: a GATP's alone counts the entries folded as its multiplicity. -/
def foldGroup (h : CartHead) (g : List CartEntry) : Option CartEntry :=
  match g with
  | [] => none
  | [en] => some en
  | en :: _ =>
    if h.typ = tSca then g.getLast?
    else if h.typ = tScaa then some { en with bad := nubNat (g.flatMap (fun x => x.bad)), data := sumRows h.fmt h.rowBytes (g.map (fun x => x.data)) }
    else if h.typ = tGatp then some { en with mult := g.length }
    else some en
/-- Groups in order of their first position: `fuel` bounds the entries. -/
def foldAll (h : CartHead) : Nat → List CartEntry → List CartEntry × List (Nat × Nat)
  | 0, _ => ([], [])
  | _, [] => ([], [])
  | fuel + 1, en :: r =>
    let g := en :: r.filter (sameGroup h.typ en)
    let rest := foldAll h fuel (r.filter (fun x => !sameGroup h.typ en x))
    match foldGroup h g with
    | none => rest
    | some k => (k :: rest.1, g.map (fun x => (x.pos, k.pos)) ++ rest.2)

/-! ## Flits (13 R215) -/

/-- Bytes padded with zeros to a multiple of 64. -/
def padFlit (bs : List Byte) : List Byte := bs ++ zeros (ceilDiv bs.length 64 * 64 - bs.length)
/-- The header flit of a cart, or of a reply, which carries type + 0x80. -/
def headFlit (h : CartHead) (reply : Bool) (n : Nat) : List Byte :=
  leBytes 1 (h.typ + b2n reply * 0x80) ++ leBytes 1 (b2n h.world + h.pool * 2) ++ bitsLe 2 h.space ++ leBytes 2 h.reqPkg ++
    leBytes 1 h.reqCore ++ leBytes 1 h.fmt ++ bitsLe 8 h.token ++ leBytes 2 n ++ leBytes 2 h.rowBytes ++ zeros 4 ++
    bitsLe 8 h.base ++ leBytes 8 h.stride ++ zeros 24
/-- An entry of a cart or of a reply: the code of a cart's entry is 0. -/
def entryBytes (e : CartEntry) : List Byte :=
  leBytes 16 (e.row + e.pos * 2 ^ 32 + e.bag * 2 ^ 41 + e.mult * 2 ^ 50 + e.code * 2 ^ 60 + e.slot * 2 ^ 64 + e.die * 2 ^ 76 +
    e.stack % 4 * 2 ^ 77)
/-- Header, entries in ascending position, rows. -/
def flits (h : CartHead) (reply : Bool) (es : List CartEntry) (rows : List (List Byte)) : List Byte :=
  headFlit h reply es.length ++ padFlit (es.flatMap entryBytes) ++ rows.flatMap padFlit
def byPos (es : List CartEntry) : List CartEntry := sortBy (fun a b => a.pos ≤ b.pos) es
/-- A sub-cart that leaves the package: SCA and SCAA bring their rows. -/
def cartFlits (h : CartHead) (es : List CartEntry) : List Byte :=
  let es := byPos es
  flits h false es (if 3 ≤ h.typ then es.map (fun e => e.data) else [])
/-- Poison of the 8-byte units of those flits (24 R383): the rows bring theirs. -/
def cartMarks (h : CartHead) (es : List CartEntry) : List Bool :=
  let clean (n : Nat) : List Bool := (span 0 (n / 8)).map (fun _ => false)
  clean (64 + ceilDiv (16 * es.length) 64 * 64) ++
    (if 3 ≤ h.typ then (byPos es).flatMap (fun e => (span 0 (ceilDiv e.data.length 64 * 8)).map e.bad.contains) else [])
/-- A sub-cart goes out by a port. -/
def sendCart (s : State) (h : CartHead) (es : List CartEntry) : State :=
  { s with akbexOut := s.akbexOut ++ cartFlits h es, akbexBad := s.akbexBad ++ cartMarks h es }
/-- A reply that leaves the package: one row for each entry of status 0 of a GAT or a GATP, whose row is its bag's
partial. -/
def replyFlits (h : CartHead) (es : List CartEntry) (bags : List (Nat × List Word)) : List Byte :=
  let es := byPos es
  let good := es.filter (fun e => e.code == 0)
  flits h true es (if h.typ = tGat then good.map (fun e => e.data)
    else if h.typ = tGatp then good.map (fun e => bytesOfWords ((assoc e.bag bags).getD [])) else [])

def readyP (s : State) (pkg fn : Nat) : Bool := (rsysP s pkg 0 2 (8 * (fn / 64))).getLsbD (fn % 64)
/-- One millisecond from now. -/
def holdUntil (s : State) : Nat := s.ns + 1000000
/-- A deadline for what is held no more. -/
def noHold : Nat := 2 ^ 80

/-- The sub-carts of a cart by package slot: a route that cannot deliver holds its sub-cart. -/
def splitPkgs (s : State) (h : CartHead) (map : List Nat) (es : List CartEntry) : State :=
  (nubNat (es.map (fun en => en.slot))).foldl (fun s slot =>
    let pkg := (map[slot]?).getD 0
    let n := newId s
    let up := pkg == Config.ownPackage || (routePort s pkg).isSome
    let mine := es.filter (fun en => en.slot == slot)
    let s := if up && pkg != Config.ownPackage then sendCart n.2 h mine else n.2
    { s with
      subs := s.subs ++ [
        { id := n.1, head := h, pkg := pkg, stage := if up then 1 else 0, deadline := if up then 0 else holdUntil s
          entries := mine, diesLeft := 0, got := [], bagAcc := [] }] }) { s with akbexOut := [], akbexBad := [] }

def dieCount (es : List CartEntry) : Nat := (nubNat (es.map (fun en => en.die))).length
/-- Replies a cart awaits: one from each sub-cart. -/
def awaited (es : List CartEntry) : Nat := (nubNat (es.map (fun en => en.slot))).length

/-! ## Placement (13 R223, R224) -/

def onCart (s : State) (op : Nat) (f : Cart → Cart) : State :=
  onOp s op (fun o => match o.kind with
    | .cart c => { o with kind := .cart (f c) }
    | _ => o)

/-- Faults of a kept position pass to every position folded into it; of a SCA's dropped positions no rule says so
(DESIGN CHOICE, log 132). -/
def allFaults (c : Cart) : List (Nat × Nat × BitVec 8) :=
  c.faults ++ (c.kept.filter (fun k => k.1 != k.2)).filterMap (fun k => (assoc k.2 c.faults).map (fun f => (k.1, f)))
def keptOf (c : Cart) (p : Nat) : Nat := (assoc p c.kept).getD p
/-- The fault mask: bit i of byte i div 8. -/
def maskBytes (faulted : List Nat) : List Byte :=
  (span 0 64).map (fun b => BitVec.ofNat 8 (sumNat ((span 0 8).map (fun i => if faulted.contains (8 * b + i) then 2 ^ i else 0))))
/-- The tile: rows by position, or bags; faulted positions and empty bags are zeros. -/
def tileOut (c : Cart) (faulted : List Nat) : List (List Byte) :=
  let rb := c.head.rowBytes
  if c.head.typ = tGat then
    (span 0 c.c).map (fun p =>
      if faulted.contains p then zeros rb else ((assoc (keptOf c p) c.rows).getD (zeros rb)))
  else if c.head.typ = tGatp then
    (span 0 c.m).map (fun b =>
      match assoc b c.bagAcc with
      | some ws =>
        let bs := bagBytes c.head.fmt ws
        -- bytes past the last whole element have no stated value
        bs ++ (span bs.length (rb - bs.length)).map (fun i => Config.freeByte b (2 ^ 60 + i))
      | none => zeros rb)
  else []

/-- All replies are in: what lands, and the status fields. -/
def closeCart (o : EngOp) (c : Cart) : EngOp :=
  let fs := allFaults c
  let faulted := fs.map (fun f => f.1)
  let rows := tileOut c faulted
  let key (a : Nat) : Dest := .loc (memKey .shm o.coach a)
  let first := ((sortBy (fun a b => a.1 ≤ b.1) fs).head?).map (fun f => f.2.2)
  let has (code : Nat) : Bool := fs.any (fun f => f.2.1 == code)
  { o with
    stage := .ready, fetched := true
    out := ((span 0 rows.length).zip rows).map (fun r => { dest := key (c.x + r.1 * c.head.rowBytes), bytes := r.2 }) ++
      [{ dest := key c.maskAt, bytes := maskBytes faulted }]
    cause := first.getD 0
    hiBits := BitVec.ofNat 5 (b2n (has 6) * 16 + b2n (has 5) * 8 + b2n c.dup * 4 + b2n (!fs.isEmpty))
    midBits := BitVec.ofNat 8 (min fs.length 255)
    lowBits := BitVec.ofNat 40 (rows.length * c.head.rowBytes) }
def settleCart (s : State) (op : Nat) : State :=
  onOp s op (fun o => match o.kind with
    | .cart c => if c.sent && c.await = 0 then closeCart o c else o
    | _ => o)

def execCartLocalSwitch (op : Nat) (s : State) : Out :=
  .next (match op? s op with
    | none => s
    | some o =>
      match o.kind with
      | .cart c =>
        if o.stage ≠ .issued ∨ c.sent || !releaseReady s o || readsBehind s o || writesBehind s o then s
        else
          let f := foldAll c.head c.entries.length c.entries
          let s := splitPkgs s c.head c.map f.1
          settleCart (onCart (onOp s op (fun o => { o with started := true })) op (fun c => { c with
            sent := true, kept := f.2, dup := f.1.length != c.entries.length, await := awaited f.1 })) op
      | _ => s)

/-! ## The home switch (13 R218, R226) -/

def onSub (s : State) (id : Nat) (f : SubCart → SubCart) : State :=
  { s with subs := s.subs.map (fun x => if x.id = id then f x else x) }
def onPart (s : State) (id : Nat) (f : CartPart → CartPart) : State :=
  { s with parts := s.parts.map (fun x => if x.id = id then f x else x) }
def failEntry (code : Nat) (c : Cause) (en : CartEntry) : CartEntry := { en with code := code, cause := causeCode c, data := [] }

/-- A reply of a whole sub-cart that went no further. -/
def bounce (s : State) (x : SubCart) (code : Nat) (c : Cause) : State :=
  let n := newId s
  { n.2 with
    subs := n.2.subs.filter (fun y => y.id != x.id)
    replies := n.2.replies ++ [{ id := n.1, op := x.head.op, sub := x.id, stage := 1
                                 entries := x.entries.map (failEntry code c), bags := [] }] }
/-- A dropped sub-cart: the count rises once an entry. -/
def dropSub (s : State) (x : SubCart) : State :=
  bounce (x.entries.foldl (fun s en =>
    noteMismatchAt s x.pkg mmHomeSwitch x.head.world x.head.space x.head.reqPkg (BitVec.ofNat 64 en.row)) s) x 5 .world

/-- A row engine and its stack are ready. -/
def rowReady (s : State) (pkg stack : Nat) : Bool := readyP s pkg (136 + stack) && readyP s pkg (128 + stack)
def splitStacks (s : State) (x : SubCart) : State :=
  (nubNat (x.entries.map (fun en => en.stack))).foldl (fun s st =>
    let n := newId s
    let up := rowReady s x.pkg st
    { n.2 with parts := n.2.parts ++ [{ id := n.1, sub := x.id, head := x.head, pkg := x.pkg, stack := st, held := !up
                                        deadline := if up then 0 else holdUntil s, born := s.tick, begun := false
                                        entries := x.entries.filter (fun en => en.stack == st), replied := false, partials := [] }] }) s

/-- The world of the Akbex port that receives a sub-cart at another package; which port that is no rule gives. A peer's
sub-cart has passed this test at its port here before it stands in `subs`. -/
def arrivalWorld (s : State) (x : SubCart) : Bool := (rsysP s x.pkg 0 5 0x010).getLsbD (free s 9 % 12)

def execCartHomeSwitch (sub : Nat) (s : State) : Out :=
  .next (match s.subs.find? (fun x => x.id == sub) with
    | none => s
    | some x =>
      if x.stage ≠ 1 then s
      else if x.pkg ≠ Config.ownPackage ∧ arrivalWorld s x ≠ x.head.world then dropSub s x
      else splitStacks (onSub s sub (fun y => { y with stage := 2, diesLeft := dieCount x.entries })) x)

/-- A held sub-cart, or a held part, whose hop has become ready within its hold proceeds (R226). -/
def subHop (s : State) (x : SubCart) : Bool := x.stage == 0 && s.ns ≤ x.deadline && (routePort s x.pkg).isSome
def partHop (s : State) (p : CartPart) : Bool := p.held && s.ns ≤ p.deadline && rowReady s p.pkg p.stack
def leaveSub (s : State) (x : SubCart) : State :=
  onSub (sendCart s x.head x.entries) x.id (fun y => { y with stage := 1 })
def leavePart (s : State) (p : CartPart) : State := onPart s p.id (fun q => { q with held := false, born := s.tick })
/-- Whatever a hop that is ready now holds proceeds before time passes: readiness is not sampled. The sub-carts that leave
go out one after another. -/
def leaveHolds (s : State) : State :=
  let xs := s.subs.filter (subHop s)
  let t := if xs.isEmpty then s else { s with akbexOut := [], akbexBad := [] }
  (s.parts.filter (partHop s)).foldl leavePart (xs.foldl leaveSub t)

def execSubcartHoldRelease (sub : Nat) (s : State) : Out :=
  .next (match s.subs.find? (fun x => x.id == sub), s.parts.find? (fun x => x.id == sub) with
    | some x, _ => if subHop s x then leaveSub { s with akbexOut := [], akbexBad := [] } x else s
    | none, some p => if partHop s p then leavePart s p else s
    | none, none => s)

def execSubcartNotreadyTimeout (sub : Nat) (s : State) : Out :=
  .next (match s.subs.find? (fun x => x.id == sub), s.parts.find? (fun x => x.id == sub) with
    | some x, _ => if x.stage = 0 && x.deadline ≤ s.ns && !subHop s x then bounce s x 6 .notready else s
    | none, some p =>
      if p.held && p.deadline ≤ s.ns && !partHop s p then
        onPart s sub (fun q => { q with held := false, replied := true, entries := q.entries.map (failEntry 6 .notready) })
      else s
    | none, none => s)

/-! ## Row engines (13 R218-R222) -/

/-- The leaf a row engine of a package uses. -/
def rowLeaf (s : State) (pkg stack : Nat) (world : Bool) (space : BitVec 16) (va : Nat) : FullWalk :=
  leafAt s pkg (engRow stack) world space va

/-- Permissions of a type. -/
def rowPerms (typ : Nat) : List Access :=
  if typ ≤ 2 then [.read] else if typ = tSca then [.write] else [.read, .write]

/-- What a part of a sub-cart has translated (R219): each page once, with its leaf, and each failed region, with its cause.
An address of it and its address bits name a page or a region. -/
abbrev Pages := List (Nat × Nat × Except Cause DWord)
def inPage (va : Nat) (p : Nat × Nat × Except Cause DWord) : Bool := va / 2 ^ p.2.1 == p.1 / 2 ^ p.2.1
def pagePut (s : State) (h : CartHead) (pkg stack : Nat) (m : Pages) (va : Nat) : Pages :=
  if m.any (inPage va) then m
  else match rowLeaf s pkg stack h.world h.space va with
    | .ok l => (va, l.2, .ok l.1) :: m
    | .error x => (va, x.2, .error x.1) :: m
def partPages (s : State) (h : CartHead) (pkg stack : Nat) (es : List CartEntry) : Pages :=
  (es.flatMap (fun en => (rowSpan h en.row).map (fun r => r.1))).foldl (pagePut s h pkg stack) []
/-- The leaf of an address: a failed region fails whatever lies in it. -/
def pageOf (m : Pages) (va : Nat) : Except Cause (DWord × Nat) :=
  match m.findSome? (fun p => if inPage va p then (match p.2.2 with
      | .error c => some c
      | .ok _ => none) else none), m.find? (inPage va) with
  | some c, _ => .error c
  | none, some (_, bits, .ok l) => .ok (l, bits)
  | none, _ => .error .xlateNone

/-- One piece of a row: its key, or the failure. -/
def rowPiece (s : State) (h : CartHead) (pkg stack : Nat) (m : Pages) (va n : Nat) : Except Cause Nat :=
  match pageOf m va with
  | .error c => .error c
  | .ok l =>
    if (rowPerms h.typ).any (fun a => !ptePerm l.1 a) then .error .xlatePerm
    else
      let pa := pteAddr l.1 + va % 2 ^ l.2
      if pteTgt l.1 ≠ 0 ∨ stackOf pa ≠ stack ∨ stackOf (pa + n - 1) ≠ stack then .error .homeStack
      else if unitWorld s pkg pa != h.world then .error .world
      else .ok (memKey .hbm pkg pa)
def rowPieces (s : State) (h : CartHead) (pkg stack : Nat) (m : Pages) : List (Nat × Nat) → Except Cause (List (Nat × Nat))
  | [] => .ok []
  | (va, n) :: r =>
    match rowPiece s h pkg stack m va n with
    | .error c => .error c
    | .ok k =>
      match rowPieces s h pkg stack m r with
      | .error c => .error c
      | .ok ks => .ok ((k, n) :: ks)

/-- The code of a cause at a row engine (13 R225). -/
def rowCode (c : Cause) : Nat :=
  match c with
  | .homeStack => 3
  | .poison => 4
  | .world => 5
  | _ => 2

/-- Where a row lies, or why its positions fault. -/
def rowWhere (s : State) (h : CartHead) (pkg stack : Nat) (m : Pages) (row : Nat) : Except Cause (List (Nat × Nat)) :=
  if !serves s pkg stack h.world then .error .world
  else
    match rowPieces s h pkg stack m (rowSpan h row) with
    | .error c => .error c
    | .ok ks => if h.typ ≠ tSca ∧ keysBad s ks then .error .poison else .ok ks

/-- An SCAA row: each aligned element by one read-modify-write; bytes past the last element stay. -/
def addRow (fmt : Nat) (old new : List Byte) : List Byte :=
  let out := bytesOfWords (((wordsOf old).zip (wordsOf new)).map (fun p => addElem fmt p.1 p.2))
  out ++ old.drop out.length

/-- One entry translated and checked at its row engine; a drop is counted. -/
def rowBegin (p : CartPart) (m : Pages) (st : State × List CartEntry) (en : CartEntry) : State × List CartEntry :=
  match rowWhere st.1 p.head p.pkg p.stack m en.row with
  | .error c =>
    (if c = .world then noteMismatchAt st.1 p.pkg (mmRowEngine p.stack) p.head.world p.head.space p.head.reqPkg (BitVec.ofNat 64 en.row)
      else st.1, st.2 ++ [failEntry (rowCode c) c en])
  | .ok ks => (st.1, st.2 ++ [if !en.bad.isEmpty then failEntry 4 .poison en else { en with keys := ks }])
/-- Leaves a row engine of this package used stand in its cache. -/
def notePages (s : State) (p : CartPart) (m : Pages) : State :=
  if p.pkg ≠ Config.ownPackage then s
  else m.foldl (fun s x => match x.2.2 with
    | .ok l => tlbPut s (tlbEntry Config.ownPackage (engRow p.stack) p.head.world p.head.space x.1 (l, x.2.1)) (tlbSize (engRow p.stack))
    | .error _ => s) s
/-- The row engine takes up a part: its pages, its entries in ascending position. -/
def beginPart (s : State) (p : CartPart) : State × CartPart :=
  let es := byPos p.entries
  let m := if serves s p.pkg p.stack p.head.world then partPages s p.head p.pkg p.stack es else []
  let r := es.foldl (rowBegin p m) (notePages s p m, [])
  (r.1, { p with begun := true, entries := r.2 })

/-- The bytes of a row with their keys. -/
def rowCells (en : CartEntry) (bs : List Byte) : List (Nat × Byte) := (en.keys.flatMap (fun k => span k.1 k.2)).zip bs
/-- Units of a row that are written in this turn: 8-byte units of an SCA, elements of an SCAA; all that are left when it
is the last (R222, R227). -/
def writeRow (h : CartHead) (all : Bool) (st : State × List CartEntry) (en : CartEntry) : State × List CartEntry :=
  if en.code ≠ 0 then (st.1, st.2 ++ [en])
  else
    let s := st.1
    let new := if h.typ = tSca then en.data else addRow h.fmt (keyBytes s en.keys) en.data
    let w := if h.typ = tSca then 8 else 4
    let cells := (rowCells en new).filter (fun x => !en.done.contains x.1 && (all || free s (2 ^ 76 + x.1 / w) % 2 == 0))
    let s := (runsOf cells).foldl (fun s r => mwrite s r.1 r.2) s
    (s, st.2 ++ [{ en with done := en.done ++ cells.map (fun x => x.1), data := if all then [] else en.data }])
/-- A row as read since the part arrived, each 8-byte unit old or new (R220, R227). -/
def readRow (s : State) (born : Nat) (en : CartEntry) : CartEntry :=
  if en.code ≠ 0 then en
  else { en with data := unitsSince s (2 ^ 77) born (fun _ => false) en.keys (keyBytes s en.keys) }

/-- The bag partials of a row engine: ascending position, each member by its multiplicity (13 R221). -/
def bagParts (h : CartHead) (es : List CartEntry) : List (Nat × List Word) :=
  let ok := es.filter (fun en => en.code == 0)
  (nubNat (ok.map (fun en => en.bag))).map (fun b =>
    (b, (ok.filter (fun en => en.bag == b)).foldl (fun acc en =>
      let row := poolWords h.fmt en.data
      (span 0 (if h.pool = 2 then 1 else en.mult)).foldl (fun acc _ => poolTwo h.pool acc row)
        (if acc.isEmpty then row.map (fun _ => if h.pool = 2 then 0xFF800000#32 else 0) else acc)) []))

/-- A part of the same type that has begun to write a row meets one of this part: carts reach a row in their order of
arrival (R222). -/
def rowBusy (s : State) (p : CartPart) : Bool :=
  let keys (q : CartPart) : List (Nat × Nat) := (q.entries.filter (fun en => en.code == 0)).flatMap (fun en => en.keys)
  s.parts.any (fun q => q.id != p.id && !q.replied && q.head.typ == p.head.typ && q.entries.any (fun en => !en.done.isEmpty) &&
    rangesMeet (keys q) (keys p))
/-- A turn of a row engine at a part it has begun. -/
def partTurn (s : State) (p : CartPart) : State :=
  if p.head.typ ≤ 2 then
    let es := p.entries.map (readRow s p.born)
    onPart s p.id (fun _ => { p with
      replied := true
      entries := if p.head.typ = tGatp then es.map (fun en => { en with data := [] }) else es
      partials := if p.head.typ = tGatp then bagParts p.head es else [] })
  else if rowBusy s p then onPart s p.id (fun _ => p)
  else
    let all := free s 47 % 2 = 0
    let r := p.entries.foldl (writeRow p.head all) (s, [])
    onPart r.1 p.id (fun _ => { p with replied := all, entries := r.2 })

def execRowEngineCart (part : Nat) (s : State) : Out :=
  .next (match s.parts.find? (fun x => x.id == part) with
    | none => s
    | some p =>
      if p.held || p.replied || !rowReady s p.pkg p.stack then s
      else
        let b := if p.begun then (s, p) else beginPart s p
        partTurn b.1 b.2)

/-! ## Replies (13 R216, R221, R223) -/

/-- The bridge interface of a home die: every row engine that received entries has replied; ascending stack order. -/
def execBridgePoolCombine (sub die : Nat) (s : State) : Out :=
  .next (match s.subs.find? (fun x => x.id == sub) with
    | none => s
    | some x =>
      let mine := s.parts.filter (fun p => p.sub == sub && p.stack / 4 == die)
      if mine.isEmpty || !mine.all (fun p => p.replied) then s
      else
        let ps := sortBy (fun a b => a.stack ≤ b.stack) mine
        let n := newId s
        let s := { n.2 with parts := n.2.parts.filter (fun p => !(p.sub == sub && p.stack / 4 == die)) }
        let rep : CartReply :=
          { id := n.1, op := x.head.op, sub := sub, stage := 0
            entries := ps.flatMap (fun p => p.entries), bags := ps.foldl (fun acc p => poolIn x.head.pool acc p.partials) [] }
        { s with replies := s.replies ++ [rep] })

def onReply (s : State) (id : Nat) (f : CartReply → CartReply) : State :=
  { s with replies := s.replies.map (fun x => if x.id = id then f x else x) }
def dropReply (s : State) (id : Nat) : State := { s with replies := s.replies.filter (fun x => x.id != id) }

/-- A die partial at its home switch, or a reply at the requester's switch: bags combine in the order they arrive. The
reply of a peer's cart leaves the package by its route, and waits while that cannot deliver (22 R425). -/
def execReplySwitchCombine (reply : Nat) (s : State) : Out :=
  .next (match s.replies.find? (fun x => x.id == reply) with
    | none => s
    | some r =>
      if r.stage = 0 then
        match s.subs.find? (fun x => x.id == r.sub) with
        | none => dropReply s reply
        | some x =>
          let got := x.got ++ r.entries
          let bags := poolIn x.head.pool x.bagAcc r.bags
          if x.diesLeft ≤ 1 then
            let done := { s with subs := s.subs.filter (fun y => y.id != x.id) }
            if x.head.op = 0 then
              if (routePort s x.head.reqPkg).isNone then s
              else dropReply { done with akbexOut := replyFlits x.head got bags, akbexBad := [] } reply
            else onReply done reply (fun y => { y with stage := 1, entries := got, bags := bags })
          else dropReply (onSub s x.id (fun y => { y with diesLeft := y.diesLeft - 1, got := got, bagAcc := bags })) reply
      else if r.stage = 1 then
        onReply (onCart s r.op (fun c => { c with bagAcc := poolIn c.head.pool c.bagAcc r.bags })) reply
          (fun y => { y with stage := 2 })
      else s)

/-- The copy engine places the rows of a reply and notes its faults. -/
def execCartReplyPlace (reply : Nat) (s : State) : Out :=
  .next (match s.replies.find? (fun x => x.id == reply) with
    | none => s
    | some r =>
      if r.stage ≠ 2 then s
      else
        let bad := r.entries.filter (fun en => en.code != 0)
        let good := r.entries.filter (fun en => en.code == 0)
        settleCart (onCart (dropReply s reply) r.op (fun c => { c with
          faults := c.faults ++ bad.map (fun en => (en.pos, en.code, en.cause))
          rows := c.rows ++ good.map (fun en => (en.pos, en.data)), await := c.await - 1 })) r.op)

end Sys2Proof.Machine
end

