-- ==== Sys2Proof/Machine/Coll.lean ====
section
/-! DEFINITION. Collectives: the block, the steps of a sequencer, chunks between ranks, combining tables with their
bypass, and the operators (15 R246-R253, 16 R275). -/
namespace Sys2Proof.Machine

/-! ## Operators (15 R251) -/

/-- Bytes of a record of an operator. -/
def recBytes (oper rd : Nat) : Nat :=
  if oper ≤ 4 then 4 else if oper = 5 then 576 else ceilDiv (8 + 4 * rd) 64 * 64

def f32 (w : Word) : FVal := decodeF fmtF32 w.toNat
def f32Mul (x y : Word) : Word := BitVec.ofNat 32 (fMul fmtF32 .rne (f32 x) (f32 y)).1
def f32Madd (x y z : Word) : Word := BitVec.ofNat 32 (fMadd fmtF32 .rne (f32 x) (f32 y) (f32 z)).1
def f32Exp2 (x : Word) : Word := BitVec.ofNat 32 (fExp2 fmtF32 .rne (f32 x)).1

def negInf : Word := 0xFF800000#32
/-- exp(z − m): VFEXP2 of the rounded product with log2 e. -/
def rescaleFactor (z m : Word) : Word := f32Exp2 (f32Mul (addF32 z (m ^^^ 0x80000000#32)) 0x3FB8AA3B#32)
/-- RESCALE of two records (m, s, o[0..]). -/
def rescale (x y : List Word) : List Word :=
  let xm := x.headD 0
  let ym := y.headD 0
  if xm = negInf ∧ ym = negInf then negInf :: (x.drop 1).map (fun _ => 0)
  else
    let m := pmaxF32 xm ym
    let fx := rescaleFactor xm m
    let fy := rescaleFactor ym m
    m :: ((x.drop 1).zip (y.drop 1)).map (fun p => f32Madd p.2 fy (f32Mul p.1 fx))

/-- The entries of a list image (07 R115): L above 64 reads as 64. -/
def imageList (bs : List Byte) : List Entry := entriesOf (bs.drop 8) (leAt bs 0 1 % 128)
/-- A list image of bound K, padded to 576 bytes: with zeros (DESIGN CHOICE, log 130). -/
def listImage (k : Nat) (l : List Entry) : List Byte :=
  let bs := leBytes 8 (l.length + k * 256) ++ l.flatMap (fun e => bitsLe 4 e.1 ++ bitsLe 4 e.2)
  bs ++ zeros (576 - bs.length)
/-- y merged into x by R114 with K = RK, x first offered to an empty list of that bound. -/
def mergeImages (k : Nat) (x y : List Byte) : List Byte :=
  listImage k (mergeInto k (mergeInto k [] (imageList x)) (imageList y))

/-- One record of an operator; bytes past the record's fields stay. -/
def combineRec (oper rk rd : Nat) (x y : List Byte) : List Byte :=
  let a := leBits 32 (x.take 4)
  let b := leBits 32 (y.take 4)
  match oper with
  | 1 => bitsLe 4 (addF32 a b)
  | 2 => bitsLe 4 (pmaxF32 a b)
  | 3 => bitsLe 4 (a + b)
  | 4 => bitsLe 4 (if a.toInt < b.toInt then b else a)
  | 5 => mergeImages rk x y
  | _ =>
    let n := 8 + 4 * rd
    bytesOfWords (rescale (wordsOf (x.take n)) (wordsOf (y.take n))) ++ x.drop n
/-- op(x, y) over the whole records both hold; the rest of x stands. -/
def combineBytes (oper rk rd : Nat) (x y : List Byte) : List Byte :=
  let z := recBytes oper rd
  let n := min x.length y.length / z
  (span 0 n).flatMap (fun i => combineRec oper rk rd ((x.drop (z * i)).take z) ((y.drop (z * i)).take z)) ++ x.drop (z * n)

/-! ## Poison in flits (24 R383) -/

def clean (bs : List Byte) : Payload := { bytes := bs, bad := [] }
/-- The bytes from `a` on, `n` at most; `a` is a multiple of 8. -/
def cutPay (p : Payload) (a n : Nat) : Payload :=
  { bytes := (p.bytes.drop a).take n, bad := (p.bad.filter (fun u => a ≤ 8 * u && 8 * u < a + n)).map (fun u => u - a / 8) }
/-- Units of a result that poison reaches: of a record of one word its own, of a list image or a RESCALE record all
(DESIGN CHOICE, log 137). -/
def combineBad (oper rd : Nat) (x y : Payload) : List Nat :=
  let z := recBytes oper rd
  let n := min x.bytes.length y.bytes.length / z
  let both := nubNat (x.bad ++ y.bad.filter (fun u => 8 * u < z * n))
  if oper ≤ 4 then both
  else nubNat (both.flatMap (fun u => if 8 * u < z * n then span (8 * u / z * (z / 8)) (z / 8) else [u]))
def combinePay (oper rk rd : Nat) (x y : Payload) : Payload :=
  { bytes := combineBytes oper rk rd x.bytes y.bytes, bad := combineBad oper rd x y }
/-- Poison lands with the first `n` bytes of a run. -/
def markRun (s : State) (n : Nat) (bad : List Nat) (key : Nat) : State :=
  markM s ((bad.filter (fun u => 8 * u < n)).flatMap (fun u => unitsTouched (key + 8 * u) (min 8 (n - 8 * u)))) true
/-- Poison lands with the first `n` bytes of pieces. -/
def markPieces (n : Nat) (bad : List Nat) : Nat → List Piece → State → State
  | _, [], s => s
  | off, p :: r, s =>
    let mine := (cutPay { bytes := [], bad := bad } off (min p.bytes.length (n - off))).bad
    markPieces n bad (off + p.bytes.length) r (match p.at' with
      | .ok key => markRun s p.bytes.length mine key
      | .error _ => s)

/-! ## Step words (15 R247, R249) -/

/-- A fault step. Bits of FLAG and AUX to which an OP gives no meaning are reserved. -/
def stepBad (c : Coll) (w : DWord) : Bool :=
  let op := stOp w
  let oper := stOper w
  8 ≤ op || oper == 7 || (oper != 0 && (op == 0 || op == 1 || op == 4 || op == 5 || op == 6)) ||
    op != 0 && (
    (oper == 0 && (op == 3 || op == 7)) ||
    (stLen w == 0 && (op == 1 || op == 2 || op == 3 || op == 4 || op == 7)) ||
    (stAux w != 0 && c.w == 0 && 1 ≤ op && op ≤ 4) ||
    (oper == 5 && stLen w % 9 != 0) || (oper == 6 && stLen w % ceilDiv (8 + 4 * c.rd) 64 != 0) ||
    (op == 4 && field w 45 9 != 0) || (op == 5 && field w 3 9 != 0) || (op == 6 && stAux w != 0) ||
    (stFlag w && (op == 2 || op == 3 || op == 4 || op == 6)))

def setLc (c : Coll) (i v : Nat) : Coll := { c with lcs := ((span 0 4).zip c.lcs).map (fun x => if x.1 = i then v else x.2) }
/-- The rank at a signed distance. -/
def rankAt (c : Coll) (d : Int) : Nat := (((c.rank : Int) + d) % (c.size : Int)).toNat
def pkgOfRank (c : Coll) (r : Nat) : Nat := (c.map[r]?).getD 0
def ownRank (c : Coll) (r : Nat) : Bool := pkgOfRank c r == Config.ownPackage
/-- Offset of the chunk in its buffer, and its length. -/
def chunkOfs (c : Coll) (w : DWord) : Nat := 4096 * stOfs w + if stIdx w then lcOf c (stLc w) * stLen w * 64 else 0
def chunkAt (c : Coll) (w : DWord) : Nat := bufOf c (stBuf w) + chunkOfs c w
def chunkLen (w : DWord) : Nat := 64 * stLen w

/-! ## Starting and ending (15 R246, R253, 16 R275) -/

def onColl (s : State) (id : Nat) (f : Coll → Coll) : State :=
  { s with colls := s.colls.map (fun c => if c.id = id then f c else c) }

def execColl (i : EngI) (s : State) : Out :=
  engOp i [i.h.a] s (fun s =>
    if s.self.spinst ≠ 0 then trapC s .specIllegal
    else issueOp i (.coll (rs s i.h.a).toNat (field i.t.emod 0 4)) [] [] id s)

/-- A block that breaks a limit. -/
def blockBad (bs : List Byte) : Bool :=
  let size := leAt bs 0x0A 2
  let rkrd := leAt bs 0x0E 2
  let w := leAt bs 0x20 4
  leAt bs 0 8 % 8 != 0 || size == 0 || 4096 < size || size ≤ leAt bs 8 2 || rkrd % 128 == 0 || 64 < rkrd % 128 ||
    rkrd / 128 == 0 || (w != 0 && (w < 16 || 2 ^ 20 < w)) || leAt bs 0x24 4 != 0 || leAt bs 0x68 24 != 0 ||
    (span 0 8).any (fun i => leAt bs (0x28 + 8 * i) 8 % 4096 != 0)
/-- Where the rank map of a block lies. -/
def mapRange (bs : List Byte) : Nat × Nat := (leAt bs 0x10 8, 2 * leAt bs 0x0A 2)
def collOf (id port : Nat) (world : Bool) (tick deadline : Nat) (bs mapBytes : List Byte) : Coll :=
  let size := leAt bs 0x0A 2
  let rkrd := leAt bs 0x0E 2
  { id := id, port := port, world := world, prog := leAt bs 0 8, rank := leAt bs 8 2, size := size
    group := leAt bs 0x0C 2, rk := rkrd % 128, rd := rkrd / 128, map := (span 0 size).map (fun i => leAt mapBytes (2 * i) 2)
    t0 := leAt bs 0x18 8, w := leAt bs 0x20 4, bufs := (span 0 8).map (fun i => leAt bs (0x28 + 8 * i) 8), born := tick, since := tick, step := 0
    lcs := [0, 0, 0, 0], run := .fresh, word := 0, deadline := deadline, late := false, skew := false, raw := false, bytes := 0 }

/-- At the grant of a COLL: the sequencer reads the block and the rank map; the start may be held for the port. The
sequencer of a port of the other world takes up no collective (22 R353; the cause WORLD is a DESIGN CHOICE, log 136). -/
def startColl (s : State) (o : EngOp) (blk port : Nat) : State :=
  let e := engOf o
  let fail (c : Cause) (s : State) : State := onOp s o.id (fun o => { failOp o c with stage := .ready })
  if portWorld s port ≠ o.world then fail .world s
  else if blk % 128 ≠ 0 then fail .badstep s
  else
    let g := readGlob s e (piecesOf blk 128)
    match g.fault with
    | some x => fail x.1 (noteOp s e x.1 x.2)
    | none =>
      if blockBad g.bytes then fail .badstep s
      else
        let m := readGlob s e (piecesOf (mapRange g.bytes).1 (mapRange g.bytes).2)
        match m.fault with
        | some x => fail x.1 (noteOp s e x.1 x.2)
        | none =>
          onOp { s with colls := s.colls ++ [collOf o.id port o.world s.tick (holdUntil s) g.bytes m.bytes] } o.id
            (fun o => { o with stage := .issued })

/-- The link a receive of the current step takes from. -/
def recvLink (c : Coll) : CollLink :=
  { world := c.world, group := c.group, dst := c.rank
    src := rankAt c (if stOp c.word = 3 then -(stDist c.word) else stDist c.word) }

def eraseFirst {α : Type} [DecidableEq α] (x : α) : List α → List α
  | [] => []
  | y :: r => if y = x then r else y :: eraseFirst x r

/-- The first chunk that waits for the current receive. -/
def msgFor (s : State) (c : Coll) : Option CollMsg := s.msgs.find? (fun m => m.link == recvLink c)
/-- The current receive is over unanswered: its chunk falls, here or when it comes (R248). -/
def oweMsg (s : State) (c : Coll) : State :=
  match msgFor s c with
  | some m => { s with msgs := eraseFirst m s.msgs }
  | none => { s with owed := s.owed ++ [recvLink c] }

/-- A collective ends: its status, and a receive it leaves unanswered. -/
def endColl (s : State) (id : Nat) (cause : Option Cause) : State :=
  match coll? s id with
  | none => s
  | some c =>
    let s := if c.run = .recv then oweMsg s c else s
    let s := { s with
      colls := s.colls.filter (fun x => x.id != id)
      destAccs := s.destAccs.filter (fun d => !(d.key.world == c.world && d.key.group == c.group && d.rank == c.rank)) }
    onOp s id (fun o =>
      let o := match cause with
        | some x => failOp o x
        | none => o
      { o with
        stage := .ready, hiBits := BitVec.ofNat 5 (b2n c.skew * 16 + b2n c.raw * 8 + b2n c.late * 2)
        midBits := c.step.setWidth 8, lowBits := BitVec.ofNat 40 c.bytes })

def nextStep (s : State) (id : Nat) : State := onColl s id (fun c => { c with step := c.step + 1, since := s.tick, run := .fresh })
def failColl (s : State) (o : EngOp) (c : Cause) (va : Nat) : State := endColl (noteOp s (engOf o) c va) o.id (some c)

/-! ## Memory of a step (15 R248, R249) -/

/-- Bytes of a range as read over a while (15 R257). -/
def overWhile (s : State) (o : EngOp) (since addr : Nat) (bs : List Byte) : List Byte :=
  let e := engOf o
  match engKeys s e.eng e.world e.space .read addr bs.length with
  | .error _ => bs
  | .ok ks => unitsSince s (2 ^ 75) since (fun e => e.op == o.id) ks bs
/-- A local chunk, or the end of the collective. -/
def withChunk (s : State) (o : EngOp) (addr n : Nat) (body : Payload → State) : State :=
  let g := readGlob s (engOf o) (piecesOf addr n)
  let since := match coll? s o.id with
    | some c => c.since
    | none => s.tick
  match g.fault with
  | some x => failColl s o x.1 x.2
  | none => body (clean (overWhile s o since addr g.bytes))

/-- Write device memory; a fault ends the collective. -/
def collWrite (s : State) (o : EngOp) (addr : Nat) (p : Payload) (next : State → State) : State :=
  let ps := chunkPieces s (engOf o) { dest := .glob addr, bytes := p.bytes }
  let land (n : Nat) : State :=
    onColl (markPieces n p.bad 0 ps (ofWrite (landPieces o n ps s) s.past.length o.id false)) o.id (fun x => { x with bytes := x.bytes + n })
  match firstFail 0 ps with
  | some (g, c, va) => failColl (land (free s 7 % (g + 1))) o c va
  | none => next (land p.bytes.length)

/-! ## Chunks between ranks (15 R248) -/

/-- A chunk reaches this package: it waits for its receive, or falls with one that ended without it. -/
def deliverMsg (s : State) (l : CollLink) (data : Payload) : State :=
  if s.owed.contains l then { s with owed := eraseFirst l s.owed } else { s with msgs := s.msgs ++ [{ link := l, data := data, ns := s.ns }] }

/-- Send to ranks: each is awaited. -/
def startSend (s : State) (c : Coll) (ranks : List Nat) (data : Payload) (excess : Bool) : State :=
  onColl s c.id (fun x => { x with run := .send ranks data excess, deadline := holdUntil s })
/-- One more peer takes the chunk when its route delivers and it accepts, within the limit of R249; when none is left the
step is done. -/
def goSend (s : State) (c : Coll) (left : List Nat) (data : Payload) (excess : Bool) : State :=
  match left with
  | [] => if excess then endColl s c.id (some .length) else nextStep s c.id
  | r :: rest =>
    let up := ownRank c r || (routePort s (pkgOfRank c r)).isSome
    if !up || c.deadline < s.ns || free s 11 % 2 == 0 then s
    else
      let s := if ownRank c r then deliverMsg s { world := c.world, group := c.group, src := c.rank, dst := r } data else s
      onColl s c.id (fun x => { x with run := .send rest data excess })

/-- A receive with its chunk: RECV writes, RRS forwards. -/
def takeMsg (s : State) (o : EngOp) (c : Coll) (m : CollMsg) : State :=
  let n := chunkLen c.word
  let addr := chunkAt c c.word
  let oper := stOper c.word
  let inc := cutPay m.data 0 n
  let excess := n < m.data.bytes.length
  let done (s : State) : State := if excess then endColl s c.id (some .length) else nextStep s c.id
  -- the chunk has arrived: the receive no longer waits for it
  let s := onColl { s with msgs := eraseFirst m s.msgs } c.id (fun x => { x with run := .body })
  if oper = 0 then collWrite s o addr inc done
  else
    withChunk s o addr n (fun x =>
      let r := combinePay oper c.rk c.rd (cutPay x 0 inc.bytes.length) inc
      if stOp c.word = 3 then startSend s c [rankAt c (stDist c.word)] { r with bytes := r.bytes ++ x.bytes.drop inc.bytes.length } excess
      else collWrite s o addr r done)
/-- The chunk came within the limit of R249. -/
def inTime (c : Coll) (m : CollMsg) : Bool := m.ns ≤ c.deadline
def goRecv (s : State) (o : EngOp) (c : Coll) : State :=
  match msgFor s c with
  | none => s
  | some m => if inTime c m then takeMsg s o c m else s

/-! ## Contributions (15 R250) -/

/-- Bytes of a unit: one list image (07 R116), or the whole records that fit 4 KiB. -/
def unitBytes (oper rd : Nat) : Nat := if oper = 5 then 576 else 4096 / recBytes oper rd * recBytes oper rd
def combKeyOf (c : Coll) (unit : Nat) : CombKey :=
  { world := c.world, group := c.group, step := c.step, lcs := c.lcs, unit := unit }
def combForm (c : Coll) (w : DWord) : CombForm :=
  { expect := stAux w + 1, oper := stOper w, rk := c.rk, rd := c.rd
    dest := if stFlag w then some (rankAt c (stDist w)) else none }

/-- The contributions of a CMB leave; with FLAG 1 only the peer awaits results. -/
def startCmb (s : State) (o : EngOp) (c : Coll) (w : DWord) : State :=
  withChunk s o (chunkAt c w) (chunkLen w) (fun bs =>
    let z := unitBytes (stOper w) c.rd
    let units := span 0 (ceilDiv bs.bytes.length z)
    let peer := rankAt c (stDist w)
    let s := if ownRank c peer then
        units.foldl (fun s u =>
          let n := newId s
          { n.2 with combMsgs := n.2.combMsgs ++ [{ id := n.1, key := combKeyOf c u, form := combForm c w, coll := c.id
                                                    src := c.rank, count := 1, data := cutPay bs (z * u) z, toRank := none }] }) s
      else s
    onColl s c.id (fun x => { x with
      word := w, deadline := holdUntil s
      run := .cmb units (if stFlag w && peer != c.rank then [] else units) }))

/-- A complete result whose last part came within the limit of R249: it came 1 ms before its deadline. -/
def doneIn (c : Coll) (d : DestAcc) : Bool := d.expect ≤ d.count && d.deadline ≤ c.deadline + 1000000
/-- A collective here awaits this result, complete in time. -/
def heldAcc (s : State) (d : DestAcc) : Bool :=
  s.colls.any (fun c => c.rank == d.rank && doneIn c d && match c.run with
    | .cmb _ units => units.any (fun u => combKeyOf c u == d.key)
    | _ => false)
/-- What a rank has combined goes stale 1 ms after its last part, unless it is complete and awaited. -/
def freshAcc (s : State) (d : DestAcc) : Bool := s.ns ≤ d.deadline || heldAcc s d
/-- What a rank has combined of a key, unless it has gone stale. -/
def destAcc? (s : State) (k : CombKey) (rank : Nat) : Option DestAcc :=
  s.destAccs.find? (fun d => d.key == k && d.rank == rank && freshAcc s d)
def dropAcc (s : State) (k : CombKey) (rank : Nat) : State :=
  { s with destAccs := s.destAccs.filter (fun d => !(d.key == k && d.rank == rank)) }

/-- The result of a unit is there, complete and in time. -/
def resultIn (s : State) (c : Coll) (u : Nat) : Option DestAcc :=
  (destAcc? s (combKeyOf c u) c.rank).filter (doneIn c)

/-- The next of a CMB under way: a contribution to a peer's table leaves, or a complete result is written. -/
def goCmb (s : State) (o : EngOp) (c : Coll) (left units : List Nat) : State :=
  let peer := rankAt c (stDist c.word)
  let z := unitBytes (stOper c.word) c.rd
  match units.findSome? (fun u => (resultIn s c u).map (fun d => (u, d.data))) with
  | some (u, data) =>
    collWrite (dropAcc s (combKeyOf c u) c.rank) o (chunkAt c c.word + z * u) (cutPay data 0 (min z (chunkLen c.word - z * u)))
      (fun s => onColl s c.id (fun x => { x with run := .cmb left (units.filter (fun v => v != u)) }))
  | none =>
    if left.isEmpty && units.isEmpty then nextStep s c.id
    else if ownRank c peer || left.isEmpty || (routePort s (pkgOfRank c peer)).isNone || c.deadline < s.ns || free s 11 % 2 == 0 then s
    else
      -- whether it bypassed there comes back with its acceptance
      onColl s c.id (fun x => { x with run := .cmb (left.drop 1) units, raw := x.raw || free s 12 % 2 == 1 })

/-! ## The sequencer's turn (15 R247, R252) -/

def slotAt (c : Coll) (w : DWord) (k : Nat) : Nat := c.t0 + (stAux w + k) * c.w
/-- Ranks of other packages a slotted step exchanges with. -/
def stepPeers (c : Coll) (w : DWord) : List Nat :=
  (match stOp w with
    | 1 => if stFlag w then span 0 c.size else [rankAt c (stDist w)]
    | 2 => [rankAt c (stDist w)]
    | 3 => [rankAt c (stDist w), rankAt c (-(stDist w))]
    | _ => []).filter (fun r => !ownRank c r)

/-- The step starts: SEND, RECV, RRS or COPY. -/
def stepBody (s : State) (o : EngOp) (c : Coll) (w : DWord) : State :=
  let skew := stAux w != 0 && (stepPeers c w).any (fun r => c.w < Config.timeSkew s.tick (pkgOfRank c r))
  let c := { c with word := w, skew := c.skew || skew, deadline := holdUntil s }
  let s := onColl s c.id (fun _ => { c with run := .body })
  match stOp w with
  | 1 =>
    withChunk s o (chunkAt c w) (chunkLen w) (fun bs =>
      startSend s c (if stFlag w then (span 0 c.size).filter (fun r => r != c.rank) else [rankAt c (stDist w)]) bs false)
  | 4 =>
    withChunk s o (chunkAt c w) (chunkLen w) (fun bs =>
      collWrite s o (bufOf c (field w 42 3) + chunkOfs c w) bs (fun s => nextStep s c.id))
  | _ => onColl s c.id (fun x => { x with run := .recv })

/-- A step word is taken. -/
def beginStep (s : State) (o : EngOp) (c : Coll) (w : DWord) : State :=
  match stOp w with
  | 0 => endColl s c.id none
  | 5 =>
    if stFlag w && (rctr s o.coach (stAux w % 8)).toNat < field w 13 26 then s else nextStep s c.id
  | 6 =>
    let n := lcOf c (stLc w) + 1
    if n < stLen w then
      onColl s c.id (fun x => { setLc x (stLc w) n with step := x.step + BitVec.ofInt 64 (stDist w), since := s.tick, run := .fresh })
    else nextStep (onColl s c.id (fun x => setLc x (stLc w) 0)) c.id
  | 7 => startCmb s o c w
  | _ =>
    if stAux w = 0 then stepBody s o c w
    else
      let late := c.late || slotAt c w 1 < s.ns
      if s.ns < slotAt c w 0 then onColl s c.id (fun x => { x with run := .slot, word := w })
      else stepBody s o { c with late := late } w

/-- The address of the current step's word. -/
def stepAt (c : Coll) : Nat := (c.prog + 8 * c.step.toNat) % 2 ^ 64
/-- The word of the current step, whole: as it stands or as it stood since the collective began (15 R257). -/
def stepWord (s : State) (o : EngOp) (c : Coll) : Except (Cause × Nat) DWord :=
  let e := engOf o
  let g := readGlob s e (piecesOf (stepAt c) 8)
  match g.fault, engKeys s e.eng e.world e.space .read (stepAt c) 8 with
  | some x, _ => .error x
  | none, .ok ks => .ok (leBits 64 (if (pastOf s c.born ks).isEmpty then g.bytes else wholeSince s c.born ks))
  | none, .error _ => .ok (leBits 64 g.bytes)
/-- What a step reads and writes of memory is reached (22 R425). -/
def stepUp (s : State) (o : EngOp) (c : Coll) (w : DWord) : Bool :=
  !(stOp w != 0 && stOp w != 5 && stOp w != 6) ||
    globUp s (engOf o) ((chunkAt c w, chunkLen w) :: if stOp w = 4 then [(bufOf c (field w 42 3) + chunkOfs c w, chunkLen w)] else [])

/-- Its port is ready, and was so within the hold of its start (16 R275). -/
def portInTime (s : State) (c : Coll) : Bool := ready s (146 + c.port) && s.ns ≤ c.deadline
/-- The sequencer moves at a step whose OP is `want`. An unreadable word and a fault step end it whatever is wanted. -/
def collTurn (want id : Nat) (s : State) : State :=
  match op? s id, coll? s id with
  | some o, some c =>
    match c.run with
    | .fresh =>
      if (!o.started && !(portInTime s c && releaseReady s o && !readsBehind s o && !writesBehind s o)) || !globUp s (engOf o) [(stepAt c, 8)] then s
      else
        match stepWord s o c with
        | .error x => failColl s o x.1 x.2
        | .ok w =>
          if stepBad c w then endColl s id (some .badstep)
          else if stOp w ≠ want || !stepUp s o c w then s
          else beginStep (onOp s id (fun o => { o with started := true })) o c w
    | .slot => s
    | .body => if stOp c.word = want && stepUp s o c c.word then stepBody s o c c.word else s
    | .recv => if stOp c.word = want && stepUp s o c c.word then goRecv s o c else s
    | .send left data excess => if stOp c.word = want then goSend s c left data excess else s
    | .cmb left units => if want = 7 && stepUp s o c c.word then goCmb s o c left units else s
  | _, _ => s

def execCollEnd (coll : Nat) (s : State) : Out := .next (collTurn 0 coll s)
def execCollSend (coll : Nat) (s : State) : Out := .next (collTurn 1 coll s)
def execCollRecv (coll : Nat) (s : State) : Out := .next (collTurn 2 coll s)
def execCollRrs (coll : Nat) (s : State) : Out := .next (collTurn 3 coll s)
def execCollCopy (coll : Nat) (s : State) : Out := .next (collTurn 4 coll s)
def execCollWait (coll : Nat) (s : State) : Out := .next (collTurn 5 coll s)
def execCollLoop (coll : Nat) (s : State) : Out := .next (collTurn 6 coll s)
def execCollCmb (coll : Nat) (s : State) : Out := .next (collTurn 7 coll s)

/-- The slot of a step begins. -/
def execCollSlotStart (coll : Nat) (s : State) : Out :=
  .next (match coll? s coll with
    | some c => if c.run = .slot ∧ slotAt c c.word 0 ≤ s.ns then onColl s coll (fun x => { x with run := .body }) else s
    | none => s)

/-- A step still waits for another party: for its chunk, for its acceptance, for a contribution or a result. -/
def stepWaits (s : State) (c : Coll) : Bool :=
  match c.run with
  | .recv => !(msgFor s c).any (inTime c)
  | .send left _ _ => !left.isEmpty
  | .cmb left units => !left.isEmpty || units.any (fun u => (resultIn s c u).isNone)
  | _ => false
def execCollStepTimeout (coll : Nat) (s : State) : Out :=
  .next (match coll? s coll with
    | some c => if stepWaits s c && c.deadline ≤ s.ns then endColl s coll (some .notready) else s
    | none => s)
/-- The start was held for its port. -/
def execCollStartTimeout (op : Nat) (s : State) : Out :=
  .next (match op? s op, coll? s op with
    | some o, some c => if !o.started && !portInTime s c && c.deadline ≤ s.ns then endColl s op (some .notready) else s
    | _, _ => s)

/-! ## The table (15 R250, 22 R353) -/

/-- Entries of a world. -/
def combCap (s : State) (world : Bool) : Nat :=
  let cts := 256 * field (rsys s 0 5 0x018) 0 4
  if world then cts else 4096 - cts
def combUsed (s : State) (world : Bool) : Nat := (s.combs.filter (fun e => e.key.world == world)).length
/-- The hold on new entries ends once every entry has retired and the bypass record is empty; what bypassed beside the
record is forgotten. -/
def settleBypass (s : State) : State :=
  if s.combs.isEmpty && s.bypass.all (fun b => !b.recorded) then { s with bypassHold := false, bypass := [] } else s

/-- Something on its way to a rank of this package. -/
def toRank (s : State) (key : CombKey) (form : CombForm) (src count rank : Nat) (data : Payload) : State :=
  let n := newId s
  { n.2 with combMsgs := n.2.combMsgs ++ [{ id := n.1, key := key, form := form, coll := 0, src := src, count := count
                                            data := data, toRank := some rank }] }
/-- The contribution of a collective here is accepted, or has left flagged RAW; in time for its collective or not. -/
def acceptComb (s : State) (m : CombMsg) (raw : Bool) : State :=
  onColl s m.coll (fun c => match c.run with
    | .cmb left units =>
      { c with run := .cmb (if s.ns ≤ c.deadline then left.filter (fun u => u != m.key.unit) else left) units, raw := c.raw || raw }
    | _ => c)

/-- The result leaves for its destinations of this package. -/
def retireComb (s : State) (e : CombEntry) : State :=
  let here : List Nat := (e.srcs.filter (fun x => x.2)).map (fun x => x.1)
  let dests := match e.form.dest with
    | some r => [r]
    | none => here
  settleBypass (dests.foldl (fun s r => toRank s e.key e.form r e.srcs.length r e.data)
    { s with combs := s.combs.filter (fun x => x.id != e.id) })

/-- A contribution joins its entry. -/
def joinEntry (s : State) (m : CombMsg) (e : CombEntry) : State :=
  let e := { e with
    srcs := e.srcs ++ [(m.src, m.coll != 0)], deadline := holdUntil s
    data := combinePay e.form.oper e.form.rk e.form.rd e.data m.data }
  let s := { s with combs := s.combs.map (fun x => if x.id = e.id then e else x) }
  if e.form.expect ≤ e.srcs.length then retireComb s e else s

/-- A contribution bypasses: it leaves for every destination, and the earlier ones for its own contributor. -/
def bypassComb (s : State) (m : CombMsg) : State :=
  let s := { s with overflow := if s.overflow = 0xFFFFFFFF#32 then s.overflow else s.overflow + 1 }
  let n := newId s
  let b := (s.bypass.find? (fun b => b.key == m.key)).getD
    { id := n.1, key := m.key, form := m.form, recorded := (s.bypass.filter (fun b => b.recorded)).length < 4096, got := []
      deadline := 0 }
  let s := n.2
  let own := m.coll != 0
  let send (s : State) (r src : Nat) (data : Payload) : State := toRank s m.key m.form src 1 r data
  let s := match m.form.dest with
    | some r => send s r m.src m.data
    | none =>
      let s := b.got.foldl (fun s g =>
        let s := if g.2.1 then send s g.1 m.src m.data else s
        if own then send s m.src g.1 g.2.2 else s) s
      if own then send s m.src m.src m.data else s
  let b := { b with got := b.got ++ [(m.src, own, m.data)], deadline := holdUntil s }
  let others := s.bypass.filter (fun x => x.key != m.key)
  settleBypass { s with
    bypass := if b.form.expect ≤ b.got.length then others else others ++ [b]
    bypassHold := s.bypassHold || !b.recorded }

/-- A free place of the tables among those of a world: entries 0 to CTS − 1 are S (22 R353). -/
def combPlace (s : State) (world : Bool) : Nat :=
  let cts := combCap s true
  let ps := (if world then span 0 cts else span cts (combCap s false)).filter (fun i => !s.combs.any (fun e => e.place == i))
  (ps[free s 41 % max 1 ps.length]?).getD 0

/-- Collectives that await a key's result end with NOTREADY: those whose own contribution the key has, and destinations. -/
def starve (s : State) (k : CombKey) : State :=
  (s.colls.filter (fun c => match c.run with
    | .cmb left units => units.any (fun u => combKeyOf c u == k && !left.contains u)
    | _ => false)).foldl (fun s c => endColl s c.id (some .notready)) s
/-- An entry, or a bypass record, is freed without a result. -/
def freeEntry (s : State) (e : CombEntry) : State :=
  settleBypass (starve { s with combs := s.combs.filter (fun x => x.id != e.id) } e.key)
def freeBypass (s : State) (b : Bypass) : State :=
  settleBypass (starve { s with bypass := s.bypass.filter (fun x => x.id != b.id) } b.key)
/-- A key whose last contribution is 1 ms old is freed: what comes now is of a new key. -/
def freeLate (s : State) (k : CombKey) : State :=
  let s := (s.combs.filter (fun e => e.key == k && e.deadline ≤ s.ns)).foldl freeEntry s
  (s.bypass.filter (fun b => b.key == k && b.deadline ≤ s.ns)).foldl freeBypass s

/-- A contribution joins its key's entry, bypasses, or takes an entry. -/
def contribute (s : State) (m : CombMsg) : State :=
  match s.combs.find? (fun e => e.key == m.key) with
  | some e => joinEntry (acceptComb s m false) m e
  | none =>
    if s.bypassHold || s.bypass.any (fun b => b.key == m.key) || combCap s m.key.world ≤ combUsed s m.key.world then
      bypassComb (acceptComb s m true) m
    else
      let n := newId (acceptComb s m false)
      let e : CombEntry := { id := n.1, place := combPlace s m.key.world, key := m.key, form := m.form, srcs := [(m.src, m.coll != 0)], data := m.data
                             deadline := holdUntil s }
      let s := { n.2 with combs := n.2.combs ++ [e] }
      if m.form.expect ≤ 1 then retireComb s e else s
def execCombineContribution (msg : Nat) (s : State) : Out :=
  .next (match s.combMsgs.find? (fun m => m.id == msg) with
    | none => s
    | some m =>
      if m.toRank.isSome || !ready s 158 then s
      else contribute (freeLate { s with combMsgs := s.combMsgs.filter (fun x => x.id != msg) } m.key) m)

/-- A destination combines what arrives: the first as it stands. -/
def execRawContributionArrival (msg : Nat) (s : State) : Out :=
  .next (match s.combMsgs.find? (fun m => m.id == msg) with
    | none => s
    | some m =>
      match m.toRank with
      | none => s
      | some r =>
        let s := { s with combMsgs := s.combMsgs.filter (fun x => x.id != msg) }
        let d : DestAcc := match destAcc? s m.key r with
          | some d => { d with count := d.count + m.count, data := combinePay m.form.oper m.form.rk m.form.rd d.data m.data }
          | none => { key := m.key, rank := r, count := m.count, expect := m.form.expect, data := m.data, deadline := 0 }
        let s := dropAcc s m.key r
        { s with destAccs := s.destAccs.filter (freshAcc s) ++ [{ d with deadline := holdUntil s }] })

def execCombineEntryTimeout (entry : Nat) (s : State) : Out :=
  .next (match s.combs.find? (fun e => e.id == entry) with
    | some e => if e.deadline ≤ s.ns then freeEntry s e else s
    | none => s)
def execBypassRecordTimeout (rec' : Nat) (s : State) : Out :=
  .next (match s.bypass.find? (fun b => b.id == rec') with
    | some b => if b.deadline ≤ s.ns then freeBypass s b else s
    | none => s)

end Sys2Proof.Machine
end

