-- ==== Sys2Proof/Machine/Route.lean ====
section
/-! DEFINITION. ROUTE and the routing engine: descriptor, claims, lists, outputs (07 R120-R126, 16 R278). -/
namespace Sys2Proof.Machine

/-! ## The descriptor (07 R120) -/

def routeOf (bs : List Byte) : RouteDesc :=
  let w (o : Nat) : DWord := leBits 64 ((bs.drop o).take 8)
  { score := w 0, t := leAt bs 8 4, e := leAt bs 0x0C 2, expert := bitN (leAt bs 0x0E 2) 0, norm := bitN (leAt bs 0x0E 2) 1
    tstride := w 0x10, estride := w 0x18, k := leAt bs 0x20 2, cap := leAt bs 0x24 4, ctrs := w 0x28, idxOut := w 0x30
    wgtOut := w 0x38, hist := w 0x40, resid := w 0x48, first := leAt bs 0x50 4, lists := w 0x58 }

/-- The list area of EXPERT mode. -/
def listArea (d : RouteDesc) : Range := (2, d.lists.toNat, if d.expert then 8 * d.k * d.e else 0)
/-- The die whose scratchpad the capacity counters lie in. -/
def counterDie (d : RouteDesc) : Nat := if Config.counterDie d.ctrs then 1 else 0
/-- Every field in its range: the capacity counters of TOKEN mode in the issuer's part of a die scratchpad, reserved bytes 0, and the list area where it must be. -/
def routeDescOk (s : State) (e : EngAt) (bs : List Byte) : Bool :=
  let d := routeOf bs
  1 ≤ d.t && d.t ≤ 1048576 && 1 ≤ d.e && d.e ≤ 4096 && leAt bs 0x0E 2 < 4 && leAt bs 0x22 2 == 0 && leAt bs 0x54 4 == 0 &&
    leAt bs 0x60 32 == 0 && 1 ≤ d.k &&
    (if d.expert then d.k ≤ 4096 && d.cap == 0 && d.lists != 0 && d.lists.toNat % 64 == 0 && rangeIn s e (listArea d)
     else d.k ≤ 64 && d.lists == 0 && scrRangeOk s e.world (counterDie d) d.ctrs.toNat (4 * d.e))

/-- It owns the lines of its list area; those of its capacity counters, which ROUTEs of both dies claim, it does not
(DESIGN CHOICE, log 127). -/
def execRoute (i : EngI) (s : State) : Out :=
  engOp i [i.h.a] s (fun s =>
    let e := { engSelf s with eng := engRoute (dieOf s.self.core), blk := mmRoute (dieOf s.self.core) }
    let a := (rs s i.h.a).toNat
    if a % 128 ≠ 0 then issueFail i .baddesc id s
    else if !globUp s e [(a, 128)] then s
    else match engRead s e.eng e.world e.space a 128 with
      | .error x => issueFail i x.1 id (noteOp s e x.1 x.2)
      | .ok (bs, bad) =>
        if bad then issueFail i .poison id s
        else if !routeDescOk s e bs then issueFail i .baddesc id s
        else issueOp i (.route (routeOf bs) none) [] (rangeLines e [listArea (routeOf bs)]) id s)

/-! ## Scores as of issue -/

/-- A token's global index, in 32 bits: it wraps, and claims and lists order by what it wraps to (DESIGN CHOICE, log 127). -/
def globalTok (d : RouteDesc) (t : Nat) : Word := BitVec.ofNat 32 (d.first + t)
/-- The scores of the tokens, or the first fault. -/
def readScores (s : State) (e : EngAt) (d : RouteDesc) : Except (Cause × Nat) (List (List Word)) :=
  let g := readGlob s e ((routeReads d).flatMap (fun r => piecesOf r.1 r.2))
  match g.fault with
  | some x => .error x
  | none => .ok (chunksN d.e d.t (wordsOf g.bytes))

/-- The bytes of the list area after completion are undefined (R123). -/
def areaBytes (s : State) (o : EngOp) (d : RouteDesc) : List Chunk :=
  let area := listArea d
  if d.expert then
    [{ dest := .loc (rangeKey (engOf o) area), bytes := (span area.2.1 area.2.2).map (fun a => Config.freeByte s.tick (2 ^ 102 + a)) }]
  else []
/-- Outputs that were not written are undefined (16 R278). -/
def unwritten (s : State) (d : RouteDesc) : List Chunk :=
  (routeWrites d).map (fun r =>
    { dest := .glob r.1, bytes := (span r.1 r.2).map (fun a => Config.freeByte s.tick (2 ^ 101 + a)) })
def readRoute (s : State) (o : EngOp) (d : RouteDesc) : EngOp × State :=
  let e := engOf o
  let o := { o with deadline := holdUntil s }
  match readScores s e d with
  | .error x => ({ failOp o x.1 with kind := .route d (some ⟨[], false, [], []⟩), out := unwritten s d ++ areaBytes s o d }, noteOp s e x.1 x.2)
  | .ok sc => ({ o with kind := .route d (some ⟨sc, false, [], []⟩) }, s)

/-! ## Outputs (07 R124, R125) -/

def expNorm (s smax : Word) : Word :=
  let d := (addV .rne (decodeF fmtF32 s.toNat) (decodeF fmtF32 smax.toNat).negate).1
  let x := roundNe fmtF32 (mulV d (decodeF fmtF32 0x3FB8AA3B)).1
  BitVec.ofNat 32 (fExp2 fmtF32 .rne (decodeF fmtF32 x)).1
def divF32 (x y : Word) : Word := BitVec.ofNat 32 (fDiv fmtF32 .rne (decodeF fmtF32 x.toNat) (decodeF fmtF32 y.toNat)).1
/-- The weights of a row whose filled places hold these scores, the largest first. -/
def rowWeights (norm : Bool) (ss : List Word) : List Word :=
  if norm then
    let es := ss.map (fun s => expNorm s (ss.headD 0))
    let sum := es.foldl addF32 0
    es.map (fun e => divF32 e sum)
  else ss
/-- n places of a row: index bytes and weight bytes. -/
def rowIdx (n : Nat) (row : List (Word × Word)) : List Byte :=
  row.flatMap (fun e => bitsLe 4 e.2) ++ (span 0 (n - row.length)).flatMap (fun _ => leBytes 4 0xFFFFFFFF)
def rowWgt (n : Nat) (norm : Bool) (row : List (Word × Word)) : List Byte :=
  (rowWeights norm (row.map (fun e => e.1))).flatMap (bitsLe 4) ++ zeros (4 * (n - row.length))

/-- The routing is complete: rows, how many each expert has, and the tokens left over. -/
def routeDone (s : State) (o : EngOp) (d : RouteDesc) (r : RouteRun) (rows : List (List (Word × Word)))
    (hist : List Nat) (left : List Word) : State :=
  let resid := sortBy (fun a b => a ≤ b) (left.map BitVec.toNat)
  let nan := sumNat (r.scores.map (fun row => (row.filter isNanW).length))
  let glob (a : DWord) (bs : List Byte) : Chunk := { dest := .glob a.toNat, bytes := bs }
  onOp s o.id (fun x => { x with
    stage := .ready, midBits := BitVec.ofNat 8 (min nan 255), lowBits := BitVec.ofNat 40 resid.length
    out := [glob d.idxOut (rows.flatMap (rowIdx d.k)), glob d.wgtOut (rows.flatMap (rowWgt d.k d.norm)),
        glob d.hist (hist.flatMap (leBytes 4)), glob d.resid (leBytes 4 resid.length ++ resid.flatMap (leBytes 4))] ++
      areaBytes s o d })

/-! ## EXPERT mode (07 R123): one list per expert -/

def expertRows (d : RouteDesc) (sc : List (List Word)) : List (List Entry) :=
  (span 0 d.e).map (fun e =>
    mergeInto d.k [] (((span 0 sc.length).zip sc).map (fun p => ((p.2[e]?).getD 0, globalTok d p.1))))
def expertRun (s : State) (o : EngOp) (d : RouteDesc) (r : RouteRun) : State :=
  let rows := expertRows d r.scores
  let taken := rows.flatMap (fun row => row.map (fun e => e.2))
  routeDone s o d r rows (rows.map List.length) (((span 0 d.t).map (globalTok d)).filter (fun t => !taken.contains t))

/-! ## TOKEN mode (07 R121, R122) -/

/-- Each token ranks every expert. -/
def startToks (d : RouteDesc) (sc : List (List Word)) : List RouteTok :=
  ((span 0 sc.length).zip sc).map (fun p =>
    { tok := (globalTok d p.1).toNat, got := []
      rest := mergeInto d.e [] (((span 0 p.2.length).zip p.2).map (fun x => (x.2, BitVec.ofNat 32 x.1))) })
/-- The claims of the next round in their order: score, token, expert. -/
def nextRound (d : RouteDesc) (ts : List RouteTok) : List (Word × Word × Word) :=
  sortBy (fun a b => !rankLess (a.1, a.2.1) (b.1, b.2.1))
    (ts.filterMap (fun t => if t.got.length < d.k then
      (t.rest.head?).map (fun x => (x.1, BitVec.ofNat 32 t.tok, x.2)) else none))

/-- The counter of an expert (07 R120, R122): every counter of a well-formed descriptor lies in its die's scratchpad. -/
def counterKey (d : RouteDesc) (e : Nat) : Nat := memKey .scr (counterDie d) (d.ctrs.toNat + 4 * e)
/-- One claim at its counter. -/
def oneClaim (d : RouteDesc) (st : State × List RouteTok) (c : Word × Word × Word) : State × List RouteTok :=
  let key := counterKey d c.2.2.toNat
  let n := mnum st.1 key 4
  let ok := d.cap == 0 || n < d.cap
  (if ok then mwrite st.1 key (leBytes 4 (n + 1)) else st.1,
    st.2.map (fun t => if t.tok = c.2.1.toNat then
      { t with rest := t.rest.drop 1, got := if ok then t.got ++ [(c.1, c.2.2)] else t.got } else t))

/-- A run in TOKEN mode with its tokens ranked and the claims of a round. -/
def withClaims (d : RouteDesc) (r : RouteRun) : RouteRun :=
  let r := if r.begun then r else { r with begun := true, toks := startToks d r.scores }
  { r with queue := if r.queue.isEmpty then nextRound d r.toks else r.queue }
/-- A claim with its operation and descriptor. -/
abbrev Claim := Nat × RouteDesc × (Word × Word × Word)
/-- A claim of an operation, among the tokens of each. -/
def claimOf (st : State × List (Nat × List RouteTok)) (c : Claim) : State × List (Nat × List RouteTok) :=
  let r := oneClaim c.2.1 (st.1, ((st.2.find? (fun x => x.1 == c.1)).map (fun x => x.2)).getD []) c.2.2
  (wroteBy ((op? st.1 c.1).elim 0 (fun o => o.cid)) st.1 r.1, st.2.map (fun x => if x.1 = c.1 then (x.1, r.2) else x))
/-- A ROUTE that is held: its routing engine has not been ready in time yet. -/
def routeHeld (o : EngOp) : Bool :=
  match o.kind with
  | .route _ (some r) => !r.begun
  | _ => false
/-- The routing engine is ready, and was so within the hold (24 R386). -/
def routeReady (s : State) (o : EngOp) : Bool := ready s (144 + dieOf o.core) && s.ns ≤ o.deadline
/-- A claim writes memory: what the model puts before the operation's writes has happened (12 R204, R208). -/
def mayClaim (s : State) (o : EngOp) : Bool := releaseReady s o && !writesBehind s o
/-- A routing engine that is ready runs the operation in TOKEN mode: its descriptor and its run with claims to present. -/
def claiming (s : State) (o : EngOp) : Option (RouteDesc × RouteRun) :=
  match o.kind with
  | .route d (some r) =>
    let r' := withClaims d r
    if o.stage != .issued || o.faultBit || d.expert || r'.queue.isEmpty || (!r.begun && !routeReady s o) || !mayClaim s o then none
    else some (d, r')
  | _ => none
/-- Claims of one cycle: some of this ROUTE's, and perhaps some of one on the other die. Those that meet at a counter are
taken by score and token (R122). -/
def tokenTurn (s : State) (o : EngOp) (d : RouteDesc) (r : RouteRun) : State :=
  let r := withClaims d r
  if r.queue.isEmpty then
    routeDone s o d r (r.toks.map (fun t => t.got))
      ((span 0 d.e).map (fun e => (r.toks.filter (fun t => t.got.any (fun g => g.2.toNat == e))).length))
      ((r.toks.filter (fun t => t.got.isEmpty)).map (fun t => BitVec.ofNat 32 t.tok))
  else
    let far := s.ops.filter (fun x => x.id != o.id && dieOf x.core != dieOf o.core && (claiming s x).isSome)
    let both := (o, d, r) :: ((far[free s 46 % (far.length + 1)]?).toList.flatMap (fun x =>
      ((claiming s x).map (fun y => (x, y.1, y.2))).toList))
    let taken (x : EngOp × RouteDesc × RouteRun) : Nat := free s (15 + 2 ^ 20 * x.1.id) % x.2.2.queue.length + 1
    let claims : List Claim := sortBy (fun a b => !rankLess (a.2.2.1, a.2.2.2.1) (b.2.2.1, b.2.2.2.1))
      (both.flatMap (fun x => (x.2.2.queue.take (taken x)).map (fun c => (x.1.id, x.2.1, c))))
    let st := claims.foldl claimOf (s, both.map (fun x => (x.1.id, x.2.2.toks)))
    both.foldl (fun s x => onOp s x.1.id (fun y => { y with started := true, kind := .route x.2.1 (some { x.2.2 with
      toks := ((st.2.find? (fun z => z.1 == x.1.id)).map (fun z => z.2)).getD [], queue := x.2.2.queue.drop (taken x) }) })) st.1

def execRouteRun (op : Nat) (s : State) : Out :=
  .next (match op? s op with
    | none => s
    | some o =>
      match o.kind with
      | .route d (some r) =>
        if o.stage ≠ .issued || (!r.begun && !routeReady s o) then s
        else if o.faultBit then onOp s op (fun x => { x with stage := .ready })
        else if d.expert then expertRun s o d r
        else if mayClaim s o then tokenTurn s o d r else s
      | _ => s)

def execRouteNotreadyTimeout (op : Nat) (s : State) : Out :=
  .next (match op? s op with
    | none => s
    | some o =>
      match o.kind with
      | .route d (some r) =>
        if o.stage = .issued && !r.begun && !routeReady s o && o.deadline ≤ s.ns then
          onOp s op (fun x => { failOp x .notready with stage := .ready, out := areaBytes s o d })
        else s
      | _ => s)

end Sys2Proof.Machine
end

