-- ==== Sys2Proof/Machine/Spawn.lean ====
section
/-! DEFINITION. Creating work and ending it: LAUNCH, SPAWN and its bins, spawned carriages and spawn coaches, EXIT and
successors (18 R301-R304, 21 R337, R343, R344, 17 R290, R291). -/
namespace Sys2Proof.Machine

/-! ## LAUNCH (21 R343, 17 R290) -/

/-- The record a LAUNCH or an EXIT.S names, read through the issuer's translation. -/
def readRecord (s : State) (a : DWord) : Except Cause (List Byte) :=
  fetchBytes s s.self.world s.self.space .read a.toNat 128

/-- The record with ARGP replaced (21 R343). -/
def withArg (bs : List Byte) (arg : Option DWord) : List Byte :=
  match arg with
  | some x => putAt bs 8 (bitsLe 8 x)
  | none => bs

/-- A device launch's record is well formed for its issuer (17 R283, R290). -/
def deviceRecOk (bs : List Byte) (world : Bool) (space : BitVec 16) : Bool :=
  recOk bs world && (recOf bs).space == space

/-- The dispatcher takes a device launch of a carriage: it is ready, holds fewer than 64, and took none in this cycle that
goes after it. -/
def dispatcherTakes (s : State) (c : Carriage) : Bool := ready s 161 && (devWaiting s).length < 64 && devTurn s c

def launchBody (a : DWord) (arg : Option DWord) (d : OpField) (s : State) : State :=
  if s.self.spinst ≠ 0 then trapC s .specIllegal
  else if anyLocal s 5 || !dispatcherTakes s s.self then s
  else if a.toNat % 128 ≠ 0 then trapAt s .launchRecord a
  else if !fetchUp s a 128 then s
  else match readRecord s a with
    | .error c => trapAt (noteFetch s c a) c a
    | .ok raw =>
      let bs := withArg raw arg
      if deviceRecOk bs s.self.world s.self.space then
        let r := deviceLaunch s s.self (recOf bs)
        nextPc (if isS d then ws r.2 d r.1 else r.2)
      else trapAt s .launchRecord a

def execLaunch (i : RrrI) (s : State) : Out :=
  let arg := i.mod.getLsbD 0
  scalarOp i.h (i.h.a :: if arg then [i.h.b] else []) s (fun s =>
    launchBody (rs s i.h.a) (if arg then some (rs s i.h.b) else none) i.h.d s)

/-! ## Bins (18 R301, R302) -/

/-- The bin of a core that holds a key. -/
def bin? (s : State) (core launch : Nat) (entry : DWord) : Option Bin :=
  s.bins.find? (fun b => b.core == core && b.launch == launch && b.entry == entry)
def binAt? (s : State) (core idx : Nat) : Option Bin := s.bins.find? (fun b => b.core == core && b.idx == idx)
def onBin (s : State) (core idx : Nat) (f : Bin → Bin) : State :=
  { s with bins := s.bins.map (fun b => if b.core = core && b.idx = idx then f b else b) }
/-- Bins of a core that hold no key. -/
def freeBins (s : State) (core : Nat) : List Nat := (span 0 8).filter (fun i => (binAt? s core i).isNone)

/-- The timer's period: SPNTMR, 65,536 outside 64 to 65,536 (18 R302). -/
def binPeriod (s : State) (core : Nat) : Nat :=
  let v := (rcore s core 0x400).toNat
  if 64 ≤ v ∧ v ≤ 65536 then v else 65536

/-- The carriage width of the issuing launch. -/
def binWidth (s : State) (launch : Nat) : Nat :=
  match launch? s launch with
  | some l => l.rcd.width
  | none => 32

/-- A firing begins when none awaits placement and the bin holds w children, has a SPAWNF to finish or drains; one that
leaves children behind restarts the timer. -/
def kickBin (s : State) (b : Bin) : Bin :=
  let w := binWidth s b.launch
  let n := b.children.length
  if b.pend = 0 && n != 0 && (w ≤ n || b.force != 0 || b.drain) then
    { b with pend := min w n, firedAt := s.cyc
             deadline := if w < n then s.cyc + binPeriod s b.core else b.deadline }
  else b

/-- Add children to a bin: the timer starts when it was empty. -/
def addChildren (s : State) (b : Bin) (kids : List (Word × Word)) : Bin :=
  kickBin s { b with
    children := b.children ++ kids
    deadline := if b.children.isEmpty then s.cyc + binPeriod s b.core else b.deadline }

/-! ## SPAWN, SPAWNF (21 R344) -/

/-- The children of a SPAWN, by ascending slot. -/
def childrenOf (i : RrrI) (s : State) : List (Word × Word) :=
  (active s i.h).map (fun st => (opV s i.h.b st.2, opV s i.t.c st.2))

/-- The bin of the key with room for the children, or a free one; none while the SPAWN must wait. -/
def spawnInto (s : State) (entry : DWord) (kids : List (Word × Word)) : Option State :=
  let core := s.self.core
  match bin? s core s.self.launch entry with
  | some b =>
    if b.children.length + kids.length ≤ 256 then
      some { s with bins := s.bins.map (fun x => if x.core = core && x.idx = b.idx then addChildren s x kids else x) }
    else none
  | none =>
    let open' := freeBins s core
    match open'[free s 4 % open'.length]? with
    | none => none
    | some n =>
      let b : Bin := { core := core, idx := n, launch := s.self.launch, entry := entry, children := [], deadline := 0
                       pend := 0, firedAt := 0, force := 0, drain := false }
      some { s with bins := s.bins ++ [addChildren s b kids] }

def execSpawn (i : RrrI) (s : State) : Out :=
  .next (
    if rangeBad s [(i.h.b, 1), (i.t.c, 1)] then trapC s .regRange
    else if s.self.spinst ≠ 0 then trapC s .specIllegal
    else if (active s i.h).isEmpty then nextPc s
    else if anyOpen s 5 then s
    else match poisonSlot s i.h [(i.h.a, 1), (i.h.b, 1), (i.t.c, 1)] with
      | some t => trapSlot s .poison t 0
      | none =>
        match spawnInto s (rs s i.h.a) (childrenOf i s) with
        | none => s
        | some s' => nextPc s')

/-- The bin fires until every child it holds now has gone. -/
def execSpawnf (i : RrrI) (s : State) : Out :=
  scalarOp i.h [i.h.a] s (fun s =>
    if s.self.spinst ≠ 0 then trapC s .specIllegal
    else match bin? s s.self.core s.self.launch (rs s i.h.a) with
      | none => nextPc s
      | some b => nextPc (onBin s b.core b.idx (fun b => kickBin s { b with force := b.children.length })))

def execBinTimerExpiry (core bin : Nat) (s : State) : Out :=
  .next (match binAt? s core bin with
    | none => s
    | some b => if b.deadline ≤ s.cyc && !b.drain then onBin s core bin (fun b => kickBin s { b with drain := true }) else s)

/-! ## Spawned carriages (18 R302, R303) and their coach (R304) -/

/-- The record of a spawned carriage: the launch's, without accumulators, speculation or shared memory. -/
def spawnRec (r : LaunchRec) (entry : DWord) : LaunchRec :=
  { r with entry := entry, accs := 0, spec := 0, n := 1, a := 0, b := 0, carve := 0 }

/-- The launch's spawn coach. -/
def spawnCoach? (s : State) (launch : Nat) : Option Coach := s.coaches.find? (fun k => k.spawn && k.launch == launch)
/-- It forms with the first spawned carriage: counters of its own, a tag of its own. -/
def ensureSpawnCoach (s : State) (l : Launch) : Nat × State :=
  match spawnCoach? s l.id with
  | some k => (k.id, s)
  | none =>
    let n := newId s
    let k : Coach :=
      { id := n.1, launch := l.id, index := 0xFFFFFFFF, spawn := true, x := 0, y := 0, rcd := spawnRec l.rcd 0
        ctag := freshCtag s, n7 := false, recons := [], succ := none, succNamed := [], waiting := false, stopped := false, saved := false
        arrived := 0, kept := [], spill := [], areas := [], placed := s.cyc }
    (n.1, { n.2 with coaches := n.2.coaches ++ [k] })

/-- Carriages fired on a core for an entry so far. -/
def firedOf (l : Launch) (core : Nat) (entry : DWord) : Nat :=
  ((l.fired.find? (fun f => f.1 == core && f.2.1 == entry)).map (fun f => f.2.2)).getD 0
def countFired (l : Launch) (core : Nat) (entry : DWord) : Launch :=
  { l with fired := (core, entry, firedOf l core entry + 1) ::
      l.fired.filter (fun f => !(f.1 == core && f.2.1 == entry)) }

/-- A carriage slot, the registers and the spill region are free (17 R286), and the core is not held for an older
launch's guaranteed coach (19 R311). -/
def spawnFits (s : State) (l : Launch) (r : LaunchRec) (core : Nat) : Bool :=
  !heldAgainst s l [core] && !heldWithin s l 0 [core] && slotsUsed s core + 1 ≤ carrSlots s core && regsUsed s core + r.width * r.nreg * 4 ≤ vrcap s core &&
    (spillFit (spillTaken s (dieOf core)) (r.width * r.spill)).isSome

/-- The carriage of the bin's pending firing. Its carriage index, which no rule gives, is the number of firings of the
launch before it (DESIGN CHOICE, log 126). -/
def startSpawned (s : State) (l : Launch) (b : Bin) : State :=
  let k := ensureSpawnCoach s l
  let s := k.2
  let n := newId s
  let r := spawnRec l.rcd b.entry
  let kids := b.children.take b.pend
  let slots := (span 0 (carrSlots s b.core)).filter (fun x => !(takenSlots s b.core).contains x)
  let slot := (slots[free s 5 % slots.length]?).getD 0
  let base := (spillFit (spillTaken s (dieOf b.core)) (r.width * r.spill)).getD 0
  let index := sumNat (l.fired.map (fun f => f.2.2))
  let fired := firedOf l b.core b.entry % 2 ^ 32
  let c0 := newCarriage r n.1 k.1 l.id b.core slot index 0xFFFFFFFF b.firedAt base kids.length
  let c : Carriage :=
    { c0 with kind := .spawned, tie := b.idx, s := cset c0.s 3 (BitVec.ofNat 64 fired), ap := apStart r fired }
  let cells := ((span 0 kids.length).zip kids).flatMap (fun p =>
    [(vKey (n.1 * 128 + p.1) 0, p.2.1), (vKey (n.1 * 128 + p.1) 1, p.2.2)])
  let s := liveAll { n.2 with rest := n.2.rest ++ [c], v := csetAll n.2.v cells } n.1 kids.length
  onLaunch s l.id (fun l => countFired l b.core b.entry)

/-- The bin after its firing was placed: an empty bin is free, another may fire again. -/
def settleBin (s : State) (b : Bin) : State :=
  let b := { b with children := b.children.drop b.pend, force := b.force - b.pend, pend := 0 }
  if b.children.isEmpty then { s with bins := s.bins.filter (fun x => !(x.core == b.core && x.idx == b.idx)) }
  else onBin s b.core b.idx (fun _ => kickBin s b)

/-- `firing` is core × 8 + bin. -/
def execSpawnedCarriagePlace (firing : Nat) (s : State) : Out :=
  .next (match binAt? s (firing / 8) (firing % 8) with
    | none => s
    | some b =>
      match launch? s b.launch with
      | none => s
      | some l =>
        if b.pend ≠ 0 && spawnFits s l (spawnRec l.rcd b.entry) b.core then settleBin (startSpawned s l b) b else s)

def execSpawnCoachRetire (coach : Nat) (s : State) : Out :=
  .next (match coach? s coach with
    | none => s
    | some k =>
      if k.spawn && coachDone s k && !s.bins.any (fun b => b.launch == k.launch) then
        let s := clearCars s coach
        settleLaunch { s with coaches := s.coaches.filter (fun x => x.id != coach) } k.launch
      else s)

/-! ## EXIT (21 R337, 17 R291) -/

/-- The moving carriage runs a window of a speculative loop: its coach has no other carriage (20 R319). -/
def inLoop (s : State) : Bool := (loopOf s s.self).isSome

/-- Home carriages of threads. -/
def homesOfThreads (ts : List (Nat × Nat)) : List Nat := nubNat (ts.map (fun st => homeCar st.2))
/-- A home carriage's index in its coach. -/
def indexOfHome (s : State) (home : Nat) : Nat := if home = s.self.id then s.self.index else (car s home).index
/-- Live threads of a coach's carriage 0, over the whole coach. -/
def liveOfZero (s : State) : List Nat :=
  ((cars s).filter (fun c => c.coach == s.self.coach)).flatMap (fun c =>
    (liveOf s c).filterMap (fun st => if indexOfHome s (homeCar st.2) = 0 then some st.2 else none))

/-- The addresses other carriages named before carriage 0's last exit. -/
def namedOther (k : Coach) (a : Option DWord) : Bool := k.succNamed.any (fun n => some n.2 != a)

/-- These threads are carriage 0's last. -/
def lastOfZero (s : State) (ts : List (Nat × Nat)) : Bool :=
  ts.any (fun st => indexOfHome s (homeCar st.2) == 0) && (liveOfZero s).all (fun t => ts.any (fun st => st.2 == t))

/-- No thread of a coach's own carriage, or of a path of it, is live; instances above 0 do not count. -/
def allGone (s : State) : Bool :=
  (cars s).all (fun c => c.coach != s.self.coach || c.spinst != 0 || (liveOf s c).isEmpty)
/-- Threads leave the live mask; a carriage without any has exited, and the exit of all of a loop's instance 0 rejects
the instances above it (20 R325). -/
def leave (s : State) (ts : List (Nat × Nat)) : State :=
  let s := nextPc { s with live := csetAll s.live (ts.map (fun st => (st.2, 0))) }
  if (liveOf s s.self).isEmpty then
    onSelf (if allGone s then rejectAbove s else s) (fun c => { c with wait := .exited })
  else s

/-- The register demand fits the full register file of every core of the tile. -/
def succFits (s : State) (k : Coach) (r : LaunchRec) : Bool :=
  (coachCores k).all (fun core => regDemand r ≤ field (rcore s core 0x410) 0 10 * 1024)

/-- Carriage 0's first EXIT.S: the record, or the trap; every condition of R283 counts. -/
def readSuccessor (s : State) (k : Coach) (a : DWord) : Except Cause LaunchRec :=
  if a.toNat % 128 ≠ 0 then .error .launchRecord
  else match readRecord s a with
    | .error c => .error c
    | .ok bs => if recOk bs s.self.world && succFits s k (recOf bs) then .ok (recOf bs) else .error .launchRecord

/-- EXIT.S of threads of a coach, `k` as the coach stands. -/
def exitNaming (s : State) (k : Coach) (ts : List (Nat × Nat)) (a : DWord) : State :=
  let zero := (homesOfThreads ts).any (fun h => indexOfHome s h == 0)
  let others := (homesOfThreads ts).filter (fun h => indexOfHome s h != 0)
  let named := others.map (fun h => (indexOfHome s h, a))
  let final : Option DWord := (k.succ.map (fun x => x.1)).or (if zero then some a else none)
  -- the second of the two exits compares: carriage 0's last, or another carriage's after it
  let last := lastOfZero s ts || (liveOfZero s).isEmpty
  let clash : Bool :=
    (zero && final != some a) || (last && !others.isEmpty && final != some a) || (lastOfZero s ts && namedOther k final)
  if clash then trapAt s .successorMismatch a
  else
    if zero && k.succ.isNone && !fetchUp s a 128 then s
    else if zero && k.succ.isNone then
      match readSuccessor s k a with
      | .error c => trapAt (noteFetch s c a) c a
      | .ok r => leave (onCoach s k.id (fun k => { k with succ := some (a, r), succNamed := k.succNamed ++ named })) ts
    else leave (onCoach s k.id (fun k => { k with succNamed := k.succNamed ++ named })) ts

/-- Plain EXIT; carriage 0's last exit compares what others named. -/
def exitPlain (s : State) (k : Coach) (ts : List (Nat × Nat)) : State :=
  if lastOfZero s ts && namedOther k (k.succ.map (fun x => x.1)) then trapC s .successorMismatch else leave s ts

def execExit (i : RrrI) (s : State) : Out :=
  let ts := active s i.h
  .next (
    if s.self.spinst ≠ 0 then trapC s .specIllegal
    else if ts.isEmpty then nextPc s
    else match ownCoach s with
      | none => leave s ts
      | some k =>
        if !i.mod.getLsbD 0 then exitPlain s k ts
        else if k.spawn then leave s ts
        else if inLoop s then trapC s .specIllegal
        else if anyBadS s [i.h.a] then trapC s .poison
        else if !k.rcd.sok then trapAt s .successorMismatch (rs s i.h.a)
        else exitNaming s k ts (rs s i.h.a))

end Sys2Proof.Machine
end

