-- ==== Sys2Proof/Machine/Trigger.lean ====
section
/-! DEFINITION. Triggers: arming, firing, the timebase; and cancelling an operation (15 R254, R255, 16 R273, R274,
12 R209, 11 R198). -/
namespace Sys2Proof.Machine

/-! ## The trigger block (16 R273) -/

/-- Guard and operand fields of an embedded instruction are 0. -/
def plainHead (h : Head) : Bool := h.guard == 0 && !h.gneg && h.d == 0 && h.a == 0 && h.b == 0
/-- The instruction is one of the four, with no operand named, and its other fields pass decode. -/
def embeddedOk (i : Instr) : Bool :=
  modOk i && (match i with
    | .cpy i => plainHead i.h
    | .sigN i => plainHead i.h
    | .sigW i => plainHead i.h
    | .coll i => plainHead i.h
    | .launch i => plainHead i.h && i.t.c == 0
    | _ => false)
/-- The word-2 fields that the armed operation uses; a LAUNCH has none. -/
def embeddedTail (i : Instr) : Option EngTail :=
  match i with
  | .cpy i => some i.t
  | .sigN i => some i.t
  | .sigW i => some i.t
  | .coll i => some i.t
  | _ => none

def blockTerm (bs : List Byte) (k : Nat) : DWord := leBits 64 ((bs.drop (0x20 + 8 * k)).take 8)
/-- The valid terms. -/
def blockTerms (bs : List Byte) : List TrigTerm :=
  ((span 0 4).map (blockTerm bs)).filterMap (fun t =>
    if t.getLsbD 35 then some { imm := t.setWidth 32, ctr := field t 32 3 } else none)
def blockInstr (bs : List Byte) : Instr := decodeRaw (bitsOfBytes (bs.take 12))
/-- No reserved bit is set, and the embedded instruction passes. -/
def blockOk (bs : List Byte) : Bool :=
  leAt bs 0x0C 4 == 0 && (span 0 4).all (fun k => field (blockTerm bs k) 36 28 == 0) && embeddedOk (blockInstr bs)

def armedOn (s : State) (core : Nat) : Nat := (s.triggers.filter (fun t => t.core == core)).length

/-- A term on the timebase that holds now. -/
def timeHeld (s : State) (coach : Nat) (ts : List TrigTerm) : Bool :=
  ts.any (fun t => t.ctr == 7 && n7Bound s coach && termHolds s coach t)

/-- Arm: the handle becomes PENDING; the operation uses the embedded ORDER, SCOPE, RING and CTR. -/
def armTrigger (i : EngI) (bs : List Byte) (s : State) : State :=
  let ins := blockInstr bs
  let ts := blockTerms bs
  let t := newId s
  let n := newId t.2
  let k := issueToken n.2 n.1 i.h.d.toNat i.tf
  let o := newOp n.2 i n.1 k.1 (.armed t.1) [] []
  let o := match embeddedTail ins with
    | some x => { o with ring := x.ring.toNat, ctr := x.ctr.toNat, order := x.order, scope := x.scope }
    | none => { o with ring := 0, ctr := 0, order := 0, scope := 0 }
  let trig : Trigger :=
    { id := t.1, op := n.1, coach := s.self.coach, core := s.self.core, orJoin := i.t.emod.getLsbD 0, terms := ts
      instr := ins, aval := leBits 64 ((bs.drop 0x10).take 8), bval := leBits 64 ((bs.drop 0x18).take 8)
      lateAtArm := timeHeld s s.self.coach ts, due := none }
  nextPc { k.2 with
    ops := k.2.ops ++ [{ o with stage := .issued }]
    triggers := k.2.triggers ++ [{ trig with due := if trigHolds s trig then some (s.ns, s.tick) else none }] }

def execTriga (i : EngI) (s : State) : Out :=
  engOp i [i.h.a] s (fun s =>
    let a := (rs s i.h.a).toNat
    let blk : Range := (1, a, 64)
    let key := rangeKey (engSelf s) blk
    let keys := span key 64
    if s.self.spinst ≠ 0 then trapC s .specIllegal
    else if !rangeIn s (engSelf s) blk then trapAddr s .addrRange a
    else if a % 64 ≠ 0 then trapAddr s .addrAlign a
    else if imgBlocked s keys then s
    else if imgBad s keys then trapAddr s .poison a
    else
      let bs := imgBytes s keys
      if !blockOk bs then trapAddr s .triggerBlock a
      else if 32 ≤ armedOn s s.self.core then s
      else armTrigger i bs s)

/-! ## Firing (15 R254, R255, 16 R274): every check of the embedded instruction happens now -/

/-- A check fails: the operation completes with FAULT. -/
def fireFail (o : EngOp) (c : Cause) : EngOp := { failOp o c with kind := .failed }

/-- The operation of a fired CPY. -/
def fireCpy (s : State) (o : EngOp) (i : EngI) (a b : DWord) : EngOp :=
  let e := engOf o
  if cpyBytes i = 0 then { o with kind := .copy [] [] }
  else if (cpyBad s e i a b).isSome then fireFail o .addrRange
  else
    let ex := rangeLines e [cpyDst i b]
    { o with kind := .copy [cpySrc i a] [cpyDst i b], excl := ex
             shared := (rangeLines e [cpySrc i a]).filter (fun l => !ex.contains l) }

/-- A fired LAUNCH reads its record as of its issue, through the issuing carriage's translation. -/
def fireLaunch (o : EngOp) (i : RrrI) (a b : DWord) : EngOp :=
  if a.toNat % 128 ≠ 0 then fireFail o .launchRecord
  else { o with kind := .launchAt a (if i.mod.getLsbD 0 then some b else none) }
def launchRecord (s : State) (o : EngOp) (a : DWord) (arg : Option DWord) : EngOp :=
  match fetchBytes s o.world o.space .read a.toNat 128 with
  | .error c => fireFail o c
  | .ok raw => if deviceRecOk (withArg raw arg) o.world o.space then { o with kind := .launch (recOf (withArg raw arg)) } else fireFail o .launchRecord

def fireOp (s : State) (o : EngOp) (t : Trigger) : EngOp :=
  match t.instr with
  | .cpy i => fireCpy s o i t.aval t.bval
  | .sigN i => { o with kind := .sigN t.aval (field t.bval 0 32) (field t.bval 48 16) (field i.t.emod 0 3) (field i.t.emod 3 12) }
  | .sigW _ =>
    if t.aval.toNat % 8 ≠ 0 then fireFail o .addrAlign else { o with kind := .sigW t.aval.toNat t.bval }
  | .coll i => { o with kind := .coll t.aval.toNat (field i.t.emod 0 4) }
  | .launch i => fireLaunch o i t.aval t.bval
  | _ => o

/-- It counts as issued after the release that made its predicate true, which it acquires (12 R204, R209): it takes its
number now. -/
def fireTrigger (s : State) (t : Trigger) : State :=
  let s := { s with triggers := s.triggers.filter (fun x => x.id != t.id) }
  match op? s t.op with
  | none => s
  | some o =>
    let n := newId (takeSync s o.cid 5 (t.terms.map (fun x => ctrMark t.coach x.ctr)))
    let o := fireOp n.2 { o with id := n.1, stage := .requesting, late := t.lateAtArm } t
    renumber { n.2 with ops := n.2.ops.filter (fun x => x.id != t.op) ++ [o] } t.op n.1

/-- Of two due triggers the first: its predicate held earlier, or at the same time and it was armed earlier. -/
def firesBefore (x t : Trigger) : Bool :=
  match x.due, t.due with
  | some a, some b => a.1 < b.1 || (a.1 == b.1 && (a.2 < b.2 || (a.2 == b.2 && x.id < t.id)))
  | _, _ => false
def execTriggerFire (trig : Nat) (s : State) : Out :=
  .next (match s.triggers.find? (fun t => t.id == trig) with
    | none => s
    | some t => if t.due.isSome && !s.triggers.any (fun x => firesBefore x t) then fireTrigger s t else s)

/-- A nanosecond passes: a timebase term is evaluated. -/
def execTriggerTimebaseTick (trig : Nat) (s : State) : Out :=
  .next { s with triggers := s.triggers.map (fun t =>
    if t.id = trig && t.due.isNone && n7Bound s t.coach && t.terms.any (fun x => x.ctr == 7) && trigHolds s t then
      { t with due := some (s.ns, s.tick) } else t) }

/-- A fired LAUNCH goes on: the dispatcher takes it, and its acceptance completes it. -/
def launchTurn (s : State) (o : EngOp) : State :=
  match o.kind with
  | .launch r =>
    let c := { theCar s o.cid with core := o.core }
    if dispatcherTakes s c then
      let l := deviceLaunch s c r
      onOp l.2 o.id (fun o => { o with kind := .launched s.nextId, started := true })
    else s
  | .launched l =>
    match launch? s l with
    | some x => if x.accepted then completeOp s o none else s
    | none => completeOp s o none
  | _ => s

/-! ## CANH (11 R198) -/

/-- No source read has been requested: while an issued operation waits to begin, either may hold. -/
def notStarted (s : State) (o : EngOp) : Bool :=
  o.stage == .requesting || ((o.stage == .issued || o.stage == .held) && !o.started && free s 13 % 2 == 0)

def cancelOne (s : State) (o : EngOp) : State :=
  match o.kind with
  | .armed t => cancelOp { s with triggers := s.triggers.filter (fun x => x.id != t) } o
  | _ =>
    if notStarted s o then cancelOp { s with colls := s.colls.filter (fun c => c.id != o.id) } o
    else if isCopy o && (o.stage == .issued || o.stage == .held) then onOp s o.id (fun o => { o with cancel := true })
    else s

def execCanh (i : RrrI) (s : State) : Out :=
  let tok := i.mod.getLsbD 0
  scalarOp i.h (if tok then [i.h.a] else []) s (fun s =>
    match namedHandle s tok i.h.a with
    | none => trapC s .handleStale
    | some v =>
      nextPc (if v.pending then
        (match op? s v.op with
          | some o => cancelOne s o
          | none => s)
      else s))

end Sys2Proof.Machine
end

