-- ==== Sys2Proof/Machine/Grant.lean ====
section
/-! DEFINITION. The life of an engine operation after its issue: the grant of its lines with the reading of its sources,
the release of source lines, its work, its completion and its stop (11 R192, R193, R195, R198, 12 R208, 16 R265, R266). -/
namespace Sys2Proof.Machine

/-! ## Lines (11 R192) -/

/-- The line an operation requests now. -/
def nextLine (o : EngOp) : Option Nat := (wantedLines o)[o.held]?
/-- Another operation owns a line in a conflicting mode. -/
def lineTaken (s : State) (o : EngOp) (l : Nat) : Bool :=
  s.ops.any (fun x => x.id != o.id && holdsLine x l && (x.excl.contains l || (o.excl.contains l && x.shared.contains l)))
/-- A request that arrived at the line's directory before this one still stands there. -/
def olderAt (s : State) (o : EngOp) (l : Nat) : Bool :=
  s.ops.any (fun x => x.stage == .requesting && x.id != o.id && nextLine x == some l &&
    (x.asked < o.asked || (x.asked == o.asked && x.id < o.id)))
/-- An access of the same carriage to the line is not performed yet: it comes first. -/
def ownWait (s : State) (o : EngOp) (l : Nat) : Bool :=
  (waitsBefore s o).any (fun w => (keyLines w.keys).contains l && (o.excl.contains l || isStoreAct w.act))
/-- The operation may request its first line: no earlier access of its carriage that it must follow, on its lines, in its
reads, or by its release or a fence, is still to be performed, so that it never holds a line while it waits for one
(R192; DEDUCED, log 135). -/
def mayRequest (s : State) (o : EngOp) : Bool :=
  let own := waitsBefore s o
  (opsBefore s o).all (fun x => x.stage != .requesting) && (wantedLines o).all (fun l => !ownWait s o l) &&
    !own.any (fun w => w.act == .fence) && (opOrder o ≤ 1 || own.isEmpty) && !readsBehind s o
def lineFree (s : State) (o : EngOp) (l : Nat) : Bool := !lineTaken s o l && !olderAt s o l
/-- The next lines are granted, at most `n`, while they are free. -/
def takeLines (s : State) : Nat → EngOp → EngOp
  | 0, o => o
  | n + 1, o =>
    match nextLine o with
    | none => o
    | some l => if lineFree s o l then takeLines s n { o with held := o.held + 1, asked := s.tick } else o
/-- One grant: as many lines as are free, or, in a turn that lags, one. -/
def grantLines (s : State) (o : EngOp) : EngOp :=
  if o.held = 0 && !mayRequest s o then o else takeLines s (if s.lag = 0 then (wantedLines o).length else 1) o

/-! ## Sources as of issue -/

/-- Cut a run of bytes along ranges. -/
def chunksAlong (s : State) (e : EngAt) : List Range → List Byte → List Chunk
  | [], _ => []
  | r :: rest, bs =>
    { dest := if r.1 = 0 then .glob r.2.1 else .loc (rangeKey e r), bytes := bs.take r.2.2 } ::
      chunksAlong s e rest (bs.drop r.2.2)
/-- Global destination bytes that overlap the source, by whatever addresses (12 R200), are undefined (16 R267). -/
def overlapFree (s : State) (e : EngAt) (src : List (Nat × Nat)) (c : Chunk) : Chunk :=
  match c.dest with
  | .loc _ => c
  | .glob va =>
    if rangesMeet src (spotsOf s e [(va, c.bytes.length)]) then
      { c with bytes := ((span va c.bytes.length).zip c.bytes).map (fun x =>
          if rangesMeet src (spotsOf s e [(x.1, 1)]) then Config.freeByte s.tick (2 ^ 100 + x.1) else x.2) }
    else c

/-- A source that faults: the bytes before it, and the cause. -/
def gotOp (o : EngOp) (g : Got) : EngOp :=
  match g.fault with
  | some x => { failOp o x.1 with bytes := g.bytes.length }
  | none => { o with bytes := g.bytes.length }
def noteRanges (s : State) (e : EngAt) (rs : List (Nat × Nat)) : State :=
  rs.foldl (fun s r => engNote s e.eng e.world e.space r.1 r.2) s

/-- The ranges a copy reads in order, and its chunks from the bytes they gave. -/
def srcOf (o : EngOp) : List Range :=
  match o.kind with
  | .copy src _ => src
  | .tileCopy true _ _ _ _ _ _ _ rows rowb => rows.map (fun a => (0, a, rowb))
  | _ => []
def chunksOf (s : State) (o : EngOp) (bs : List Byte) : List Chunk :=
  match o.kind with
  | .copy _ dst => chunksAlong s (engOf o) dst bs
  | .tileCopy true _ _ _ _ _ _ _ rows rowb =>
    (rows.zip (chunksN rowb rows.length bs)).map (fun x => { dest := .glob x.1, bytes := x.2 })
  | _ => o.out
/-- The chunks with the bytes no rule gives. -/
def chunksNow (s : State) (o : EngOp) (bs : List Byte) : List Chunk :=
  match o.kind with
  | .copy src _ => (chunksOf s o bs).map (overlapFree s (engOf o) (spotsOf s (engOf o) (globOf src)))
  | _ => chunksOf s o bs
def opLog (s : State) (o : EngOp) : List LogStore := if o.inst = 0 then [] else logOf s o.homes
/-- A CPY, CPYT or TLD reads its source: its chunks are filled up where the source stops. Its relaxed reads of global
memory may go on (12 R208). -/
def readCopy (s : State) (o : EngOp) : EngOp × State :=
  let e := engOf o
  let s := readOrder s o
  let g := readRanges s e (opLog s o) (srcOf o)
  let total := sumNat ((srcOf o).map (fun r => r.2.2))
  ({ gotOp o g with
      out := chunksNow s o (g.bytes ++ zeros (total - g.bytes.length))
      fetched := !(s.lag = 1 && opOrder o ≤ 1 && g.fault.isNone && (srcOf o).any (fun r => r.1 == 0 || r.1 == 3)) },
    noteGot s e g)
/-- A TST reads the region's slices; words of them may be read later (10 R186). -/
def readTst (s : State) (o : EngOp) (tposed sparse : Bool) (fmt k ofs gen quad rowb : Nat) : EngOp :=
  let n := if tposed then rowb else regionBytes fmt k sparse
  let cols := (span 0 128).map (fun c => tileBytes s gen quad c ofs n)
  let bad := (span 0 128).any (fun c => mBad s (tileKey gen quad c ofs) n)
  let o := { o with out := sliceChunks gen quad ofs cols, bytes := 128 * n, fetched := true }
  if bad then { failOp o .poison with bytes := 0 } else o

/-- What an operation is after reading its sources. -/
def readSources (s : State) (o : EngOp) : EngOp × State :=
  match o.kind with
  | .copy _ _ => readCopy s o
  | .tileCopy true _ _ _ _ _ _ _ _ _ => readCopy s o
  | .tileCopy false tposed sparse fmt k ofs gen quad _ rowb => (readTst s o tposed sparse fmt k ofs gen quad rowb, s)
  | .cart c => ({ o with kind := .cart (formCart s o (opLog s o) c) }, s)
  | .amog a blk w nr aop _ _ =>
    if seeBad s o.cid [] (span blk 16) then ({ failOp o .poison with kind := .failed }, s)
    else ({ o with kind := .amog a blk w nr aop (leBits 64 (seeBytes s o.cid [] (span blk 8)))
                                                 (leBits 64 (seeBytes s o.cid [] (span (blk + 8) 8))) }, s)
  | .kvapp n q cnt h rsv d16 src _ first =>
    let len := h * cnt * (2 * d16 + 16)
    let keys := span src len
    if seeBad s o.cid (opLog s o) keys then ({ failOp o .poison with kind := .failed }, s)
    else ({ o with kind := .kvapp n q cnt h rsv d16 src (seeBytes s o.cid (opLog s o) keys) first }, s)
  | .route d _ =>
    let r := readRoute s o d
    ({ r.1 with fetched := true }, r.2)
  | .pfxi n k at' _ =>
    if seeBad s o.cid (opLog s o) (span at' 1028) then ({ failOp o .poison with kind := .failed }, s)
    else
      let bs := seeBytes s o.cid (opLog s o) (span at' 1028)
      ({ o with kind := .pfxi n k at' ((span 0 257).map (fun i => leAt bs (4 * i) 4)) }, s)
  -- what these read of a pool, they read later
  | .kvmap _ _ => (o, s)
  | .kvfork _ _ _ _ => (o, s)
  | .kvfree _ _ _ => (o, s)
  | .pfxf _ _ _ _ => (o, s)
  | .pgchk _ _ => (o, s)
  | _ => ({ o with fetched := true }, s)

/-- What an operation is when it holds its lines: its descriptor is read (10 R165, 13 R213, 16 R268). A cart whose row
bytes have changed meanwhile requests the lines they give. -/
def resolveOp (s : State) (o : EngOp) : EngOp × State :=
  let e := engOf o
  let fail (x : Cause × Nat) : EngOp × State := ({ failOp o x.1 with kind := .failed }, noteOp s e x.1 x.2)
  match o.kind with
  | .copyT st daddr rowo colb n rb loc =>
    match cpytAt s e st daddr rowo colb n rb loc with
    | .error x => fail x
    | .ok k => ({ o with kind := k }, s)
  | .tileT toTile tposed ta tb win =>
    match tileAt s e toTile tposed ta tb win with
    | .error x => fail x
    | .ok k => ({ o with kind := k }, s)
  | .cart c =>
    match cartAt s e c with
    | .error x => fail x
    | .ok d =>
      if d.head.rowBytes = c.head.rowBytes then ({ o with kind := .cart d }, s)
      else if !cartFits s e d then fail (.addrRange, d.x)
      else
        let ls := cartLines e d
        ({ o with kind := .cart d, shared := ls.1.filter (fun l => !ls.2.contains l), excl := ls.2, held := 0, asked := s.tick }, s)
  | .launchAt a arg => (launchRecord s o a arg, s)
  | _ => (o, s)

/-! ## The grant: the operation counts as issued -/

/-- Held until its instance commits (16 R266, 20 R327). -/
def isHeld (o : EngOp) : Bool :=
  o.inst != 0 && (holds o.kind || (match o.kind with
    | .kvapp _ _ _ _ _ _ _ _ _ => true
    | _ => false))

def grantOp (s : State) (o : EngOp) : State :=
  let e := engOf o
  let s := wakeIssuer (noteRanges s e (globReads o)) o.id
  match o.kind with
  | .coll blk port => startColl s o blk port
  | _ =>
    let r := readSources s o
    let o := { r.1 with stage := if isHeld r.1 then .held else .issued }
    onOp r.2 o.id (fun _ => o)

/-- What it reads as of issue is reached: a collective's rank map and a launch record too. -/
def readsUp (s : State) (o : EngOp) : Bool :=
  globUp s (engOf o) (globReads o) &&
    (match o.kind with
     | .launchAt a _ => rangesUp s engAny o.world o.space [(a.toNat, 128)]
     | .coll blk _ => blk % 128 != 0 || globUp s (engOf o) [mapRange (readGlob s (engOf o) (piecesOf blk 128)).bytes]
     | _ => true)
/-- A grant event: the next lines; with all of them the operation issues, once its reads may be performed. Where the
descriptor it has read meanwhile puts something before them, it requests its lines anew. -/
def execOwnershipGrant (op : Nat) (s : State) : Out :=
  .next (match op? s op with
    | none => s
    | some o =>
      if o.stage ≠ .requesting then s
      else
        let x := grantLines s o
        let wait : State := if x.held = o.held then s else onOp s op (fun _ => x)
        if x.held < (wantedLines x).length || readsBehind s x || (opsBefore s x).any (fun y => y.stage == .requesting) ||
            !readsUp s x then wait
        else
          let r := resolveOp s x
          if r.1.held < (wantedLines r.1).length then onOp r.2 op (fun _ => r.1)
          else if readsBehind s r.1 then onOp s op (fun o => { o with held := 0, asked := s.tick })
          else if !readsUp s r.1 then wait
          else grantOp r.2 r.1)

/-- The engine has read a source line. -/
def releasesSources (k : OpKind) : Bool :=
  match k with
  | .copy _ _ => true
  | .cart _ => true
  | .amog _ _ _ _ _ _ _ => true
  | _ => false
def execSourceLineRelease (op line : Nat) (s : State) : Out :=
  .next (match op? s op with
    | none => s
    | some o =>
      if opHolds o && releasesSources o.kind && o.shared.contains line then
        applyWaits (onOp s op (fun o => { o with shared := o.shared.filter (fun l => l != line), started := true }))
      else s)

/-! ## Work and completion -/

/-- Everything that must come before what an operation writes has happened, and its route delivers. -/
def canLand (s : State) (o : EngOp) : Bool :=
  (releaseReady s o || (writeSpots s o).isEmpty) && !writesBehind s o && globUp s (engOf o) (globWrites o)
/-- Every carriage sees what has landed early. -/
def shown (s : State) (o : EngOp) : Bool := s.stale.all (fun e => e.id != o.id)
def landNow (s : State) (o : EngOp) : State :=
  if canLand s o && shown s o then completeOp (noteRanges s (engOf o) (globWrites o)) o none else s

/-- A KVMAP looks up its keys: one result per slot that had one. -/
def kvmapRun (s : State) (o : EngOp) (keys : List (Nat × DWord)) (dst : Nat) : State :=
  onOp s o.id (fun x => { x with
    stage := .ready, fetched := true, midBits := 0
    out := keys.map (fun k => { dest := .loc (dst + 8 * k.1), bytes := bitsLe 8 (mapResult s o.world k.2) }) })

/-- An issued operation whose work needs no event of its own. -/
def workTurn (s : State) (o : EngOp) : State :=
  match o.kind with
  | .copy _ _ => landNow s o
  | .tileCopy _ _ _ _ _ _ _ _ _ _ => landNow s o
  | .failed => landNow s o
  | .amog a blk w nr aop b cmp => if canLand s o then amogRun (noteRanges s (engOf o) (globWrites o)) o a blk w nr aop b cmp else s
  | .sigN lid coach pkg ctr inc => if releaseReady s o then sigRun s o lid coach pkg ctr inc else s
  | .sigW a data => if canLand s o then sigStore (noteRanges s (engOf o) (globWrites o)) o a data else s
  | .ctrs op ctr val =>
    if releaseReady s o then
      completeOp (wroteBy o.cid s (ctrsRun (if 2 ≤ opOrder o then noteSync s o.cid o.scope [ctrMark o.coach ctr] else s) o.coach op ctr val)) o none
    else s
  | .kvmap keys dst => if releaseReady s o && !readsBehind s o then kvmapRun s o keys dst else s
  | .edrn joined faults total =>
    if joined.isEmpty then
      completeOp s { o with midBits := BitVec.ofNat 8 (min faults 255), lowBits := BitVec.ofNat 40 total } none
    else s
  | .launch _ => launchTurn s o
  | .launched _ => launchTurn s o
  | _ => s

def execEngineCompletion (op : Nat) (s : State) : Out :=
  .next (match op? s op with
    | none => s
    | some o =>
      if o.preempted then s
      else match o.stage with
      | .ready => landNow s o
      | .issued => workTurn s o
      | .landed => if doneReady s o then signalOp { s with ops := s.ops.filter (fun x => x.id != op) } o else s
      | _ => s)

/-! ## Reads that go on and bytes that land early (12 R200, R203, R208, 10 R186, R187) -/

/-- A choice for a CPY's source or destination that is one single-copy atomic access, else for each such unit of `w` bytes
that a run covers whole, else for each byte. -/
def unitPick (s : State) (salt : Nat) (one : Bool) (w a n k : Nat) : Bool :=
  let u := k / w
  let whole : Bool := a ≤ w * u && w * u + w ≤ a + n
  free s (salt + (if one then 2 ^ 63 else if whole then 2 ^ 62 + u else k)) % 2 = 0
/-- Whether the source of a CPY, and its destination, is one single-copy atomic access. -/
def oneUnit (o : EngOp) : Bool × Bool :=
  match o.kind with
  | .copy [x] [y] => (isUnit x, isUnit y)
  | _ => (false, false)
def isTst (o : EngOp) : Bool :=
  match o.kind with
  | .tileCopy false _ _ _ _ _ _ _ _ _ => true
  | _ => false
/-- Bytes along the chunks of an operation. -/
def refill : List Chunk → List Byte → List Chunk
  | [], _ => []
  | c :: r, bs => { c with bytes := bs.take c.bytes.length } :: refill r (bs.drop c.bytes.length)
/-- Some of these bytes of an operation's chunks, those not 0, have landed. -/
def landedAny (s : State) (o : EngOp) (bits : List Byte) : Bool :=
  !o.early.isEmpty && ((outNow s { o with out := refill o.out bits }).flatMap (chunkPieces s (engOf o))).any (fun p =>
    match p.at' with
    | .ok key => ((span key p.bytes.length).zip p.bytes).any (fun x => x.2 != 0 && o.early.contains x.1)
    | .error _ => false)
/-- What a read of the sources gives now, with the units that are read in this turn; none when it fails: such a read was
performed before. -/
def reread (s : State) (o : EngOp) : Option (List (Bool × Byte)) :=
  if isTst o then
    let keys := o.out.flatMap (fun c => match c.dest with
      | .loc key => span key c.bytes.length
      | .glob _ => [])
    if keys.any (fun k => cget s.mPoison (k / 8) == 1) then none
    else some (keys.map (fun k => (free s (2 ^ 42 + k / 4) % 2 == 0, mget s k ^^^ keyFill k)))
  else
    let g := readRanges s (engOf o) (opLog s o) (srcOf o)
    if g.fault.isSome then none
    else some (((srcOf o).flatMap (fun r => (span r.2.1 r.2.2).map (fun k =>
      (r.1 == 0 || r.1 == 3) && unitPick s (2 ^ 72) (oneUnit o).1 8 r.2.1 r.2.2 k))).zip g.bytes)
/-- Units of a copy's global sources, or of a tile, are read again, unless some of what was read of them has landed. -/
def refetch (s : State) (o : EngOp) : State :=
  match reread s o with
  | none => s
  | some xs =>
    if landedAny s o (xs.map (fun x => if x.1 then 0xFF#8 else 0)) then s
    else
      let old := o.out.flatMap (fun c => c.bytes)
      onOp s o.id (fun o => { o with
        out := refill o.out ((old.zip xs).map (fun x => if x.2.1 then x.2.2 else x.1)), started := true })
/-- Units of what a copy writes to global memory or to a tile land before the rest. -/
def landEarly (s : State) (o : EngOp) : State :=
  let ps := (outNow s o).flatMap (chunkPieces s (engOf o))
  if (firstFail 0 ps).isSome then s
  else
    let runs := ps.flatMap (fun p => match p.at' with
      | .error _ => []
      | .ok key =>
        if isGlobal o key || isTileKey key then
          runsWhere (fun k => !o.early.contains k && unitPick s (2 ^ 73) (oneUnit o).2 (if isTileKey key then 4 else 8) key p.bytes.length k) key p.bytes
        else [])
    let t := ofWrite (runs.foldl (fun s r => opPut s o false r.1 r.2) s) s.past.length o.id true
    onOp t o.id (fun o => { o with early := o.early ++ runs.flatMap (fun r => span r.1 r.2.length), started := true })
/-- A copy under way moves on: its reads end, or units of it are read again, or units of it land. -/
def copyTurn (s : State) (k : Nat) : State :=
  match s.ops[k]? with
  | none => s
  | some o =>
    if o.stage ≠ .issued || !isCopy o || o.faultBit then s
    else match free s 25 % 3 with
      | 0 => onOp s o.id (fun o => { o with fetched := true })
      | 1 => if o.fetched && !isTst o then s else refetch s o
      | _ => if canLand s o then landEarly s o else s

/-! ## Stopping (11 R198) -/

/-- Destination 4 KiB boundaries within a run of pieces, as byte counts. -/
def cutsOf : Nat → List Piece → List Nat
  | _, [] => []
  | off, p :: r =>
    let first := (4096 - p.addr % 4096) % 4096
    let n := p.bytes.length
    (if first < n then (span 0 ((n - first - 1) / 4096 + 1)).map (fun i => off + first + 4096 * i) else []) ++
      cutsOf (off + n) r
def execCancelStop (op : Nat) (s : State) : Out :=
  .next (match op? s op with
    | none => s
    | some o =>
      let ps := (outNow s o).flatMap (chunkPieces s (engOf o))
      -- pre-emption cancels what has more than 1 MiB still to write
      let cuts := (cutsOf 0 ps).filter (fun n => !o.preempted || n + 2 ^ 20 ≤ pieceBytes ps + 4096)
      match cuts[free s 14 % max 1 cuts.length]? with
      | some n => if (o.cancel || o.preempted) && o.stage == .issued && canLand s o && shown s o then completeOp s o (some n) else s
      | none => s)

end Sys2Proof.Machine
end

