-- ==== Sys2Proof/Machine/Pass.lean ====
section
/-! DEFINITION. The issue of matrix passes: the checks of R171 in order, what is read at issue, MMRK's drop test and the
posting in the reservation table (10 R168-R172, R176, 07 R118). -/
namespace Sys2Proof.Machine

/-! ## Issue (10 R168-R172, R176) -/

/-- The read of global ranges that an `.AT` pass makes at issue, as an operation of its copy engine. -/
def passReader (s : State) (rs : List (Nat × Nat)) : EngOp :=
  baseOp s s.nextId (.copy (rs.map (fun r => (0, r.1, r.2))) [])
/-- Earlier accesses of the carriage come before that read (12 R202, R204), or a route it takes does not deliver yet. -/
def passReadWaits (s : State) (rs : List (Nat × Nat)) : Bool :=
  readsBehind s (passReader s rs) || !globUp s (engOf (passReader s rs)) rs
/-- The descriptor behind an `.AT` handle, the cause and address where it cannot be read, or none where malformed. A
poisoned unit of it is POISON, as for every engine that reads one (DESIGN CHOICE, log 129). -/
def readDesc (s : State) (eng : Nat) (addr : Nat) : Except (Cause × Nat) (Option TensorDesc × TensorDesc) :=
  match engRead s eng s.self.world s.self.space addr 64 with
  | .error e => .error (e.1, addr)
  | .ok bs =>
    if bs.2 then .error (.poison, addr)
    else .ok (if descOk bs.1 then some (descOf bs.1) else none, descOf bs.1)

/-- A precise translation fault of an engine's read, counted where its world is the wrong one. -/
def engTrap (s : State) (c : Cause) (addr : Nat) : State :=
  let w := leafFor s (engCopy s.self.core) s.self.world s.self.space addr
  trapAt (if c = .world then noteWorld s (mmCore s.self.core) s.tick s.self.world s.self.space addr w else s) c (BitVec.ofNat 64 addr)

/-- Registers of A per row and of scales (10 R169, R170): Q, nb, QS, and the B base. -/
def aRegs (op : PassOp) (k : Nat) : Nat := k * elemBits (passA' op) / 32
def scaleBlocks (k : Nat) : Nat := k / 32
def scaleQS (i : PassI) (k : Nat) : Nat := (scaleBlocks k + b2n (i.t.xmod.getLsbD 14) + 1) / 2
def scaleB (i : PassI) (k nr : Nat) : Nat := i.t.c.toNat + nr * scaleQS i k
/-- One above the highest scale register. -/
def scaleTop (op : PassOp) (i : PassI) (k nr : Nat) : Nat :=
  scaleB i k nr + scaleBlocks k * (if op == .nx4 then 2 else 1)

/-- Scale and special of row j of a thread by block. -/
def rowScales (s : State) (i : PassI) (k tid j : Nat) : List (Byte × Byte) :=
  let a := b2n (i.t.xmod.getLsbD 14)
  (span 0 (scaleBlocks k)).map (fun b =>
    let w := rv s tid (i.t.c.toNat + j * scaleQS i k + (b + a) / 2)
    let o := 2 * ((b + a) % 2)
    (byteOf w o, byteOf w (o + 1)))
/-- A slot's register, or what an empty slot supplies. -/
def slotReg (s : State) (slot reg : Nat) (none' : Word) : Word :=
  match (s.self.slots[slot]?).getD 0 with
  | 0 => none'
  | t + 1 => rv s t reg
def colScales (s : State) (op : PassOp) (i : PassI) (k nr : Nat) : List (List Word × List Word) :=
  let b0 := scaleB i k nr
  (span 0 (scaleBlocks k)).map (fun b =>
    ((span 0 32).map (fun l => slotReg s l (b0 + b) 0x7F7F7F7F#32),
      if op == .nx4 then (span 0 32).map (fun l => slotReg s l (b0 + scaleBlocks k + b) 0) else []))

/-- The rows of the active threads: thread, place j of the thread, home, row. -/
def passRows (s : State) (ts : List (Nat × Nat)) : List (Nat × Nat × Nat × Nat) :=
  ts.flatMap (fun st =>
    let rows := rowsOfTid s st.2
    ((span 0 rows.length).zip rows).map (fun r => (st.2, r.1, homeCar st.2, r.2)))

/-- Poisoned A or scale registers of active threads, and B scale registers of the slots (24 R383). -/
def passPoison (s : State) (op : PassOp) (i : PassI) (k nr : Nat) (ts : List (Nat × Nat)) : Option Nat :=
  let bad (tid lo n : Nat) : Bool := (span lo n).any (fun r => vBad s tid r)
  let one := ts.find? (fun st =>
    (i.asrc == 0 && bad st.2 i.h.a.toNat (nr * aRegs op k)) ||
      (passScaled op && bad st.2 i.t.c.toNat (nr * scaleQS i k)))
  match one with
  | some st => some st.1
  | none =>
    if passScaled op && (span 0 (if i.t.xmod.getLsbD 15 then 1 else 32)).any (fun l =>
        match (s.self.slots[l]?).getD 0 with
        | 0 => false
        | t + 1 => bad t (scaleB i k nr) (scaleTop op i k nr - scaleB i k nr)) then some 0xFFFF
    else if anyBadS s ((if i.asrc == 1 then [i.h.a] else []) ++ (if op == .rk then [i.t.c] else [])) then some 0xFFFF
    else none

/-- MMRK's drop test (07 R118): lists, the bound against their thresholds, the least index each would be offered. -/
def rankDropped (s : State) (a : Nat) (rows : List (Nat × Nat × Nat × Nat)) (bound base : Word) : Bool :=
  if isNanW bound then false
  else
    let u := decodeF fmtF32 bound.toNat
    let tests : List (Nat × Nat × Nat) :=
      (nubNat (rows.map (fun r => r.2.2.1))).flatMap (fun h =>
        let ms := (rows.filter (fun r => r.2.2.1 == h)).map (fun r => r.2.2.2)
        if accCol (accWord s h a) then
          let least := (ms.map (fun m => (base + BitVec.ofNat 32 m).toNat)).foldl min (2 ^ 32)
          (span 0 128).map (fun n => (h, n, least))
        else
          let least := if 2 ^ 32 - 1 < base.toNat + 127 then 0 else base.toNat
          ms.map (fun m => (h, m, least)))
    tests.all (fun t =>
      let th := thresholdOf s t.1 a t.2.1
      let v := decodeF fmtF32 th.1.1.toNat
      ltV u v || (eqV u v && th.2 && th.1.2.toNat < t.2.2))

def rkDropReg (quad : Nat) : Nat := coreReg ((quadCores quad).headD 0) 0x408
def countDrop (s : State) : State :=
  let r := rkDropReg (quadOf s.self.core)
  wsys s 0 1 r (rsys s 0 1 r + 1)

/-- Rank of a core in its quad. -/
def quadRank (core : Nat) : Nat := coreY core % 2 * 2 + coreX core % 2

/-- The bytes of every row of A, by its source, with its poisoned words; rows outside the active ones are not read. -/
def rowData (s : State) (op : PassOp) (i : PassI) (k : Nat) (at' : List (Nat × List (Nat × Nat)))
    (r : Nat × Nat × Nat × Nat) : List Byte × List Nat :=
  let n := aRowBytes op k
  match i.asrc.toNat with
  | 0 => (regBytes s r.1 (i.h.a.toNat + r.2.1 * aRegs op k) n, [])
  | 1 =>
    let key := memKey .shm s.self.coach ((rs s i.h.a).toNat + r.2.2.2 * n)
    (seeBytes s s.self.id (logOf s [s.self.id]) (span key n),
      (span 0 (n / 4)).filter (fun w => seeBad s s.self.id (logOf s [s.self.id]) [key + 4 * w]))
  | _ =>
    match at'.find? (fun x => x.1 == r.2.2.2) with
    | some x => (keyBytes s x.2, if keysBad s x.2 then [0] else [])
    | none => (zeros n, [])

/-- Keys of the 128 rows of an `.AT` window, all of them translated at issue. -/
def atKeys (s : State) (d : TensorDesc) (rowo colb n : Nat) : List Nat → Except (Cause × Nat) (List (Nat × List (Nat × Nat)))
  | [] => .ok []
  | m :: r =>
    match engKeys s (engCopy s.self.core) s.self.world s.self.space .read (rowAddr d (rowo + m) colb) n with
    | .error e => .error e
    | .ok ks =>
      match atKeys s d rowo colb n r with
      | .error e => .error e
      | .ok rest => .ok ((m, ks) :: rest)

/-- The v registers a pass reads as A and as scales: of the active threads, and of slots 0 to 31 for B. -/
def passRegs (s : State) (op : PassOp) (i : PassI) (k nr : Nat) (ts : List (Nat × Nat)) : List Nat :=
  let regs (tid lo n : Nat) : List Nat := (span lo n).map (vKey tid)
  ts.flatMap (fun st =>
    (if i.asrc == 0 then regs st.2 i.h.a.toNat (nr * aRegs op k) else []) ++
      if passScaled op then regs st.2 i.t.c.toNat (nr * scaleQS i k) else []) ++
    if passScaled op then
      (slotsOf s.self).flatMap (fun st =>
        if st.1 < 32 then regs st.2 (scaleB i k nr) (scaleTop op i k nr - scaleB i k nr) else [])
    else []
/-- The pass as it is posted. -/
def mkPass (s : State) (op : PassOp) (i : PassI) (ts : List (Nat × Nat)) (w : TileWin) (tb : BitVec 128)
    (at' : List (Nat × List (Nat × Nat))) (id : Nat) (tok : DWord) : Pass :=
  let k := tK tb
  let nr := rowsPer (widthOf s.self)
  { id := id, quad := quadOf s.self.core, cid := s.self.id, homes := homesActive ts, counted := homesOf s.self, coach := s.self.coach
    prio := s.self.prio, posted := s.cyc, rank := quadRank s.self.core, op := op, acc := i.h.d.toNat, kLen := k
    interval := 32 * 2 ^ i.pi.toNat, zero := i.low.getLsbD 4
    rows := (passRows s ts).map (fun r =>
      let d := rowData s op i k at' r
      { home := r.2.2.1, row := r.2.2.2, bytes := d.1, bad := d.2
        scales := if passScaled op then rowScales s i k r.1 r.2.1 else [] : PassRow })
    aAddr := if i.asrc = 1 then some (rs s i.h.a).toNat else none
    bScale := if passScaled op then colScales s op i k nr else [], uni := i.t.xmod.getLsbD 15
    gen := w.gen, bOfs := tOfs tb, oldB := [], base := (rs s i.t.c).setWidth 32, scores := [], scoreBad := []
    regs := passRegs s op i k nr ts, tok := tok, excess := 0, overAt := [], done := 0, follow := false, running := false
    held := 0, granted := 0, ran := 0 }

/-- The pass reads a poisoned element of its accumulator: one it adds to, or a list it offers to (24 R383, 23 R367). -/
def passAccBad (s : State) (op : PassOp) (i : PassI) (ts : List (Nat × Nat)) : Bool :=
  let a := i.h.d.toNat
  if op == .rk then
    (homesActive ts).any (fun h =>
      let ms := ((passRows s ts).filter (fun r => r.2.2.1 == h)).map (fun r => r.2.2.2)
      (if accCol (accWord s h a) then span 0 128 else ms).any (fun m => listBad s h a m))
  else
    !i.low.getLsbD 4 && (passRows s ts).any (fun r => (span 0 128).any (fun n =>
      (elemCells r.2.2.1 a (op == .f64) r.2.2.2 n 0).any (fun c => aBad s c.1)))
/-- Post, once a reservation-table entry is free and the name's earlier passes are done; a poisoned accumulator element
traps then; MMRK may be dropped. -/
def postPass (s : State) (op : PassOp) (i : PassI) (ts : List (Nat × Nat)) (w : TileWin) (tb : BitVec 128)
    (at' : List (Nat × List (Nat × Nat))) : State :=
  let a := i.h.d.toNat
  let homes := homesActive ts
  let x := rs s i.t.c
  let asKeys := if i.asrc = 1 then
    (passRows s ts).flatMap (fun r =>
      span (memKey .shm s.self.coach ((rs s i.h.a).toNat + r.2.2.2 * aRowBytes op (tK tb)))
        (aRowBytes op (tK tb)))
    else []
  if passOn s homes (homes.flatMap (fun h => accSpan s h a)) || imgBlocked s asKeys then s
  else if passAccBad s op i ts then trapC s .poison
  else if op == .rk && rankDropped s a (passRows s ts) ((x >>> 32).setWidth 32) (x.setWidth 32) then nextPc (countDrop s)
  else if 32 ≤ (quadPasses s (quadOf s.self.core)).length then s
  else
    let n := newId s
    let t := if op == .ssBf16 then issueToken n.2 n.1 (field i.t.xmod 0 4) false else (0, n.2)
    let p := mkPass s op i ts w tb at' n.1 t.1
    nextPc { t.2 with passes := t.2.passes ++ [p] }

/-- The checks of R171 in order, then posting. No rule places POISON of A, scale and s sources among them: it comes after
steps 1 to 6 and before step 7, whose translations are the last check (DESIGN CHOICE, log 129). -/
def passBody (op : PassOp) (i : PassI) (ts : List (Nat × Nat)) (s : State) : State :=
  let a := i.h.d.toNat
  let homes := homesActive ts
  let tb := rt s i.h.b
  let ta := rt s i.h.a
  let viaT := i.asrc == 2
  let eng := engCopy s.self.core
  if homes.any (fun h => accUnbound s h a) then trapC s .accUnbound
  else if homes.any (fun h => accRank (accWord s h a) != (op == .rk)) then trapC s .accKind
  else if homes.any (fun h => accFmt (accWord s h a) != passTile op) then trapC s .accFormat
  else if tKind tb = .invalid ∨ (viaT ∧ tKind ta = .invalid) then trapC s .tileInvalid
  else if tKind tb ≠ .tilemem ∨ tFmt tb ≠ passB' op ∨ tLayout tb ≠ b2n (passSparseB op) ∨
      (viaT ∧ tKind ta ≠ .tensor) then trapC s .tileMismatch
  else if viaT && passReadWaits s [(tDaddr ta, 64)] then s
  else
    let desc : Except (Cause × Nat) (Option TensorDesc × TensorDesc) :=
      if viaT then readDesc s eng (tDaddr ta) else .ok (none, descOf [])
    match desc with
    | .error e => engTrap s e.1 e.2
    | .ok d =>
      let k := tK tb
      let n := aRowBytes op k
      let sa := (rs s i.h.a).toNat
      let nr := rowsPer (widthOf s.self)
      let atBad : Bool := viaT &&
        (match d.1 with
         | none => true
         | some d => d.rows < tRowo ta + 128 || d.rowBytes < tColb ta + n)
      let asBad : Bool := i.asrc == 1 && (sa % 16 != 0 || shmSize s s.self.coach < sa + 128 * n)
      let kBad : Bool :=
        (passP op).isSome && k % (32 * 2 ^ i.pi.toNat) != 0 || (passSparseA op && k % 64 != 0)
      if viaT ∧ d.2.fmt ≠ passA' op then trapC s .tileMismatch
      else match regionWindow s tb with
        | none => trapC s .tileRange
        | some w =>
          if kBad || atBad || asBad then trapC s .tileRange
          else if (i.asrc == 0 && s.self.nreg < i.h.a.toNat + nr * aRegs op k) ||
              (passScaled op && s.self.nreg < scaleTop op i k nr) then trapC s .regRange
          else match passPoison s op i k nr ts with
            | some t => trapSlot s .poison t 0
            | none =>
              if viaT && passReadWaits s ((span 0 128).map (fun m => (rowAddr d.2 (tRowo ta + m) (tColb ta), n))) then s
              else match (if viaT then atKeys s d.2 (tRowo ta) (tColb ta) n (span 0 128) else .ok []) with
              | .error e => engTrap s e.1 e.2
              | .ok ks => postPass s op i ts w tb ks

/-- A pass instruction: REG_RANGE of its register fields; with no active thread it posts nothing, and MMRK counts as
dropped (10 R171). -/
def passOp (op : PassOp) (i : PassI) (s : State) : Out :=
  .next (
    let regs : List Use := (if i.asrc == 0 then [(i.h.a, 1)] else []) ++ if passScaled op then [(i.t.c, 1)] else []
    let ts := active s i.h
    if rangeBad s regs then trapC s .regRange
    else if ts.isEmpty then nextPc (if op == .rk then countDrop s else s)
    else passBody op i ts s)

def execMmaE4 (i : PassI) (s : State) : Out := passOp .e4 i s
def execMmaE5 (i : PassI) (s : State) : Out := passOp .e5 i s
def execMmaNx4 (i : PassI) (s : State) : Out := passOp .nx4 i s
def execMmaBf16 (i : PassI) (s : State) : Out := passOp .bf16 i s
def execMmaF16 (i : PassI) (s : State) : Out := passOp .f16 i s
def execMmaF32 (i : PassI) (s : State) : Out := passOp .f32 i s
def execMmaF64 (i : PassI) (s : State) : Out := passOp .f64 i s
def execMmaI8 (i : PassI) (s : State) : Out := passOp (.i8 (i.low.getLsbD 1) (i.low.getLsbD 0)) i s
def execMmspE4 (i : PassI) (s : State) : Out := passOp .spE4 i s
def execMmspBf16 (i : PassI) (s : State) : Out := passOp .spBf16 i s
def execMmssBf16 (i : PassI) (s : State) : Out := passOp .ssBf16 i s
def execMmrkBf16 (i : PassI) (s : State) : Out := passOp .rk i s

end Sys2Proof.Machine
end

