-- ==== Sys2Proof/Machine/Spec.lean ====
section
/-! DEFINITION. Speculative serial loops: SPLOOP and its descriptor, windows and their instances, GUESS, ACCEPT, SPEND,
SPMARK, SPQUIT, comparison, commit and the end of a window (20 R318-R330, 21 R346-R351, 12 R210, 14 R235). -/
namespace Sys2Proof.Machine

/-! ## The loop descriptor (20 R318) -/

def distinct (xs : List Nat) : Bool := (nubNat xs).length == xs.length
/-- The words of a descriptor's lists: all, and those in use. -/
def descV (bs : List Byte) : List Nat := (span 0 8).map (fun e => leAt bs (0x28 + 2 * e) 2)
def descS (bs : List Byte) : List Nat := (span 0 4).map (fun e => leAt bs (0x38 + e) 1)
def descM (bs : List Byte) : List Nat := (span 0 4).map (fun e => leAt bs (0x40 + 8 * e) 8)
def allZero (xs : List Nat) : Bool := xs.all (fun x => x == 0)

/-- The limits of R318, for a carriage with `n` v registers. -/
def loopDescOk (bs : List Byte) (n : Nat) : Bool :=
  let nv := leAt bs 0x21 1
  let ns := leAt bs 0x22 1
  let nm := leAt bs 0x23 1
  let iter := leAt bs 0x24 1
  let vs := (descV bs).take nv
  let ss := (descS bs).take ns
  leAt bs 0 8 % 4 == 0 && leAt bs 8 8 % 4 == 0 && leAt bs 0x18 8 % 4 == 0 && leAt bs 0x14 4 == 0 &&
    2 ≤ leAt bs 0x20 1 && leAt bs 0x20 1 ≤ 8 && nv ≤ 8 && ns ≤ 4 && nm ≤ 4 && leAt bs 0x25 3 == 0 &&
    leAt bs 0x3C 4 == 0 && leAt bs 0x60 32 == 0 &&
    vs.all (fun x => x < n) && distinct vs && ss.all (fun x => x != 0 && x != iter) && distinct ss &&
    ((descM bs).take nm).all (fun m => nbits m 0 32 == 0 && m < 2 ^ 56) &&
    allZero ((descV bs).drop nv) && allZero ((descS bs).drop ns) && allZero ((descM bs).drop nm)

/-- The loop of a well-formed descriptor, before its first window. -/
def loopOfDesc (bs : List Byte) (cid : Nat) : Loop :=
  { cid := cid, body := leBits 64 (bs.take 8), gent := leBits 64 ((bs.drop 8).take 8), limit := leAt bs 0x10 4
    exita := leBits 64 ((bs.drop 0x18).take 8), w := leAt bs 0x20 1, vregs := (descV bs).take (leAt bs 0x21 1)
    sregs := (descS bs).take (leAt bs 0x22 1)
    seqs := ((descM bs).take (leAt bs 0x23 1)).map (fun m => (nbits m 52 4, nbits m 32 20))
    iter := leAt bs 0x24 1, i := 0, wNow := 0, serial := false, inGuess := false, guesses := [], carry := [], insts := []
    marks := [] }

/-! ## SPLOOP (21 R346, 20 R319): the descriptor is read with the instruction's ORDER and SCOPE -/

/-- The landing pad of the guess routine, found before any window. -/
def guessPad (s : State) (x : DWord) (l : Loop) (go : State) : State :=
  if l.gent = 0 then go
  else if !fetchUp s l.gent 12 then s
  else match fetchAt s l.gent with
    | .error c => trapAt (noteFetch s c l.gent) .fetchFault l.gent
    | .ok bs => if leAt bs 0 1 = 0x22 then go else takeTrap s { justCause .lpadFault with taddr := x, tinfo := l.gent }

def sploopBody (m : MemAttr) (x : Nat) (s : State) : State :=
  let addr : DWord := BitVec.ofNat 64 x
  let setup := trapAt s .specSetup addr
  let keys := locKeys s .shm 0 x 128
  if s.self.kind == .spawned || x % 128 != 0 || shmSize s s.self.coach < x + 128 then setup
  else if readHeld s (ownRead s .shm m keys) then s
  else if imgBad s keys then trapAt s .poison addr
  else
    let bs := imgBytes s keys
    let s := readDone s (ownRead s .shm m keys)
    let l := loopOfDesc bs s.self.id
    match ownCoach s with
    | none => setup
    | some k =>
      if !loopDescOk bs s.self.nreg || 1 < (coachCores k).length * k.rcd.n || k.rcd.spec < l.w then setup
      else
        guessPad s addr l
          (if l.limit = 0 then setPc s l.exita
           else onSelf { s with loops := s.loops ++ [l] } (fun c => { c with wait := .window }))

def execSploop (i : MemI) (s : State) : Out :=
  .next (if anyBadS s [i.h.a, i.h.b] then trapC s .poison
    else if inRegion s.self then trapC s .divergeIllegal
    else if s.self.spinst ≠ 0 || inLoop s then trapC s .specIllegal
    else sploopBody (attrOf i.t) ((rs s i.h.a).setWidth 32 + (rs s i.h.b).setWidth 32 + memOfs i.t : Word).toNat s)

/-! ## Carried registers (20 R321, R322). A v value is kept by the thread's home index. -/

def sCode (n : Nat) : Nat := 1536 + n
def carried (l : Loop) (code : Nat) : Bool :=
  if code < 1536 then l.vregs.contains code else l.sregs.contains (code - 1536)
/-- The carried values of a carriage as they stand. -/
def carryOf (s : State) (l : Loop) (c : Carriage) : List CarryVal :=
  l.vregs.flatMap (fun r => (liveOf s c).map (fun st =>
      { code := r, idx := homeIdx st.2, val := (rv s st.2 r).setWidth 64, bad := vBad s st.2 r })) ++
    l.sregs.map (fun r => { code := sCode r, idx := 0, val := cget c.s r, bad := c.sPoison.getLsbD r })
def carryFind (vs : List CarryVal) (code idx : Nat) : Option CarryVal := vs.find? (fun v => v.code == code && v.idx == idx)

/-- Set carried registers of a carriage. -/
def setCarry (s : State) (cid : Nat) (vs : List CarryVal) : State :=
  let es := vs.filter (fun v => v.code < 1536)
  let key (v : CarryVal) : Nat := vKey (cid * 128 + v.idx) v.code
  let s := { s with
    v := csetAll s.v (es.map (fun v => (key v, v.val.setWidth 32)))
    vPoison := csetAll s.vPoison (es.map (fun v => (key v, BitVec.ofBool v.bad))) }
  (vs.filter (fun v => 1536 ≤ v.code)).foldl (fun s v => onCar s cid (fun c => { c with
    s := cset c.s (v.code - 1536) v.val, sPoison := setBitTo c.sPoison (v.code - 1536) v.bad })) s
/-- s[ITER] of a carriage; 0 names none. -/
def setIter (s : State) (cid iter n : Nat) : State :=
  if iter = 0 then s
  else onCar s cid (fun c => { c with s := cset c.s iter (BitVec.ofNat 64 n), sPoison := setBitTo c.sPoison iter false })

/-! ## Marks (14 R235, 21 R350) -/

/-- Every append of the coach to a sequence has arrived, and its managing row engine takes the mark. -/
def markReady (s : State) (coach : Nat) (q : Nat × Nat) : Bool :=
  ready s (136 + poolMgr s q.1) && s.ops.all (fun o => match o.kind with
    | .kvapp n sq _ _ _ _ _ _ none => o.coach != coach || n != q.1 || sq != q.2
    | _ => true)
/-- RES as the mark; a FREE sequence has reserved nothing. -/
def markOf (s : State) (q : Nat × Nat) : Nat × Nat × Nat :=
  let e := seqE s q.1 q.2
  (q.1, q.2, if e.opened && seqReach s (poolWorld s q.1) e then e.res else 0)
def addMarks (s : State) (l : Loop) (qs : List (Nat × Nat)) : State :=
  onLoop s l.cid (fun l => { l with marks := qs.foldl (fun ms q =>
    if ms.any (fun m => m.1 == q.1 && m.2.1 == q.2) then ms else ms ++ [markOf s q]) l.marks })

/-! ## The start of a window (20 R321) -/

def newInst (j cid : Nat) : Inst :=
  { j := j, cid := cid, accept := [], produced := [], stop := false, reached := false, appended := [], rejected := false
    committed := false }

/-- Instance 0 goes to the guess routine, or straight to BODY in a window of width 1. -/
def beginWindow (s : State) (l : Loop) (wide : Bool) (w : Nat) : State :=
  let s := onLoop s l.cid (fun l => { l with
    wNow := w, inGuess := wide, guesses := [], carry := carryOf s l (theCar s l.cid), insts := [newInst 0 l.cid] })
  let s := if wide then s else setIter s l.cid l.iter l.i
  onCar s l.cid (fun c => { c with wait := .run, pc := if wide then l.gent else l.body })

def execWindowStart (cid : Nat) (s : State) : Out :=
  .next (match loop? s cid with
    | none => s
    | some l =>
      let c := theCar s cid
      if c.wait ≠ .window || !l.insts.isEmpty || (coach? s c.coach).any (fun k => k.stopped || k.saved) then s
      else
        let w := if l.serial || l.gent = 0 then 1 else min l.w (l.limit - l.i)
        if w = 1 then beginWindow (onLoop s cid (fun l => { l with marks := [] })) l false 1
        else if l.seqs.all (markReady s c.coach) then
          beginWindow (addMarks (onLoop s cid (fun l => { l with marks := [] })) l l.seqs) l true w
        else s)

/-! ## Instances (20 R320, R321) -/

/-- Copy a run of keys to another place. -/
def copyCells {w : Nat} (c : Cells w) (src dst n : Nat) : Cells w :=
  csetAll c ((c.filter (fun e => src ≤ e.1 && e.1 < src + n)).map (fun e => (e.1 - src + dst, e.2)))
/-- The registers and accumulators of a carriage copied to a new number. -/
def copyThreads (s : State) (src dst : Nat) : State :=
  { s with
    v := copyCells s.v (vKey (src * 128) 0) (vKey (dst * 128) 0) (vKey 128 0)
    vPoison := copyCells s.vPoison (vKey (src * 128) 0) (vKey (dst * 128) 0) (vKey 128 0)
    p := copyCells s.p (pKey (src * 128) 0) (pKey (dst * 128) 0) (pKey 128 0)
    live := copyCells s.live (src * 128) (dst * 128) 128
    accSt := copyCells s.accSt (src * 32) (dst * 32) 32
    accData := copyCells s.accData (src * 32 * 16384) (dst * 32 * 16384) (32 * 16384)
    accPoison := copyCells s.accPoison (src * 32 * 16384) (dst * 32 * 16384) (32 * 16384)
    accLen := copyCells s.accLen (src * 32 * 128) (dst * 32 * 128) (32 * 128) }
/-- The slot field of a state word. -/
def withSlot (w : DWord) (slot : Nat) : DWord := (w &&& ~~~(0x3F000000#64)) ||| BitVec.ofNat 64 (slot % 64 * 2 ^ 24)

/-- The spill region of instance j: the carriage's block holds one for each instance, and its own is one of them. -/
def instSpill (s : State) (c : Carriage) (j : Nat) : Nat :=
  let size := widthOf c * c.spillBytes
  let ways := match coach? s c.coach with
    | some k => specWays k.rcd
    | none => 1
  let rs := ((span 0 ways).map (fun i => c.spillBlock + size * i)).filter (fun b => b != c.spillBase)
  (rs[j - 1]?).getD c.spillBlock

/-- Instance j as a copy of the moving carriage: its own carriage slot, accumulator slots and spill region; which of the
free numbers it takes is not given. -/
def formInst (s : State) (l : Loop) (j : Nat) : State :=
  let c0 := s.self
  let n := newId s
  let id := n.1
  let slots := (span 0 (carrSlots s c0.core)).filter (fun x => !(takenSlots s c0.core).contains x)
  let accFree := (span 0 48).filter (fun x => !(accSlotsTaken s (quadOf c0.core)).contains x)
  let accs := reorder (fun i => free s (0x20000 + 64 * j + i)) accFree.length accFree
  let c : Carriage :=
    { c0 with
      id := id, kind := .inst, slot := (slots[free s (0x500 + j) % slots.length]?).getD 0
      slots := c0.slots.map (fun t => if t = 0 then 0 else id * 128 + homeIdx (t - 1) + 1)
      spillBase := instSpill s c0 j, ast := c0.ast &&& 0x60#64, spinst := j, q := [], qClosed := 0xFF, ap := none
      wait := .run, spin := Spin.reset, lead := c0.id, wlog := [], pc := l.body }
  let s := copyThreads { n.2 with rest := n.2.rest ++ [c] } c0.id id
  let s := { s with accSt := csetAll s.accSt ((span 0 c0.accs).map (fun a =>
    (id * 32 + a, withSlot (cget s.accSt (id * 32 + a)) ((accs[a]?).getD 0)))) }
  let vals := l.carry.map (fun v =>
    ((l.guesses.find? (fun g => g.1 == j && g.2.code == v.code && g.2.idx == v.idx)).map (fun g => g.2)).getD v)
  let s := setIter (setCarry s id vals) id l.iter (l.i + j)
  onLoop s l.cid (fun l => { l with insts := l.insts ++ [newInst j id] })

/-- Steps 3 to 5 of R321. -/
def formAll (s : State) (l : Loop) : State :=
  let s := (span 1 (l.wNow - 1)).foldl (fun s j => formInst s l j) s
  let s := setIter (setCarry s l.cid l.carry) l.cid l.iter l.i
  setPc (onLoop s l.cid (fun l => { l with inGuess := false })) l.body

/-! ## GUESS (21 R347) -/

/-- The window whose guess routine the moving carriage runs. -/
def guessing (s : State) : Option Loop :=
  match windowOf s with
  | some l => if l.inGuess && s.self.spinst = 0 then some l else none
  | none => none

def guessGo (s : State) (l : Loop) : State :=
  if inRegion s.self then trapC s .divergeIllegal
  else if passOn s [s.self.id] (span 0 s.self.accs) then s
  else formAll s l

/-- Instance n's guess for register d: a later one replaces it. -/
def guessSet (i : RrrI) (s : State) (l : Loop) : State :=
  let n := field i.mod 0 3
  let d := i.h.d.toNat
  if !carried l d then trapC s .specIllegal
  else if l.wNow ≤ n then nextPc s
  else
    let vals : List CarryVal :=
      if d < 1536 then (liveOf s s.self).map (fun st =>
        { code := d, idx := homeIdx st.2, val := (rv s st.2 i.h.a.toNat).setWidth 64, bad := false })
      else [{ code := d, idx := 0, val := rs s i.h.a, bad := false }]
    nextPc (onLoop s l.cid (fun l => { l with
      guesses := vals.map (fun v => (n, v)) ++
        l.guesses.filter (fun g => !(g.1 == n && g.2.code == d && vals.any (fun v => v.idx == g.2.idx))) }))

def execGuess (i : RrrI) (s : State) : Out :=
  let go := i.mod.getLsbD 3
  if !go && rangeBad s [(i.h.d, 1), (i.h.a, 1)] then .next (trapC s .regRange)
  else scalarOp i.h (if go then [] else [i.h.a]) s (fun s =>
    match guessing s with
    | none => trapC s .specIllegal
    | some l =>
      if go then guessGo s l
      else match (liveOf s s.self).find? (fun st => threadBad s [(i.h.a, 1)] st.2) with
        | some st => trapSlot s .poison st.1 0
        | none => guessSet i s l)

/-! ## ACCEPT (21 R348) -/

def execAccept (i : RrrI) (s : State) : Out :=
  let mode := field i.mod 0 2
  if rangeBad s [(i.h.d, 1)] then .next (trapC s .regRange)
  else scalarOp i.h (if 2 ≤ mode then [i.h.b] else []) s (fun s =>
    match windowOf s with
    | none => trapC s .specIllegal
    | some l =>
      let d := i.h.d.toNat
      if !carried l d then trapC s .specIllegal
      else
        let decl := (d, mode, field i.mod 2 8, if 2 ≤ mode then rs s i.h.b else 0)
        nextPc (onInst s l.cid s.self.spinst (fun x => { x with accept := decl :: x.accept.filter (fun a => a.1 != d) })))

/-! ## Comparison (20 R322) -/

/-- ord(x) for a float of `w` bits. -/
def ordF (w x : Nat) : Int := sgn (bitN x (w - 1)) (x % 2 ^ (w - 1))

/-- Produced c against guess g, each of `w` bits. -/
def compareOne (w mode ulp c g par : Nat) : Bool :=
  let F := if w = 32 then fmtF32 else fmtF64
  let x := decodeF F c
  let y := decodeF F g
  let t := decodeF F (par % 2 ^ w)
  match mode with
  | 0 => c == g
  | 1 => !x.isNan && !y.isNan && (ordF w c - ordF w g).natAbs ≤ ulp
  | 2 =>
    !x.isNan && !y.isNan && !t.isNan && !(t.neg? && !t.isZero) &&
      (if x.isInf || y.isInf then c == g else cmpV (distV x y) t ≤ 0)
  | _ => (c ^^^ g) &&& par % 2 ^ w == 0

/-- The value instance j began with. -/
def beganWith (l : Loop) (j code idx : Nat) : Option CarryVal :=
  match l.guesses.find? (fun g => g.1 == j && g.2.code == code && g.2.idx == idx) with
  | some g => some g.2
  | none => carryFind l.carry code idx

/-- The compare of an instance's produced carry with the next one's guess. A poisoned value compares false. -/
def compareHolds (l : Loop) (j : Nat) (accept : List (Nat × Nat × Nat × DWord)) (produced : List CarryVal) : Bool :=
  produced.all (fun p =>
    let a := (accept.find? (fun a => a.1 == p.code)).getD (p.code, 0, 0, 0)
    match beganWith l (j + 1) p.code p.idx with
    | none => false
    | some g => !p.bad && !g.bad &&
        compareOne (if p.code < 1536 then 32 else 64) a.2.1 a.2.2.1 p.val.toNat g.val.toNat a.2.2.2.toNat)

/-! ## SPEND (21 R349, 20 R323) -/

def spendBody (s : State) (l : Loop) (dest : Nat) (stop : Bool) : State :=
  let j := s.self.spinst
  let vals := carryOf s l s.self
  let s := onInst s l.cid j (fun x => { x with produced := vals, stop := stop, reached := true })
  let s := onSelf s (fun c => { c with wait := .spend stop dest })
  match instOf l j with
  | some x => if compareHolds l j x.accept vals then s else rejectFrom s l.cid (j + 1)
  | none => s

def execSpend (i : RrrI) (s : State) : Out :=
  let d := sNum i.h.d
  .next (match windowOf s with
    | none => trapC s .specIllegal
    | some l =>
      if inRegion s.self then trapC s .divergeIllegal
      else if l.inGuess || l.sregs.contains d || (d = l.iter && d ≠ 0) then trapC s .specIllegal
      else spendBody s l d (i.mod.getLsbD 0 && rk s i.t.c.toNat))

/-! ## SPMARK and SPQUIT (21 R350, R351) -/

def execSpmark (i : RrrI) (s : State) : Out :=
  scalarOp i.h [i.h.a] s (fun s =>
    let q := (field (rs s i.h.a) 52 4, field (rs s i.h.a) 32 20)
    match guessing s with
    | none => trapC s .specIllegal
    | some l =>
      if markedIn l q.1 q.2 then nextPc s
      else if 4 ≤ l.marks.length then trapC s .specIllegal
      else if markReady s s.self.coach q then nextPc (addMarks s l [q])
      else s)

def execSpquit (i : RrrI) (s : State) : Out :=
  scalarOp i.h [] s (fun s =>
    match windowOf s with
    | none => trapC s .specIllegal
    | some l =>
      if s.self.spinst ≠ 0 then poisonInstance s
      else if l.serial then nextPc s
      else nextPc (onLoop (rejectAbove s) l.cid (fun l => { l with serial := true })))

/-! ## Commit (20 R323, 12 R210) -/

/-- A line an operation owns that is none of the instance's own. -/
def ownedByOthers (s : State) (cid line : Nat) : Bool :=
  s.ops.any (fun o => !o.homes.contains cid && holdsLine o line && (o.shared.contains line || o.excl.contains line))
/-- An append of the instance that may still reserve: one that failed before it never will (20 R323). -/
def appendPending (s : State) (x : Inst) (a : Nat × Nat × Nat) : Bool :=
  a.2.2 == 0 && s.ops.any (fun o => o.homes.contains x.cid && (match o.kind with
    | .kvapp n q _ _ _ _ _ _ none => n == a.1 && q == a.2.1
    | _ => false))
/-- The log of an instance is applied as a release of the loop's carriage: nothing of the lower instances, nor of its own
local accesses, is still to be performed, and no line it meets is owned (12 R210). -/
def logReady (s : State) (l : Loop) (x : Inst) : Bool :=
  let lower := (l.insts.filter (fun y => y.j < x.j)).map (fun y => y.cid)
  (keyLines ((theCar s x.cid).wlog.flatMap (fun e => e.cells.map (fun c => c.1)))).all (fun l => !ownedByOthers s x.cid l) &&
    !waiting s (x.cid :: lower) && !unseen s (x.cid :: lower) 3 && s.ops.all (fun o => !lower.contains o.cid || !opOpen o)
/-- The instance may commit: it has reached SPEND, its appends have arrived, and its log may be applied. -/
def canCommit (s : State) (l : Loop) (x : Inst) : Bool :=
  x.reached && !x.appended.any (appendPending s x) && (x.j == 0 || logReady s l x)
/-- The held operations of an instance follow those of the lower instances in order: they take new numbers. -/
def releaseHeld (s : State) (cid : Nat) : State :=
  (s.ops.filter (fun o => o.homes.contains cid && o.stage == .held)).foldl (fun s o =>
    let n := newId s
    let s := renumber n.2 o.id n.1
    { s with ops := s.ops.filter (fun x => x.id != o.id) ++ [{ o with id := n.1, stage := .issued }] }) s

/-- Apply the log, release held operations, publish appends. -/
def commitInst (s : State) (l : Loop) (coach : Nat) (x : Inst) : State :=
  let s := onInst s l.cid x.j (fun x => { x with committed := true })
  if x.j = 0 then commitAppends s coach 0
  else
    let log := (theCar s x.cid).wlog
    let s := log.foldl (fun s e =>
      storeBytes (catchUp s l.cid (e.cells.map (fun c => c.1))) (e.cells.map (fun c => c.1)) (e.cells.map (fun c => c.2)) e.bad) s
    let s := onCar s x.cid (fun c => { c with wlog := [] })
    let s := releaseHeld s x.cid
    let s := commitAppends s coach x.j
    { s with ops := s.ops.map (fun o => if o.homes.contains x.cid then { o with inst := 0 } else o) }

/-! ## The end of a window (20 R324, 14 R235) -/

/-- Positions appended to a marked sequence by instance 0 and by the committed instances. -/
def keptPositions (l : Loop) (q : Nat × Nat) : Nat :=
  sumNat ((l.insts.filter (fun x => x.j == 0 || x.committed)).flatMap (fun x =>
    (x.appended.filter (fun a => a.1 == q.1 && a.2.1 == q.2)).map (fun a => a.2.2 - 1)))
def rollbackMarks (s : State) (l : Loop) (world : Bool) : State :=
  l.marks.foldl (fun s m =>
    if poolOk s m.1 world then rollback s m.1 m.2.1 m.2.2 (keptPositions l (m.1, m.2.1)) else s) s

/-- The OR of the tile flags of names over carriages, into one of them. -/
def orAccFlags (s : State) (ids : List Nat) (stay accs : Nat) : State :=
  { s with accSt := csetAll s.accSt ((span 0 accs).map (fun a =>
    (stay * 32 + a, ids.foldl (fun x id => x ||| (cget s.accSt (id * 32 + a) &&& 0x1F0000#64)) (cget s.accSt (stay * 32 + a))))) }

/-- Outstanding work of removed carriages belongs stay the one that goes on. -/
def remapHomes (s : State) (gone : List Nat) (stay : Nat) : State :=
  let f (hs : List Nat) : List Nat := nubNat (hs.map (fun h => if gone.contains h then stay else h))
  { s with
    ops := s.ops.map (fun o => { o with homes := f o.homes, cid := if gone.contains o.cid then stay else o.cid })
    loads := s.loads.map (fun x => { x with homes := f x.homes })
    stores := s.stores.map (fun x => { x with homes := f x.homes })
    waits := s.waits.map (fun x => { x with homes := f x.homes, cid := if gone.contains x.cid then stay else x.cid })
    stale := s.stale.map (fun x => { x with before := f x.before, cid := if gone.contains x.cid then stay else x.cid })
    syncs := s.syncs.map (fun x => { x with cid := if gone.contains x.cid then stay else x.cid }) }

/-- The surviving instance becomes the loop's carriage. -/
def surviveAs (s : State) (l : Loop) (ids : List Nat) (stay count dest : Nat) : State :=
  let old := theCar s l.cid
  let flags := (ids.map (fun id => (theCar s id).ast &&& 0x1F#64)).foldl (fun x y => x ||| y) 0
  let s := orAccFlags s ids stay old.accs
  let gone := ids.filter (fun id => id != stay)
  let s := remapHomes s gone stay
  let s := { s with
    self := if gone.contains s.self.id then Carriage.none else s.self
    rest := s.rest.filter (fun c => !gone.contains c.id) }
  onCar s stay (fun c => { c with
    kind := .home, spinst := 0, ast := c.ast ||| flags, q := old.q, qClosed := old.qClosed, ap := old.ap, age := old.age
    lead := old.lead
    s := if dest = 0 then c.s else cset c.s dest (BitVec.ofNat 64 count)
    sPoison := if dest = 0 then c.sPoison else setBitTo c.sPoison dest false })

/-- The committed instances have no pass under way. -/
def passesDone (s : State) (ids : List Nat) : Bool := s.passes.all (fun p => !p.homes.any ids.contains)

/-- Every instance has committed or been rejected: on to the next window, or to EXITA. -/
def finishWindow (s : State) (l : Loop) (xs : List Inst) (last : Inst) : State :=
  let ids := xs.map (fun x => x.cid)
  let n := xs.length
  let dest := match (theCar s last.cid).wait with
    | .spend _ d => d
    | _ => 0
  let s := if l.insts.any (fun x => x.rejected) then rollbackMarks s l (theCar s l.cid).world else s
  let s := surviveAs s l ids last.cid n dest
  if last.stop || l.limit ≤ l.i + n then
    onCar { s with loops := s.loops.filter (fun x => x.cid != l.cid) } last.cid (fun c => { c with wait := .run, pc := l.exita })
  else
    onCar (onLoop s l.cid (fun l => { l with
      cid := last.cid, i := l.i + n, wNow := 0, inGuess := false, guesses := [], carry := [], insts := [], marks := [] }))
      last.cid (fun c => { c with wait := .window })

/-- Instance 0's threads have all exited: its appends alone count, and the loop is over (20 R325). -/
def exitWindow (s : State) (l : Loop) : State :=
  let s := rejectFrom s l.cid 1
  let s := commitAppends (rollbackMarks s l (theCar s l.cid).world) (theCar s l.cid).coach 0
  { s with loops := s.loops.filter (fun x => x.cid != l.cid) }

/-- The next instance commits, or, when none can any more, the window ends. -/
def execWindowEnd (cid : Nat) (s : State) : Out :=
  .next (match loop? s cid with
    | none => s
    | some l =>
      let coach := (theCar s cid).coach
      let kept := l.insts.filter (fun x => x.committed)
      let exited := (cars s).all (fun c => c.coach != coach || c.spinst != 0 || (liveOf s c).isEmpty) &&
        !(l.insts.any (fun x => x.j == 0 && x.reached))
      if l.insts.isEmpty then s
      else if exited then
        (if l.insts.all (fun x => x.j != 0 || !x.appended.any (appendPending s x)) then exitWindow s l else s)
      else if l.inGuess then s
      else match l.insts.find? (fun x => !x.committed && !x.rejected && !kept.any (fun y => y.stop)) with
        | some x => if canCommit s l x then commitInst s l coach x else s
        | none =>
          match kept.reverse with
          | [] => s
          | last :: _ =>
            let s := rejectFrom s cid kept.length
            match loop? s cid with
            | none => s
            | some l => if passesDone s (kept.map (fun x => x.cid)) then finishWindow s l kept last else s)

end Sys2Proof.Machine
end

