-- ==== Sys2Proof/Machine/System.lean ====
section
/-! DEFINITION. The system register space, SYSRD, SYSWR, ERET, MONC, TLBI and HALTC (25 R388-R395, 19 R305-R308, 22 R354,
R361, 23 R371, R372, R377, R378). -/
namespace Sys2Proof.Machine

/-! ## Which register an address names (25 R389) -/

inductive RegRef where
  | trap (i : Nat)
  | core (k o : Nat)
  | pkg (off : Nat)
  | pool (n off : Nat)
  | world (off : Nat)
  | queue (q off : Nat)
  | iso (off : Nat)
  | dbg (k : Nat)
  deriving DecidableEq, Repr

/-- Offsets within a core block. -/
def coreOffOk (o : Nat) : Bool :=
  o == 0x400 || o == 0x408 || o == 0x410 || (0x40 ≤ o && o < 0x400 && o % 0x40 ≤ 0x20)
/-- Offsets within the isolation block. -/
def isoOffOk (o : Nat) : Bool :=
  o ≤ 0x18 || (0x1000 ≤ o && o < 0x2000) || (0x4000 ≤ o && o < 0x5300)

/-- The register of an address that is a multiple of 8; none where the table assigns nothing. -/
def regRef (x : Nat) : Option RegRef :=
  let off := x % 2 ^ 24
  match x / 2 ^ 24 % 256 with
  | 0 => if off < 0x30 then some (.trap (off / 8)) else none
  | 1 => if off < 128 * 2 ^ 16 && coreOffOk (off % 2 ^ 16) then some (.core (off / 2 ^ 16) (off % 2 ^ 16)) else none
  | 2 => if off ≤ 0x20 || (0x100 ≤ off && off < 0x100 + 16 * 162) then some (.pkg off) else none
  | 3 => if off < 0x1000 && off % 0x100 ≤ 0x48 then some (.pool (off / 0x100) (off % 0x100)) else none
  | 4 =>
    if off ≤ 8 || (0x2000 ≤ off && off ≤ 0x2018) then some (.world off)
    else if 0x1000 ≤ off && off < 0x2000 && off % 0x40 ≤ 0x20 then some (.queue ((off - 0x1000) / 0x40) (off % 0x40))
    else none
  | 5 => if isoOffOk off then some (.iso off) else none
  | 6 => if off < 8 * 128 then some (.dbg (off / 8)) else none
  | _ => none

/-- Who reaches for a register. -/
inductive Who where
  | user | handler | host
  deriving DecidableEq, Repr

/-- The accessor: itself, its world, the core of a carriage. -/
structure Accessor where
  who : Who
  world : Bool
  core : Nat
  deriving DecidableEq, Repr

/-- The columns of R389. -/
def mayReach (s : State) (a : Accessor) (write : Bool) (r : RegRef) : Bool :=
  match a.who, r with
  | .user, .core k o => k == a.core && (!write || (o < 0x400 && o % 0x40 == 0x18))
  | .user, .pkg off => !write && off < 0x20
  | .user, _ => false
  | .handler, .trap _ => true
  | .host, .trap _ => false
  | .handler, .core k _ => k == a.core
  | .host, .core _ _ => true
  | _, .pkg _ => true
  | _, .pool n _ => !poolEn s n || poolWorld s n == a.world
  | _, .world _ => true
  | _, .queue _ _ => true
  | _, .iso _ => a.world && !write
  | _, .dbg _ => true

/-! ## Reading -/

/-- Slots of halted carriages, quiet, passes idle (23 R378). -/
def carsOn (s : State) (core : Nat) : List Carriage := (cars s).filter (fun c => c.core == core && holdsSlot c)
/-- A line of shared memory that lies in a core's local store (11 R189). -/
def lineOnCore (s : State) (core line : Nat) : Bool :=
  let key := 128 * line
  key / 2 ^ 48 % 8 == spaceTag .shm &&
    (match coach? s (key / 2 ^ 51) with
     | some k => (coachCores k)[key % 2 ^ 48 / max 1 (carveBytes k.rcd.carve)]? == some core
     | none => false)
def dbgStat (s : State) (core : Nat) : DWord :=
  let halted := (carsOn s core).filter (fun c => c.halted)
  let idle := s.passes.all (fun p => !halted.any (fun c => p.cid == c.id || p.homes.contains c.id))
  let quiet := s.ops.all (fun o => !(o.shared ++ o.excl).any (fun l => holdsLine o l && lineOnCore s core l))
  BitVec.ofNat 64 (sumNat ((nubNat (halted.map (fun c => c.slot))).map (fun n => 2 ^ (n % 16))) + b2n quiet * 2 ^ 16 +
    b2n idle * 2 ^ 17)

/-- The launches of a queue that still have coaches to place, oldest first; the head launch comes first. -/
def headLaunch (s : State) (world : Bool) (q : Nat) : Option Launch :=
  (sortBy (fun a b => a.id ≤ b.id) (s.launches.filter (fun l =>
    field l.lid 56 8 == q && l.rcd.world == world && unplaced l))).head?
/-- A tile core is not ready or belongs to the other world (17 R286). -/
def unplaceable (s : State) (l : Launch) : Bool :=
  let xy := tileXY l.rcd l.nextCoach
  (tileCores l.rcd.a l.rcd.b xy.1 xy.2).any (fun c => !ready s c || coreWorld s c != l.rcd.world)
/-- The head record waits on a dependence. -/
def depWaits (s : State) (world : Bool) (q : Nat) : Bool :=
  match headHeld s world q with
  | none => false
  | some h => h.head && recOk h.bytes world && h.since.isNone
/-- QSTAT (19 R307). -/
def qStat (s : State) (world : Bool) (q : Nat) : DWord :=
  let base := (rq s world q 0x20).toNat
  let head := headLaunch s world q
  let ix := match head with
    | some l => l.nextCoach % 2 ^ 24
    | none => 0
  BitVec.ofNat 64 (base + ix * 2 ^ 24 + b2n (head.any (unplaceable s)) * 2 + b2n (depWaits s world q))

/-- The trap record's registers in order (23 R369). -/
def trapReg (t : TrapRec) (i : Nat) : DWord :=
  match i with
  | 0 => t.cause
  | 1 => t.tpc
  | 2 => t.tres
  | 3 => t.taddr
  | 4 => t.tinfo
  | _ => t.ttok

/-- The value of a register; `c` is the issuing carriage. -/
def readReg (s : State) (c : Carriage) (world : Bool) (r : RegRef) : DWord :=
  match r with
  | .trap i => trapReg c.trap i
  | .core k o => if o = 0x408 then rsys s 0 1 (rkDropReg (quadOf k)) else rcore s k o
  | .pkg off => rsys s 0 2 off
  | .pool n off => poolReg s n off
  | .world off => rsys s (wIdx world) 4 off
  | .queue q off => if off = 0x20 then qStat s world q else rq s world q off
  | .iso off => rsys s 0 5 off
  | .dbg k => dbgStat s k
/-- Reading ERRADDR frees it (24 R384). -/
def afterRead (s : State) (r : RegRef) : State :=
  match r with
  | .pkg off => if 0x100 ≤ off && off % 16 = 8 then { s with unread := cset s.unread ((off - 0x100) / 16) 0 } else s
  | _ => s

/-! ## Writing -/

/-- QTAIL: a tail below the head is ignored and reads as the head (19 R317). -/
def writeTail (s : State) (world : Bool) (q : Nat) (x : DWord) : State :=
  qCheck (holdRecords (wq s world q 0x18 (BitVec.ofNat 64 (max (field x 0 48) (qHead s world q)))) world q) world q
/-- Clearing STOP: a malformed head record is discarded (19 R308). -/
def clearStop (s : State) (world : Bool) (q : Nat) : State :=
  if !qStopped s world q then s
  else
    let bad := field (rq s world q 0x20) 48 8 == (causeCode .launchRecord).toNat
    let s1 := wq s world q 0x20 0
    let s2 := if bad then holdRecords (wq s1 world q 0x10 (BitVec.ofNat 64 ((qHead s world q + 1) % 2 ^ 48))) world q else s1
    qCheck s2 world q
/-- Where the records of a queue lie may have changed: what is not taken yet stands at its place now. -/
def moveRecords (s : State) (world : Bool) (q : Nat) : State :=
  holdRecords { s with records := s.records.filter (fun h => h.world != world || h.queue != q || h.head) } world q
/-- QBASE and QSZ keep their values while EN is 1 (19 R305). -/
def writeQueue (s : State) (world : Bool) (q off : Nat) (x : DWord) : State :=
  if off = 0 then (if qEn s world q then s else moveRecords (wq s world q 0 x) world q)
  else if off = 8 then
    let old := rq s world q 8
    let new : DWord := if qEn s world q then (x &&& 0x1F01#64) ||| (old &&& 0xF8#64) else x &&& 0x1FF9#64
    let s1 := wq s world q 8 new
    qCheck (if qSz s1 world q = qSz s world q then s1 else moveRecords s1 world q) world q
  else if off = 0x18 then writeTail s world q x
  else if off = 0x20 then (if x.getLsbD 63 then clearStop s world q else s)
  else s

/-! ### Pre-emption requests (23 R372) -/

def prsBusy : DWord := 0x1000000000000000#64
def setPrs (s : State) (world : Bool) (x : DWord) : State := wsys s (wIdx world) 4 0x2008 x
def prsState (s : State) (world : Bool) : Nat := field (rsys s (wIdx world) 4 0x2008) 60 4
/-- PRS reads FAULT with a cause. -/
def prsFault (s : State) (world : Bool) (c : Cause) : State :=
  setPrs s world (BitVec.ofNat 64 (5 * 2 ^ 60 + (causeCode c).toNat * 2 ^ 40))
/-- The unfinished coach that a launch identifier and an index name, of a world. -/
def coachNamed (s : State) (world : Bool) (lid : DWord) (index : Nat) : Option Coach :=
  match s.launches.find? (fun l => l.lid == lid && l.rcd.world == world) with
  | none => none
  | some l => s.coaches.find? (fun k => k.launch == l.id && !k.spawn && k.index == index)
/-- A request starts: PRS reads busy. One that names no such coach ends in FAULT. -/
def startPreempt (s : State) (world : Bool) (x : DWord) : State :=
  let base := (rsys s (wIdx world) 4 0x2018).toNat
  let us := field x 8 32
  let add (s : State) (restore : Bool) (coach : Nat) : State :=
    setPrs { s with preempt := s.preempt.filter (fun p => p.world != world) ++
      [{ world := world, restore := restore, coach := coach, limit := if us = 0 then 0 else s.ns + 1000 * us, base := base }] }
      world prsBusy
  if x.getLsbD 1 then add s true 0
  else match coachNamed s world (rsys s (wIdx world) 4 0x2010) (field x 40 24) with
    | some k => if k.saved then prsFault s world .notarget else add s false k.id
    | none => prsFault s world .notarget
/-- A write of PRQ: GO starts the request unless PRS reads busy. -/
def writePrq (s : State) (world : Bool) (x : DWord) : State :=
  let x := x &&& 0xFFFFFFFFFFFFFF03#64
  if x.getLsbD 0 && prsState s world = 1 then s
  else
    let s := wsys s (wIdx world) 4 0x2000 x
    if x.getLsbD 0 then startPreempt s world x else s

/-- A core block: RBASE, RSIZE, RCONS and SPNTMR are RW. -/
def writeCore (s : State) (k o : Nat) (x : DWord) : State :=
  let r := o % 0x40
  if o = 0x400 ∨ (o < 0x400 ∧ (r = 0 ∨ r = 8 ∨ r = 0x18)) then wcore s k o x else s
/-- ERRSTAT is W1C; the host also clears UNCLOG, the persistent log, by writing it. -/
def writePkg (s : State) (a : Accessor) (off : Nat) (x : DWord) : State :=
  if 0x100 ≤ off && off % 16 = 0 then wsys s 0 2 off (rsys s 0 2 off &&& ~~~(x &&& 0xFFFFFFFFFFFF#64))
  else if off = 0x20 && a.who == .host then wsys s 0 2 off x
  else s
def writeReg (s : State) (a : Accessor) (r : RegRef) (x : DWord) : State :=
  match r with
  | .trap i => if i = 2 then onSelf s (fun c => { c with trap := { c.trap with tres := x } }) else s
  | .core k o => writeCore s k o x
  | .pkg off => writePkg s a off x
  | .pool n off => writePool s n off x
  | .world off =>
    if off = 0x2000 then writePrq s a.world x
    else if off = 0 ∨ off = 0x2010 ∨ off = 0x2018 then wsys s (wIdx a.world) 4 off x
    else s
  | .queue q off => writeQueue s a.world q off x
  | .iso _ => s
  | .dbg _ => s

/-! ## SYSRD and SYSWR (25 R389, R390) -/

def selfAccessor (s : State) : Accessor :=
  { who := if s.self.handler then .handler else .user, world := s.self.world, core := s.self.core }
def sysAddr (s : State) (i : RriI) : Nat := ((rs s i.h.a).setWidth 32 + i.imm : Word).toNat

/-- The checks both share; earlier accesses are performed first, as by a FENCE.SC at PKG. -/
def sysAccess (i : RriI) (write : Bool) (srcs : List OpField) (s : State) (body : RegRef → State → State) : Out :=
  scalarOp i.h srcs s (fun s =>
    let x := sysAddr s i
    if x % 8 ≠ 0 then trapAt s .addrAlign (BitVec.ofNat 64 x)
    else match regRef x with
      | none => trapAt s .illegalOperand (BitVec.ofNat 64 x)
      | some r =>
        if !mayReach s (selfAccessor s) write r then trapC s .privilege
        else if anyOpen s 5 then s
        else nextPc (body r s))

def execSysrd (i : RriI) (s : State) : Out :=
  sysAccess i false [i.h.a] s (fun r s => afterRead (ws s i.h.d (readReg s s.self s.self.world r)) r)
def execSyswr (i : RriI) (s : State) : Out :=
  sysAccess i true [i.h.a, i.h.b] s (fun r s => writeReg s (selfAccessor s) r (rs s i.h.b))

/-! ## ERET (25 R391) -/

def execEret (_ : RrrI) (s : State) : Out := .next (returnFromTrap s)

/-- A privileged instruction outside handler mode raises PRIVILEGE. -/
def privOp (h : Head) (srcs : List OpField) (s : State) (body : State → State) : Out :=
  scalarOp h srcs s (fun s => if s.self.handler then body s else trapC s .privilege)

/-! ## MONC (25 R392) and what the monitor changes (22 R353-R355) -/

/-- Nothing of a quad's cores is at work: no coach, no carriage, no operation, no bin (22 R354). -/
def quadIdle (s : State) (quad : Nat) : Bool :=
  let cs := quadCores quad
  cs.all (fun c => (resident s c).isEmpty && (spawnedOn s c).isEmpty) && s.ops.all (fun o => !cs.contains o.core) &&
    s.bins.all (fun b => !cs.contains b.core)
/-- What no carriage, coach or window holds any more is zeroed: registers, accumulators, local stores, tile memory. -/
def zeroUnheld (s : State) : State :=
  let held (cid : Nat) : Bool := (cars s).any (fun c => c.id == cid)
  let heldKey (k : Nat) : Bool :=
    if k / 2 ^ 48 % 8 = spaceTag .shm then s.coaches.any (fun c => c.id == k / 2 ^ 51)
    else if k / 2 ^ 48 % 8 = spaceTag .tile then s.windows.any (fun w => w.gen == k / 2 ^ 51 / 32)
    else true
  { s with
    v := s.v.filter (fun e => held (e.1 / 2 ^ 18)), vPoison := s.vPoison.filter (fun e => held (e.1 / 2 ^ 18))
    p := s.p.filter (fun e => held (e.1 / 2 ^ 11)), live := s.live.filter (fun e => held (e.1 / 2 ^ 7))
    accSt := s.accSt.filter (fun e => held (e.1 / 2 ^ 5)), accData := s.accData.filter (fun e => held (e.1 / 2 ^ 19))
    accPoison := s.accPoison.filter (fun e => held (e.1 / 2 ^ 19)), accLen := s.accLen.filter (fun e => held (e.1 / 2 ^ 12))
    mem := s.mem.filter (fun e => heldKey e.1), mPoison := s.mPoison.filter (fun e => heldKey (8 * e.1)) }
/-- A quad's world changes. Its storage is zeroed first, its engines' translations with it; no coach, carriage or
operation stands there, so its operand caches, engine caches and access-processor contexts hold nothing. -/
def setQuadWorld (s : State) (quad : Nat) (w : Bool) : State :=
  let s := zeroUnheld { s with
    tlb := s.tlb.filter (fun e => !(e.engine < 128 && quadOf e.engine == quad)), windows := s.windows.filter (fun x => x.quad != quad) }
  wsys s 0 5 0 (setBitTo (rsys s 0 5 0) quad w)

/-- Bytes of a die's scratchpad that change world between two values of SCS. -/
def scsRange (s : State) (die new : Nat) : Nat × Nat :=
  (min (scsBytes s die) (new * 2 ^ 24), max (scsBytes s die) (new * 2 ^ 24))
/-- A key lies in bytes of a die's scratchpad. -/
def inScr (die lo hi key : Nat) : Bool :=
  key / 2 ^ 48 % 8 == spaceTag .scr && key / 2 ^ 51 == die && lo ≤ key % 2 ^ 48 && key % 2 ^ 48 < hi
/-- The scratchpad bytes of an operation's ranges, a ROUTE's capacity counters among them, with their die. -/
def opScr (o : EngOp) : List (Nat × Nat × Nat) :=
  let rs : List Range := match o.kind with
    | .copy src dst => src ++ dst
    | .copyT _ _ _ _ _ _ loc => [loc]
    | _ => []
  (rs.filter (fun r => 2 ≤ r.1)).map (fun r => (codeDie (engOf o) r.1, r.2.1, r.2.2)) ++
    (match o.kind with
     | .route d _ => if d.expert then [] else [(counterDie d, d.ctrs.toNat, 4 * d.e)]
     | _ => [])
/-- The scratchpad bytes of the configured rings of a die. -/
def ringScr (s : State) (die : Nat) : List (Nat × Nat) :=
  ((span 0 128).filter (fun c => dieOf c == die)).flatMap (fun c => (span 1 15).filterMap (fun i =>
    match ringSize s c i with
    | some z =>
      let k := ringKey s c i 0
      if k / 2 ^ 48 % 8 = spaceTag .scr then some (k % 2 ^ 48, 16 * 2 ^ z) else none
    | none => none))
/-- An owned line, an operation's range, a waiting access, a spill region or a configured ring stands in the bytes that
change world. -/
def scsBusy (s : State) (die new : Nat) : Bool :=
  let r := scsRange s die new
  let meets (a n : Nat) : Bool := a < r.2 && r.1 < a + n
  s.ops.any (fun o => (o.shared ++ o.excl).any (fun l => holdsLine o l && inScr die r.1 r.2 (128 * l)) ||
    (opScr o).any (fun x => x.1 == die && meets x.2.1 x.2.2)) ||
    s.waits.any (fun w => w.keys.any (inScr die r.1 r.2)) || s.stale.any (fun x => x.old.any (fun e => inScr die r.1 r.2 e.1)) ||
    (spillTaken s die).any (fun t => meets t.1 t.2) || (ringScr s die).any (fun t => meets t.1 t.2)
/-- A combining entry in use changes world (22 R353, R354). -/
def ctsBusy (s : State) (new : Nat) : Bool := s.combs.any (fun e => e.key.world != (e.place < 256 * new))
def zeroRange (s : State) (key n : Nat) : State :=
  { s with mem := cclear s.mem key (key + n), mPoison := cclear s.mPoison (key / 8) ((key + n) / 8) }
def setSplit (s : State) (cts s0 s1 : Nat) : State :=
  let r0 := scsRange s 0 s0
  let r1 := scsRange s 1 s1
  let s := zeroRange (zeroRange s (memKey .scr 0 r0.1) (r0.2 - r0.1)) (memKey .scr 1 r1.1) (r1.2 - r1.1)
  wsys s 0 5 0x018 (BitVec.ofNat 64 (cts + s0 * 2 ^ 4 + s1 * 2 ^ 12))

def mrgnMask : DWord := 0xC00FFFFF000FFFFF#64
def setMrgn (s : State) (stack i : Nat) (x : DWord) : State := wsys s 0 5 (0x1000 + 0x200 * stack + 8 * i) (x &&& mrgnMask)

/-- The monitor's reply: status 0 OK, 1 DENIED, 2 BUSY, 3 BADARG, 4 UNKNOWN. -/
def moncRun (s : State) (fn : Nat) (a : DWord) : DWord × State :=
  if fn = 0 then (Config.monitorVersion.setWidth 64 <<< 32, s)
  else if 4 < fn then (4, s)
  else if !Config.monitorGrants fn a then (1, s)
  else if fn = 1 then
    (if quadIdle s (field a 0 5) then (0, setQuadWorld s (field a 0 5) (a.getLsbD 8)) else (2, s))
  else if fn = 2 then
    let s0 := field a 4 8
    let s1 := field a 12 8
    if 24 < s0 ∨ 24 < s1 then (3, s)
    else if scsBusy s 0 s0 || scsBusy s 1 s1 || ctsBusy s (field a 0 4) then (2, s)
    else (0, setSplit s (field a 0 4) s0 s1)
  else if fn = 3 then
    let x := a.toNat
    if x % 16 ≠ 0 ∨ shmSize s s.self.coach < x + 16 then (3, s)
    else
      let bs := imgBytes s (locKeys s .shm 0 x 16)
      let w := leBits 64 (bs.take 8)
      -- a region write of the N world is discarded (22 R355)
      (0, if s.self.world then setMrgn s (field w 0 3) (field w 8 6) (leBits 64 (bs.drop 8)) else s)
  else (0, wsys s (wIdx s.self.world) 4 8 a)

/-- Calls are served one at a time once the monitor is ready. -/
def execMonc (i : RriI) (s : State) : Out :=
  privOp i.h [i.h.a] s (fun s =>
    let fn := field i.imm 0 16
    let x := (rs s i.h.a).toNat
    if anyOpen s 5 || !ready s 160 then s
    else if fn = 3 && x % 16 = 0 && x + 16 ≤ shmSize s s.self.coach && imgBlocked s (locKeys s .shm 0 x 16) then s
    else
      let r := moncRun s fn (rs s i.h.a)
      nextPc (ws r.2 i.h.d r.1))

/-! ## TLBI (25 R393, 22 R361) -/

/-- The entries a TLBI of a kind removes: on this package, with FAB on every one. -/
def tlbiHits (fab : Bool) (kind : Nat) (world : Bool) (space : BitVec 16) (va : DWord) (e : TlbEntry) : Bool :=
  (fab || e.pkg == Config.ownPackage) && e.world == world &&
    (match kind with
     | 0 => e.space == space && e.page == field va 0 48 / 2 ^ e.bits
     | 1 => e.space == space
     | _ => true)
/-- A range of virtual addresses meets the largest page that may cover the address: what used an entry need not have it in
the cache any more. -/
def meetsPage (va : DWord) (r : Nat × Nat) : Bool := rangesMeet [r] [(field va 30 18 * 2 ^ 30, 2 ^ 30)]
/-- Operations and parts of carts that may have translated with an old entry and are not finished. Carts, collectives and
sequencers do not say their pages: they count for every page. -/
def tlbiUsers (s : State) (fab : Bool) (kind : Nat) (world : Bool) (space : BitVec 16) (va : DWord) : List Nat :=
  let ofSpace (w : Bool) (sp : BitVec 16) : Bool := w == world && (kind == 2 || sp == space)
  (s.ops.filter (fun o => ofSpace o.world o.space && (o.stage == .issued || o.stage == .ready) && (match o.kind with
    | .armed _ => false
    | .launchAt _ _ => false
    | .launch _ => false
    | .launched _ => false
    | .ctrs _ _ _ => false
    | .edrn _ _ _ => false
    | .cart _ => true
    | .coll _ _ => true
    | _ => kind != 0 || (globReads o ++ globWrites o).any (meetsPage va)))).map (fun o => o.id) ++
    (s.parts.filter (fun p => (fab || p.pkg == Config.ownPackage) && ofSpace p.head.world p.head.space)).map (fun p => p.id)
def tlbRemove (s : State) (fab : Bool) (kind : Nat) (world : Bool) (space : BitVec 16) (va : DWord) : State :=
  { s with tlb := s.tlb.filter (fun e => !tlbiHits fab kind world space va e) }

/-- What its kind reads: an address and a space, a space, or nothing. -/
def tlbiSrcs (i : RrrI) : List OpField :=
  if field i.mod 0 3 = 0 then [i.h.a, i.h.b] else if field i.mod 0 3 = 1 then [i.h.b] else []
/-- A release at PKG scope: every earlier access of the carriage is performed before any entry goes. -/
def execTlbi (i : RrrI) (s : State) : Out :=
  let kind := field i.mod 0 3
  privOp i.h (tlbiSrcs i) s (fun s =>
    let space := (rs s i.h.b).setWidth 16
    let va := rs s i.h.a
    if anyOpen s 5 then s
    else onSelf s (fun c => { c with wait := .tlbi none kind (i.mod.getLsbD 3) va space }))

/-- The entries go; it completes once every operation that used one of them has finished. -/
def execTlbiComplete (cid : Nat) (s : State) : Out :=
  .next (match (theCar s cid).wait with
    | .tlbi none kind fab va space =>
      let w := (theCar s cid).world
      let users := tlbiUsers s fab kind w space va
      onCar (tlbRemove s fab kind w space va) cid (fun c => { c with wait := .tlbi (some users) kind fab va space })
    | .tlbi (some users) kind fab va space =>
      let c := theCar s cid
      if users.all (fun u => s.ops.all (fun o => o.id != u) && s.parts.all (fun p => p.id != u)) then
        onCar (tlbRemove s fab kind c.world space va) cid (fun c => { c with wait := .run, pc := c.pc + 12 })
      else s
    | _ => s)

/-! ## HALTC (25 R395, 23 R377) -/

/-- The carriage of the issuer's coach in a slot of its core. -/
def slotTarget (s : State) (slot : Nat) : Option Carriage :=
  (cars s).find? (fun c => c.core == s.self.core && c.slot == slot && c.coach == s.self.coach && holdsSlot c && (match c.wait with
    | .regrouped _ => false
    | _ => true))

def haltBody (op : Nat) (d : OpField) (a : DWord) (s : State) : State :=
  if op = 2 then nextPc (ws s d (dbgStat s s.self.core))
  else
    let t := if a = BitVec.allOnes 64 then some s.self else slotTarget s (field a 0 4)
    match t with
    | none => trapC s .illegalOperand
    | some c => onCar (nextPc s) c.id (fun c => { c with halted := op == 0 })

def execHaltc (i : RriI) (s : State) : Out :=
  let op := field i.imm 0 2
  privOp i.h (if op = 2 then [] else [i.h.a]) s (fun s => haltBody op i.h.d (rs s i.h.a) s)

end Sys2Proof.Machine
end

