-- ==== Sys2Proof/Machine/Context.lean ====
section
/-! DEFINITION. The context save area, CTXSV and CTXLD, and pre-emption: save and restore of a coach (02 R41-R43,
23 R372-R376, 25 R394, 20 R329). -/
namespace Sys2Proof.Machine

/-! ## Runs of keys: where the bytes of an area lie -/

abbrev Run := Nat × Nat

/-- The runs of a range of virtual addresses at a copy engine, or the first cause with its address. -/
def globRuns (s : State) (e : EngAt) (acc : Access) : List (Nat × Nat) → Except (Cause × Nat) (List Run)
  | [] => .ok []
  | (va, n) :: r =>
    match xlate s e.eng e.world e.space va acc with
    | .error c => .error (c, va)
    | .ok t =>
      match globRuns s e acc r with
      | .error x => .error x
      | .ok ks => .ok ((targetKey t, n) :: ks)
/-- The key of an offset. -/
def runKey : List Run → Nat → Nat
  | [], off => off
  | (k, n) :: r, off => if off < n then k + off else runKey r (off - n)
def readRuns (s : State) (rs : List Run) : List Byte := rs.flatMap (fun r => mread s r.1 r.2)
def writeRuns (s : State) : List Run → List Byte → State
  | [], _ => s
  | (k, n) :: r, bs => writeRuns (mwrite s k (bs.take n)) r (bs.drop n)
/-- The unit at an offset is poisoned. -/
def runBad (s : State) (rs : List Run) (off : Nat) : Bool := cget s.mPoison (runKey rs off / 8) == 1

/-! ## What an area holds (02 R41, R42) -/

/-- Images beside the area: shared memory and the tile window, with their bytes. -/
structure Images where
  shm : Nat
  shmPer : Nat
  tile : Nat
  tileBytes : Nat
  deriving DecidableEq, Repr
def noImages : Images := { shm := 0, shmPer := 0, tile := 0, tileBytes := 0 }

def padTo (n : Nat) (bs : List Byte) : List Byte := bs ++ zeros (n - bs.length)
def vBytes (c : Carriage) : Nat := c.nreg * widthOf c * 4
def areaSize (w n slots : Nat) : Nat := 0x3200 + n * w * 4 + slots * 65536
def carArea (c : Carriage) : Nat := areaSize (widthOf c) c.nreg c.accs

/-- The thread of a slot: where none stands, the one that would by its number. -/
def slotTid (c : Carriage) (t : Nat) : Nat :=
  match c.slots[t]? with
  | some (x + 1) => x
  | _ => c.id * 128 + t
def maskOf (w : Nat) (f : Nat → Bool) : Nat := sumNat ((span 0 w).map (fun t => if f t then 2 ^ t else 0))

def sectS (c : Carriage) : List Byte := (span 0 256).flatMap (fun n => bitsLe 8 (if n = 0 then 0 else cget c.s n))
def sectCtl (c : Carriage) (pc : DWord) : List Byte :=
  padTo 256 (bitsLe 8 pc ++ leBytes 8 (c.k ||| 1).toNat ++ bitsLe 8 c.ast ++ bitsLe 8 c.mdef ++ leBytes 8 c.spillBase ++
    leBytes 8 c.pathix.toNat)
def sectT (c : Carriage) : List Byte := (span 0 32).flatMap (fun n => bitsLe 16 (cget c.t n))
/-- Token and status; [63:62] 00 EMPTY or 10 DONE. -/
def sectH (c : Carriage) : List Byte :=
  (span 0 16).flatMap (fun n =>
    let v := handleOf c n
    bitsLe 8 v.tok ++ bitsLe 8 (if v.empty then 0 else (v.stat &&& 0x3FFFFFFFFFFFFFFF#64) ||| 0x8000000000000000#64))
def queueOf (c : Carriage) (n : Nat) : List DWord := (c.q.filter (fun e => e.1 == n)).map (fun e => e.2)
def sectQ (c : Carriage) : List Byte :=
  (span 0 8).flatMap (fun n => padTo 256 ((queueOf c n).flatMap (bitsLe 8))) ++
    (span 0 8).flatMap (fun n => leBytes 8 ((queueOf c n).length + 64 * b2n (c.qClosed.getLsbD n))) ++ zeros 448
/-- The access-processor context (14 R241). -/
def sectAp (c : Carriage) : List Byte :=
  match c.ap with
  | none => zeros 1024
  | some a =>
    padTo 1024 ((span 0 32).flatMap (fun n => bitsLe 8 (if n = 0 then 0 else cget a.s n)) ++ bitsLe 8 a.pc ++
      leBytes 8 (a.k ||| 1).toNat ++
      leBytes 8 (b2n a.running + 2 * b2n a.exited + 4 * b2n a.faulted + 256 * a.cause.toNat) ++
      leBytes 8 a.inbound.length ++ padTo 256 (a.inbound.flatMap (bitsLe 8)))
/-- Counters, the binding of n7, arrivals, and a stack with no valid entry. -/
def sectCoach (s : State) (c : Carriage) : List Byte :=
  if c.index ≠ 0 then zeros 1024
  else
    let arrived := (barArrived s c.coach none).toNat
    padTo 1024 ((span 0 8).flatMap (fun j => bitsLe 4 (rctr s c.coach j)) ++ leBytes 8 (b2n (n7Bound s c.coach)) ++ leBytes 8 arrived)
def sectP (s : State) (c : Carriage) : List Byte :=
  (span 0 16).flatMap (fun n => leBytes 16 (maskOf (widthOf c) (fun t => rp s (slotTid c t) n))) ++
    leBytes 16 (maskOf (widthOf c) (fun t => (c.slots[t]?).getD 0 != 0 && isLive s (slotTid c t))) ++ zeros 240
/-- State word and 128 lengths of 7 bits, for each name. -/
def sectAcc (s : State) (c : Carriage) : List Byte :=
  (span 0 32).flatMap (fun a =>
    if c.accs ≤ a then zeros 128
    else padTo 128 (bitsLe 8 (accWord s c.id a) ++
      leBytes 112 (sumNat ((span 0 128).map (fun i => lenOf s c.id a i * 2 ^ (7 * i))))))
def sectV (s : State) (c : Carriage) : List Byte :=
  (span 0 c.nreg).flatMap (fun n => (span 0 (widthOf c)).flatMap (fun t => bitsLe 4 (rv s (slotTid c t) n)))
/-- What a stored accumulator word differs from: empty entries in a RANK slot, else 0. -/
def accFill (rank : Bool) (w : Nat) : Word :=
  if rank then (if w % 2 = 0 then emptyEntry.1 else emptyEntry.2) else 0
def sectD (s : State) (c : Carriage) : List Byte :=
  (span 0 c.accs).flatMap (fun a =>
    let rank := accRank (accWord s c.id a)
    (span 0 16384).flatMap (fun w => bitsLe 4 (cget s.accData (accDataKey c.id a w) ^^^ accFill rank w)))

def header (s : State) (c : Carriage) (im : Images) (discarded : Bool) : List Byte :=
  let k := coach? s c.coach
  let r : LaunchRec := match k with
    | some k => k.rcd
    | none => recOf (zeros 128)
  let lid : DWord := match launch? s c.launch with
    | some l => l.lid
    | none => 0
  let cix : Nat := match k with
    | some k => k.index
    | none => 0
  padTo 512 (leBytes 4 0x10000 ++ leBytes 4 (carArea c) ++ leBytes 2 (widthOf c) ++ leBytes 2 c.nreg ++ leBytes 1 c.accs ++
    leBytes 1 c.accs ++ leBytes 1 r.carve ++ leBytes 1 r.spec ++ leBytes 4 (vBytes c) ++ leBytes 4 c.spillBytes ++
    leBytes 8 c.spillBase ++ leBytes 2 c.space.toNat ++ leBytes 1 (b2n c.world) ++ leBytes 1 c.prio ++
    leBytes 4 (b2n (c.index == 0) + 2 * b2n discarded) ++ bitsLe 8 lid ++ leBytes 4 cix ++ leBytes 2 c.index ++
    leBytes 1 r.a ++ leBytes 1 r.b ++ leBytes 8 im.shm ++ leBytes 4 im.shmPer ++ leBytes 4 0 ++ leBytes 8 im.tile ++
    leBytes 4 im.tileBytes)

/-- The whole area with 0 for its CRC. -/
def areaRaw (s : State) (c : Carriage) (pc : DWord) (im : Images) (discarded : Bool) : List Byte :=
  header s c im discarded ++ sectS c ++ sectCtl c pc ++ sectT c ++ sectH c ++ sectQ c ++ sectAp c ++ sectCoach s c ++
    sectP s c ++ sectAcc s c ++ sectV s c ++ sectD s c
/-- The whole area, its CRC in the header. -/
def areaOf (s : State) (c : Carriage) (pc : DWord) (im : Images) (discarded : Bool) : List Byte :=
  putAt (areaRaw s c pc im discarded) 0x1FC (bitsLe 4 (crc32c (areaRaw s c pc im discarded)))

/-- Offsets of poisoned elements. -/
def badOffsets (s : State) (c : Carriage) : List Nat :=
  ((span 1 255).filter (fun n => c.sPoison.getLsbD n)).map (fun n => 0x200 + 8 * n) ++
    (match c.ap with
      | some x => ((span 1 31).filter (fun n => x.sPoison.getLsbD n)).map (fun n => 0x1800 + 8 * n)
      | none => []) ++
    (span 0 c.nreg).flatMap (fun n => ((span 0 (widthOf c)).filter (fun t => vBad s (slotTid c t) n)).map (fun t =>
      0x3200 + 4 * (n * widthOf c + t))) ++
    (span 0 c.accs).flatMap (fun a => ((span 0 16384).filter (fun w => aBad s (accDataKey c.id a w))).map (fun w =>
      0x3200 + vBytes c + 65536 * a + 4 * w))
/-- Write an area along runs; the units of poisoned elements are poisoned (24 R383). -/
def putArea (s : State) (rs : List Run) (c : Carriage) (pc : DWord) (im : Images) (discarded : Bool) : State :=
  let bad := (badOffsets s c).map (fun o => runKey rs o / 8)
  markM (writeRuns s rs (areaOf s c pc im discarded)) (nubNat bad) true

/-! ## Reading an area back (02 R43) -/

/-- The checks of the format: field, size, CRC, and no valid stack entry. -/
def areaOk (bs : List Byte) : Bool :=
  leAt bs 0 4 == 0x10000 && leAt bs 4 4 == areaSize (leAt bs 8 2) (leAt bs 0xA 2) (leAt bs 0xC 1) && bs.length == leAt bs 4 4 &&
    leAt bs 0x1FC 4 == (crc32c (putAt bs 0x1FC (zeros 4))).toNat &&
    (span 0 16).all (fun i => !bitN (leAt bs (0x1E10 + 32 * i) 4) 4)
/-- Sizes that make an area plausible before it is read whole. -/
def sizeOk (h : List Byte) : Bool :=
  leAt h 0 4 == 0x10000 && leAt h 4 4 == areaSize (leAt h 8 2) (leAt h 0xA 2) (leAt h 0xC 1)
/-- w, N, c and S are those of a carriage. -/
def shapeOk (bs : List Byte) (c : Carriage) : Bool :=
  leAt bs 8 2 == widthOf c && leAt bs 0xA 2 == c.nreg && leAt bs 0xC 1 == c.accs && leAt bs 0xD 1 == c.accs
def areaWorldOk (bs : List Byte) (world : Bool) (space : BitVec 16) : Bool :=
  leAt bs 0x22 1 == b2n world && leAt bs 0x20 2 == space.toNat

/-- Words of a byte run, paired with their numbers. -/
def wordsFrom (bs : List Byte) : List (Nat × Word) :=
  let ws := (chunksN 4 bs.length bs).map (leBits 32)
  (span 0 ws.length).zip ws
def loadAp (bs : List Byte) (bad : Nat → Bool) (old : Option ApCtx) : Option ApCtx :=
  let st := leAt bs 0x110 8
  if old.isNone && st = 0 && leAt bs 0x100 8 = 0 then none
  else some
    { s := csetAll [] ((span 1 31).map (fun n => (n, leBits 64 ((bs.drop (8 * n)).take 8)))), k := BitVec.ofNat 8 (leAt bs 0x108 1) &&& 0xFE
      pc := leBits 64 ((bs.drop 0x100).take 8), running := bitN st 0, exited := bitN st 1, faulted := bitN st 2
      cause := BitVec.ofNat 8 (nbits st 8 8)
      inbound := (span 0 (min 32 (leAt bs 0x118 1 % 64))).map (fun i => leBits 64 ((bs.drop (0x120 + 8 * i)).take 8))
      sPoison := BitVec.ofNat 32 (sumNat ((span 1 31).map (fun n => if bad (0x1800 + 8 * n) then 2 ^ n else 0))) }
def loadQ (bs : List Byte) : List (Nat × DWord) :=
  (span 0 8).flatMap (fun n => (span 0 (min 32 (leAt bs (0x1600 + 8 * n) 1 % 64))).map (fun i =>
    (n, leBits 64 ((bs.drop (0xE00 + 256 * n + 8 * i)).take 8))))
/-- Uniform state of a carriage from an area; `bad` tells a poisoned offset. Reserved bits read 0 (00 R6), a handle whose
saved status is not DONE is EMPTY (02 R41), and what an area does not hold stays. A tile handle is taken whole: the bits
that 10 R166 gives as '-' are kept and read back (DESIGN CHOICE, log 125). -/
def loadUniform (bs : List Byte) (bad : Nat → Bool) (c : Carriage) : Carriage :=
  let d (o : Nat) : DWord := leBits 64 ((bs.drop o).take 8)
  let tok (n : Nat) : DWord := d (0xD00 + 16 * n)
  let same (n : Nat) : Bool := cget c.hTok n == tok n
  let done (n : Nat) : Bool := (d (0xD08 + 16 * n)).getLsbD 63
  { c with
    s := csetAll [] ((span 1 255).map (fun n => (n, d (0x200 + 8 * n))))
    sPoison := BitVec.ofNat 256 (sumNat ((span 1 255).map (fun n => if bad (0x200 + 8 * n) then 2 ^ n else 0)))
    pc := d 0xA00, k := (d 0xA08).setWidth 16 &&& 0xFFFE#16, ast := d 0xA10 &&& 0x7F#64, mdef := mdefWrite (d 0xA18)
    spillBase := (d 0xA20).toNat % Config.scratchBytes, pathix := (d 0xA28).setWidth 32 &&& 0x1FFFFF#32
    t := csetAll [] ((span 0 32).map (fun n => (n, leBits 128 ((bs.drop (0xB00 + 16 * n)).take 16))))
    hTok := csetAll [] ((span 0 16).map (fun n => (n, if done n then tok n else 0)))
    hStat := csetAll [] ((span 0 16).map (fun n => (n, d (0xD08 + 16 * n) &&& 0x3FFFFFFFFFFFFFFF#64)))
    hDone := BitVec.ofNat 16 (maskOf 16 (fun n => done n && tok n != 0))
    hTf := BitVec.ofNat 16 (maskOf 16 (fun n => same n && c.hTf.getLsbD n))
    q := loadQ bs, qClosed := BitVec.ofNat 8 (maskOf 8 (fun n => bitN (leAt bs (0x1600 + 8 * n) 1) 6))
    ap := loadAp ((bs.drop 0x1800).take 1024) bad c.ap, prio := leAt bs 0x23 1, spin := Spin.reset
    slots := match c.kind with
      | .path => c.slots
      | _ => (span 0 (widthOf c)).map (fun t => slotTid c t + 1) }

def loadThreads (s : State) (c : Carriage) (bs : List Byte) (bad : Nat → Bool) : State :=
  let w := widthOf c
  let vs := (wordsFrom ((bs.drop 0x3200).take (vBytes c))).map (fun x => (x.1, vKey (slotTid c (x.1 % w)) (x.1 / w), x.2))
  { s with
    v := csetAll s.v (vs.map (fun x => x.2))
    vPoison := csetAll s.vPoison (vs.map (fun x => (x.2.1, BitVec.ofBool (bad (0x3200 + 4 * x.1)))))
    p := csetAll s.p ((span 1 15).flatMap (fun n => (span 0 w).map (fun t =>
      (pKey (slotTid c t) n, BitVec.ofBool (bitN (leAt bs (0x2000 + 16 * n) 16) t)))))
    live := csetAll s.live ((span 0 w).map (fun t => (slotTid c t, BitVec.ofBool (bitN (leAt bs 0x2100 16) t)))) }
/-- A state word from an area keeps the slot the target is bound to. -/
def loadWord (cur img : DWord) : DWord := (cur &&& 0xBF000000#64) ||| (img &&& 0x401F07FF#64)
def loadAccs (s : State) (c : Carriage) (bs : List Byte) (bad : Nat → Bool) : State :=
  (span 0 c.accs).foldl (fun s a =>
    let img := leBits 64 ((bs.drop (0x2200 + 128 * a)).take 8)
    let lens := leAt bs (0x2208 + 128 * a) 112
    let base := 0x3200 + vBytes c + 65536 * a
    let ws := wordsFrom ((bs.drop base).take 65536)
    let s := setAccWord s c.id a (loadWord (accWord s c.id a) img)
    { s with
      accLen := csetAll s.accLen ((span 0 128).map (fun i => (accKey c.id a * 128 + i, BitVec.ofNat 7 (nbits lens (7 * i) 7))))
      accData := csetAll s.accData (ws.map (fun x => (accDataKey c.id a x.1, x.2 ^^^ accFill (accRank img) x.1)))
      accPoison := csetAll s.accPoison (ws.map (fun x => (accDataKey c.id a x.1, BitVec.ofBool (bad (base + 4 * x.1))))) }) s
/-- The coach section, from carriage 0's area. -/
def loadCoach (s : State) (c : Carriage) (bs : List Byte) : State :=
  if c.index ≠ 0 || !bitN (leAt bs 0x24 4) 0 then s
  else
    let bound := leAt bs 0x1C20 8 != 0
    let here := barArrived (onCoach s c.coach (fun k => { k with arrived := 0 })) c.coach none
    let s := onCoach s c.coach (fun k => { k with n7 := bound, arrived := leAt bs 0x1C28 8 - here })
    evalCtrs { s with ctr := csetAll s.ctr ((span 0 8).map (fun j => (ctrKey c.coach j, leBits 32 ((bs.drop (0x1C00 + 4 * j)).take 4)))) } c.coach
/-- A carriage takes every saved value. -/
def loadArea (s : State) (c : Carriage) (bs : List Byte) (bad : Nat → Bool) : State :=
  let s := onCar s c.id (loadUniform bs bad)
  loadCoach (loadAccs (loadThreads s c bs bad) c bs bad) c bs

/-! ## CTXSV and CTXLD (25 R394) -/

/-- R43 holds of a carriage: its operations have completed, its loads have landed, its passes and waiting accesses are
done. -/
def settled (s : State) (id : Nat) : Bool :=
  s.ops.all (fun o => !o.homes.contains id) && s.loads.all (fun l => !l.homes.contains id) &&
    s.passes.all (fun p => !p.homes.contains id) && !waiting s [id] && s.stale.all (fun e => e.cid != id)

def ctxAddr (s : State) (i : MemI) : DWord := rs s i.h.a + rs s i.h.b + i.t.ofs.signExtend 64

/-- A translation fault: precise; the bytes of the area that can be reached are undefined (00 R3). -/
def ctxFault (s : State) (e : EngAt) (x : DWord) (n : Nat) (c : Cause × Nat) (scramble : Bool) : State :=
  let s1 := if !scramble then s else
    (piecesOf x.toNat n).foldl (fun s p =>
      match xlate s e.eng e.world e.space p.1 .write with
      | .ok t => mwrite s (targetKey t) ((span (targetKey t) p.2).map (fun k => Config.freeByte s.tick k))
      | .error _ => s) s
  takeTrap (noteOp s1 e c.1 c.2) { justCause c.1 with taddr := BitVec.ofNat 64 c.2 }

/-- The target of CTXSV and CTXLD, with the checks both make. -/
def ctxOp (i : MemI) (s : State) (body : Carriage → DWord → State → State) : Out :=
  privOp i.h [i.h.d, i.h.a, i.h.b] s (fun s =>
    match slotTarget s (field (rs s i.h.d) 0 4) with
    | none => trapC s .illegalOperand
    | some c =>
      let x := ctxAddr s i
      if x.toNat % 4096 ≠ 0 then trapAt s .addrAlign x else body c x s)
/-- Any target but the issuer is halted. -/
def haltOther (s : State) (c : Carriage) : State :=
  if c.id = s.self.id then s else onCar s c.id (fun c => { c with halted := true })

/-- The write of a CTXSV, and the read of a CTXLD, as one of the issuer's copy engine with the MEM fields. -/
def ctxEng (s : State) (m : MemTail) (write : Bool) (x n : Nat) : EngOp :=
  { baseOp s s.nextId (if write then .copy [] [(0, x, n)] else .copy [(0, x, n)] []) with order := m.order, scope := m.scope }

def ctxsvBody (m : MemTail) (c : Carriage) (x : DWord) (s : State) : State :=
  let e := engSelf s
  let n := carArea c
  let own := c.id = s.self.id
  if c.kind == .path || (ownCoach s).any (fun k => !k.recons.isEmpty) then trapC s .divergeIllegal
  else if own && inLoop s then trapC s .specIllegal
  else match globRuns s e .write (piecesOf x.toNat n) with
    | .error f => ctxFault s e x n f true
    | .ok rs =>
      let s1 := haltOther s c
      let o := ctxEng s m true x.toNat n
      if !settled s c.id || !releaseReady s o || writesBehind s o || !globUp s e [(x.toNat, n)] then s1
      else
        let s2 := engNote s1 e.eng e.world e.space x.toNat n
        nextPc (putArea s2 rs c (if own then c.pc + 12 else c.pc) noImages false)
def execCtxsv (i : MemI) (s : State) : Out := ctxOp i s (ctxsvBody i.t)

/-- Register bytes on a core beside a carriage's own, with a demand added, fit (02 R43). -/
def demandFits (s : State) (c : Carriage) (bs : List Byte) : Bool :=
  regsUsed s c.core - vBytes c + leAt bs 0x10 4 ≤ vrcap s c.core

def ctxldBody (m : MemTail) (c : Carriage) (x : DWord) (s : State) : State :=
  let e := engSelf s
  match globRuns s e .read (piecesOf x.toNat 512) with
  | .error f => ctxFault s e x 512 f false
  | .ok hs =>
    let h := readRuns s hs
    if !sizeOk h then trapAt s .saveCorrupt x
    else match globRuns s e .read (piecesOf x.toNat (leAt h 4 4)) with
      | .error f => ctxFault s e x 512 f false
      | .ok rs =>
        let s1 := haltOther s c
        let o := ctxEng s m false x.toNat (leAt h 4 4)
        if readsBehind s o || !globUp s e [(x.toNat, leAt h 4 4)] then s1
        else
          let bs := readRuns s rs
          if !areaOk bs then trapAt s .saveCorrupt x
          else if !areaWorldOk bs s.self.world s.self.space then trapAt s .world x
          else if !shapeOk bs c || !demandFits s c bs then trapAt s .restoreShort x
          else
            let s2 := loadArea (engNote (readOrder s1 o) e.eng e.world e.space x.toNat bs.length) c bs (runBad s rs)
            if c.id = s.self.id then s2 else nextPc (onCar s2 c.id (fun c => { c with wait := .run }))
def execCtxld (i : MemI) (s : State) : Out := ctxOp i s (ctxldBody i.t)

/-! ## Saving a coach (23 R373, R374, 20 R329) -/

def preemptOf (s : State) (world restore : Bool) : Option Preempt := s.preempt.find? (fun p => p.world == world && p.restore == restore)
def endPreempt (s : State) (world : Bool) : State := { s with preempt := s.preempt.filter (fun p => p.world != world) }
/-- Its home carriages in carriage-index order. -/
def homesOfCoach (s : State) (k : Nat) : List Carriage :=
  sortBy (fun a b => a.index ≤ b.index) ((cars s).filter (fun c => c.coach == k && c.kind == .home))
def coachOps (s : State) (k : Nat) : List EngOp := s.ops.filter (fun o => o.coach == k)

/-- No open region and no carriage in handler mode. -/
def eligible (s : State) (k : Coach) : Bool :=
  k.recons.isEmpty && (cars s).all (fun c => c.coach != k.id || !c.handler)

/-- A window is discarded: every instance above 0 is rejected, instance 0's appends alone count, and it goes on as a window
of width 1 (19 R316, 20 R329). -/
def discardWindow (s : State) (k : Coach) : State :=
  match s.loops.find? (fun l => (theCar s l.cid).coach == k.id) with
  | none => s
  | some l0 =>
    if l0.insts.isEmpty then s
    else
      let above := onLoop s l0.cid (fun l => { l with insts := l.insts.map (fun x => { x with committed := false }) })
      let s := rejectFrom above l0.cid 1
      match loop? s l0.cid with
      | none => s
      | some l =>
        let s := rollbackMarks s l (theCar s l.cid).world
        onLoop s l.cid (fun l => { l with
          wNow := 1, marks := []
          insts := (l.insts.filter (fun x => x.j == 0)).map (fun x => { x with reached := false, stop := false, produced := [] }) })

/-- A copy's bytes to write. -/
def copyTotal (o : EngOp) : Nat :=
  match o.kind with
  | .copy _ dst => sumNat (dst.map (fun r => r.2.2))
  | .copyT _ _ _ _ n rb _ => n * rb
  | .tileT _ tposed ta _ _ =>
    if tposed then 128 * regionBytes (tFmt ta) (tK ta) (tSparse ta) else tK ta * (128 * elemBits (tFmt ta) / 8)
  | .tileCopy _ _ _ _ _ _ _ _ rows n => rows.length * n
  | _ => 0
def cancelPreempted (s : State) (o : EngOp) : State := finishOp s { failOp o .preempted with bytes := 0, out := [] }
/-- An armed trigger is disarmed; a long copy is cancelled: how much one has written so far is not given. -/
def stopOp (s : State) (o : EngOp) : State :=
  match o.kind with
  | .armed t => cancelPreempted { s with triggers := s.triggers.filter (fun x => x.id != t) } o
  | _ =>
    if copyTotal o ≤ 2 ^ 20 then s
    else if o.stage = .requesting then cancelPreempted s o
    else if free s (0x600 + o.id) % 2 = 0 then onOp s o.id (fun o => { o with preempted := true })
    else s
def stopOps (s : State) (k : Nat) : State := (coachOps s k).foldl stopOp s
/-- A carriage that waits will execute its waiting instruction again; its arrival is withdrawn. -/
def withdraw (c : Carriage) : Carriage :=
  match c.wait with
  | .bar _ => { c with wait := .run }
  | .dbr _ _ _ => { c with wait := .run }
  | .yielded _ _ _ _ => { c with wait := .run }
  | .spend _ _ => { c with wait := .run }
  | _ => c
/-- Steps 2 to 5, and the running passes of step 7. -/
def stopCoach (s : State) (k : Coach) : State :=
  let s := discardWindow s k
  let s := stopPasses (mapCars s (fun c => if c.coach = k.id then withdraw c else c)) k.id
  stopOps (onCoach s k.id (fun k => { k with stopped := true })) k.id

/-- Steps 6 and 7: operations, loads, stores and passes are done. -/
def drained (s : State) (k : Coach) : Bool :=
  (coachOps s k.id).isEmpty && s.passes.all (fun p => p.coach != k.id) &&
    (homesOfCoach s k.id).all (fun c => settled s c.id && s.stores.all (fun x => !x.homes.contains c.id) && (match c.wait with
      | .issuing _ => false
      | .tlbi _ _ _ _ _ => false
      | _ => true))

/-- The quads where the coach is the last of its launch that holds a window. -/
def windowsToSave (s : State) (k : Coach) : List TileWin :=
  s.windows.filter (fun w => w.launch == k.launch && (coachCores k).any (fun c => quadOf c == w.quad) &&
    !s.coaches.any (fun m => m.id != k.id && m.launch == k.launch && !m.spawn && !m.saved && (coachCores m).any (fun c => quadOf c == w.quad)))
def windowBytes (w : TileWin) : Nat := 128 * w.units * 4096
/-- Addresses one after another, each aligned to 4 KiB. -/
def layOut (at' : Nat) : List Nat → List Nat
  | [] => []
  | n :: r => at' :: layOut (alignUp (at' + n) 4096) r
def afterAll (at' : Nat) (ns : List Nat) : Nat := ns.foldl (fun a n => alignUp (a + n) 4096) at'

def imageShm (s : State) (k : Coach) : Nat := shmSize s k.id
/-- The poison of a run at another place. -/
def copyMarks (from' s : State) (src dst n : Nat) : State :=
  markM s (((unitsTouched src n).filter (fun u => cget from'.mPoison u == 1)).map (fun u => (dst + 8 * u - src) / 8)) true
/-- Copy bytes and their poison. -/
def copyRun (s : State) (src dst n : Nat) : State := copyMarks s (mwrite s dst (mread s src n)) src dst n
def saveWindow (s : State) (w : TileWin) (at' : Nat) : State :=
  (span 0 128).foldl (fun s n =>
    let to' := hk (at' + n * w.units * 4096)
    copyMarks s (mwrite s to' (tileBytes s w.gen w.quad n 0 (w.units * 4096))) (tileKey w.gen w.quad n 0) to' (w.units * 4096)) s

/-- The spill region of a carriage, one for each speculation instance (20 R325): its first key and its bytes. -/
def spillRun (k : Coach) (c : Carriage) : Nat × Nat :=
  (memKey .scr (dieOf c.core) c.spillBlock, widthOf c * c.spillBytes * specWays k.rcd)
def spillOf (s : State) (k : Coach) (c : Carriage) : Nat × List (Nat × Byte) × List Nat :=
  let r := spillRun k c
  (c.id, (s.mem.filter (fun x => r.1 ≤ x.1 && x.1 < r.1 + r.2)).map (fun x => (x.1 - r.1, x.2)),
    ((unitsTouched r.1 r.2).filter (fun u => cget s.mPoison u == 1)).map (fun u => u - r.1 / 8))
/-- It stands in the carriage's new region again. -/
def putSpill (s : State) (k : Coach) (c : Carriage) : State :=
  let r := spillRun k c
  let x := ((k.spill.find? (fun x => x.1 == c.id)).map (fun x => x.2)).getD ([], [])
  let s := { s with
    mem := csetAll (cclear s.mem r.1 (r.1 + r.2)) (x.1.map (fun e => (r.1 + e.1, e.2)))
    mPoison := cclear s.mPoison (r.1 / 8) ((r.1 + r.2) / 8) }
  markM s (x.2.map (fun u => r.1 / 8 + u)) true

/-- The areas of a save image with their addresses, where its shared memory stands, where its windows do, and its end. -/
def imageCars (s : State) (k : Coach) (p : Preempt) : List (Carriage × Nat) :=
  let cs := homesOfCoach s k.id
  cs.zip (layOut p.base (cs.map carArea))
def imageShmAt (s : State) (k : Coach) (p : Preempt) : Nat := afterAll p.base ((homesOfCoach s k.id).map carArea)
def imageWinAt (s : State) (k : Coach) (p : Preempt) : Nat := alignUp (imageShmAt s k p + imageShm s k) 4096
def imageEnd (s : State) (k : Coach) (p : Preempt) : Nat :=
  afterAll (imageWinAt s k p) ((windowsToSave s k).map windowBytes)
/-- Steps 8 and 9. -/
def saveCoach (s : State) (k : Coach) (p : Preempt) : State :=
  let cs := homesOfCoach s k.id
  let shmAt := imageShmAt s k p
  let shmN := imageShm s k
  let wins := windowsToSave s k
  let winAt := layOut (imageWinAt s k p) (wins.map windowBytes)
  if !rowsTake s p.world p.base (imageEnd s k p - p.base) then prsFault (endPreempt s p.world) p.world .world
  else
    let imOf (c : Carriage) : Images :=
      match (wins.zip winAt).find? (fun x => x.1.quad == quadOf c.core) with
      | some x => { shm := shmAt, shmPer := carveBytes k.rcd.carve, tile := x.2, tileBytes := windowBytes x.1 }
      | none => { shm := shmAt, shmPer := carveBytes k.rcd.carve, tile := 0, tileBytes := 0 }
    let inWindow := s.loops.any (fun l => (theCar s l.cid).coach == k.id)
    let s1 := (imageCars s k p).foldl (fun s x => putArea s [(hk x.2, carArea x.1)] x.1 x.1.pc (imOf x.1) inWindow) s
    let s2 := copyRun s1 (memKey .shm k.id 0) (hk shmAt) shmN
    let s3 := (wins.zip winAt).foldl (fun s x => saveWindow s x.1 x.2) s2
    let s4 := mapCars s3 (fun c => if c.coach = k.id then { c with wait := .saved } else c)
    let s5 := onCoach { s4 with windows := s4.windows.filter (fun w => !wins.contains w) } k.id (fun k => { k with saved := true, spill := cs.map (spillOf s k) })
    setPrs (endPreempt s5 p.world) p.world 0x2000000000000000#64

def execPreemptSaveRequest (world : Bool) (prq : DWord) (s : State) : Out :=
  .next (if prq.getLsbD 0 && !prq.getLsbD 1 then writePrq s world prq else s)

/-- The coach stops once it is eligible; at a later turn, drained, it is saved. -/
def execPreemptEligible (world : Bool) (s : State) : Out :=
  .next (match preemptOf s world false with
    | none => s
    | some p =>
      match coach? s p.coach with
      | none => prsFault (endPreempt s world) world .notarget
      | some k =>
        if k.stopped then (if drained s k then saveCoach s k p else s)
        else if eligible s k then stopCoach s k
        else s)

def execPreemptDeadline (world : Bool) (s : State) : Out :=
  .next (match preemptOf s world false with
    | none => s
    | some p =>
      match coach? s p.coach with
      | none => s
      | some k =>
        if p.limit ≠ 0 && p.limit ≤ s.ns && !k.stopped && !eligible s k then setPrs (endPreempt s world) world 0x3000000000000000#64 else s)

/-! ## Restoring a coach (23 R375) -/

def execPreemptRestoreRequest (world : Bool) (prq : DWord) (s : State) : Out :=
  .next (if prq.getLsbD 0 && prq.getLsbD 1 then writePrq s world prq else s)

/-- An area of an image at a physical address: its bytes, when its header is plausible. -/
def imageArea (s : State) (at' : Nat) : Option (List Byte) :=
  let h := mread s (hk at') 512
  if sizeOk h then some (mread s (hk at') (leAt h 4 4)) else none
/-- The areas of n carriages, one after another. -/
def imageAreas (s : State) : Nat → Nat → Option (List (Nat × List Byte))
  | 0, _ => some []
  | n + 1, at' =>
    match imageArea s at' with
    | none => none
    | some bs =>
      match imageAreas s n (alignUp (at' + bs.length) 4096) with
      | none => none
      | some r => some ((at', bs) :: r)

/-- Every aligned tile of the mesh. -/
def allTiles (a b : Nat) : List (Nat × Nat) :=
  (span 0 (8 / 2 ^ b)).flatMap (fun y => (span 0 (16 / 2 ^ a)).map (fun x => (x * 2 ^ a, y * 2 ^ b)))
/-- The record a restore places by: the coach shape of the header (02 R42). -/
def headerRec (k : Coach) (h : List Byte) : LaunchRec := { k.rcd with a := leAt h 0x36 1, b := leAt h 0x37 1 }
/-- Register bytes the header asks of a core, its carriages and instances together. -/
def headerDemand (k : Coach) (h : List Byte) : Nat := leAt h 0x10 4 * k.rcd.n * max 1 (leAt h 0xF 1)
/-- Tiles of the header's shape that the coach fits; CTXLD fails with RESTORE_SHORT on the others. -/
def restoreTiles (s : State) (k : Coach) (h : List Byte) : List (Nat × Nat) :=
  let r := headerRec k h
  let held (t : Nat × Nat) : Bool :=
    match launch? s k.launch with
    | none => false
    | some l => heldAgainst s l (tileCores r.a r.b t.1 t.2) || heldWithin s l k.id (tileCores r.a r.b t.1 t.2)
  if 4 < r.a || 3 < r.b || r.a + r.b ≠ k.rcd.a + k.rcd.b then []
  else (allTiles r.a r.b).filter (fun t => tileTakes s r (headerDemand k h) k.launch t.1 t.2 false && !held t)
/-- No ready core of the world could take the demand even when empty. -/
def neverFits (s : State) (k : Coach) (h : List Byte) (world : Bool) : Bool :=
  (span 0 128).all (fun c => !ready s c || coreWorld s c != world || vrcap s c < headerDemand k h)

/-- A carriage takes its place on a core: slot, accumulator slots and spill region among the free ones. -/
def seatCarriage (s : State) (k : Coach) (c : Carriage) (core : Nat) : State :=
  let slots := (span 0 (carrSlots s core)).filter (fun x => !(takenSlots s core).contains x)
  let accFree := (span 0 48).filter (fun x => !(accSlotsTaken s (quadOf core)).contains x)
  let accs := reorder (fun i => free s (0x40000 + 64 * c.index + i)) accFree.length accFree
  let base := (spillFit (spillTaken s (dieOf core)) (widthOf c * c.spillBytes * specWays k.rcd)).getD 0
  let s := onCar s c.id (fun c => { c with
    core := core, slot := (slots[free s (0x700 + c.index) % slots.length]?).getD 0, spillBase := base, spillBlock := base, wait := .run })
  { s with accSt := csetAll s.accSt ((span 0 c.accs).map (fun a =>
    (accKey c.id a, withSlot (cget s.accSt (accKey c.id a)) ((accs[a]?).getD 0)))) }
/-- What a restored carriage does next. -/
def resume (s : State) (cid : Nat) : State :=
  let gone := (liveOf s (theCar s cid)).isEmpty
  let atLoop := s.loops.any (fun l => l.cid == cid && l.insts.isEmpty)
  onCar s cid (fun c => { c with wait := if gone then .exited else if atLoop then .window else .run })
/-- A window opened for the restore takes the image its carriages' headers record. -/
def restoreWindow (s : State) (old : List TileWin) (quad launch : Nat) (bs : List Byte) : State :=
  match window? s launch quad with
  | none => s
  | some w =>
    let at' := leAt bs 0x48 8
    if old.contains w || leAt bs 0x50 4 ≠ windowBytes w then s
    else (span 0 128).foldl (fun s n =>
      let src := hk (at' + n * w.units * 4096)
      copyMarks s (tilePut s w.gen w.quad n 0 (mread s src (w.units * 4096))) src (tileKey w.gen w.quad n 0) (w.units * 4096)) s

def restoreOn (s : State) (old' : Coach) (areas : List (Nat × List Byte)) (world : Bool) (t : Nat × Nat) : State :=
  let k := { old' with rcd := headerRec old' ((areas.head?.map (fun a => a.2)).getD []) }
  let cs := homesOfCoach s k.id
  let cores := tileCores k.rcd.a k.rcd.b t.1 t.2
  let coreOf (c : Carriage) : Nat := (cores[c.index / max 1 k.rcd.n]?).getD 0
  let old := s.windows
  let s := onCoach s k.id (fun x => { x with
    x := t.1, y := t.2, rcd := k.rcd, spill := [], saved := false, stopped := false, areas := freeAreas s cores })
  let s := openWindows s k.launch k.rcd cores
  let s := cs.foldl (fun s c => seatCarriage s k c (coreOf c)) s
  let s := (cs.zip areas).foldl (fun s x =>
    let a := x.2
    let s := restoreWindow s old (quadOf (coreOf x.1)) k.launch a.2
    let seat := (theCar s x.1.id).spillBase
    let s := putSpill s k (theCar s x.1.id)
    -- the spill pointer keeps its place in the region
    resume (onCar (loadArea s (theCar s x.1.id) a.2 (runBad s [(hk a.1, a.2.length)])) x.1.id (fun c => { c with
      spillBase := seat + (c.spillBase - x.1.spillBlock) })) x.1.id) s
  let s := match areas with
    | (_, bs) :: _ => copyRun s (hk (leAt bs 0x38 8)) (memKey .shm k.id 0) (shmSize s k.id)
    | [] => s
  setPrs (endPreempt s world) world 0x2000000000000000#64

/-- The coach an area names, when it is saved here. -/
def savedCoach (s : State) (world : Bool) (bs : List Byte) : Option Coach :=
  match coachNamed s world (leBits 64 ((bs.drop 0x28).take 8)) (leAt bs 0x30 4) with
  | some k => if k.saved then some k else none
  | none => none

def execRestorePlace (world : Bool) (s : State) : Out :=
  .next (match preemptOf s world true with
    | none => s
    | some p =>
      let fail (c : Cause) : State := prsFault (endPreempt s world) world c
      match imageArea s p.base with
      | none => fail .saveCorrupt
      | some bs =>
        if !areaOk bs then fail .saveCorrupt
        else match savedCoach s world bs with
          | none => fail .notarget
          | some k =>
            let cs := homesOfCoach s k.id
            match imageAreas s cs.length p.base with
            | none => fail .saveCorrupt
            | some areas =>
              if !areas.all (fun a => areaOk a.2) then fail .saveCorrupt
              else if !areas.all (fun a => areaWorldOk a.2 world k.rcd.space) then fail .world
              else if neverFits s k bs world then setPrs (endPreempt s world) world 0x4000000000000000#64
              else
                -- RESTORE_SHORT of CTXLD makes it skip a tile: areas that are none of these carriages' fit none
                let ts := if (cs.zip areas).all (fun x => shapeOk x.2.2 x.1) then restoreTiles s k bs else []
                match ts[free s 15 % max 1 ts.length]? with
                | some t => restoreOn s k areas world t
                | none => s)

end Sys2Proof.Machine
end

