-- ==== Sys2Proof/Machine/VecFloat.lean ====
section
/-! DEFINITION. Vector floating-point instructions, 0x60-0x77 and 0x7D (09 R150-R162). -/
namespace Sys2Proof.Machine

/-! ## Sources after ABS and NEG (03 R59, 09 R151) -/

/-- Codes of A, B and C of a 32-bit instruction. -/
def fa32 (i : FpI) (s : State) (tid : Nat) : Nat := absNeg fmtF32 i.absa i.nega (opV s i.h.a tid).toNat
def fb32 (i : FpI) (s : State) (tid : Nat) : Nat := absNeg fmtF32 i.absb i.negb (fpB i s tid).toNat
def fc32 (i : FpI) (s : State) (tid : Nat) : Nat := absNeg fmtF32 false i.negc (fpC i s tid).toNat
/-- Codes of A, B and C of a 64-bit instruction; an immediate widens (03 R57). -/
def fa64 (i : FpI) (s : State) (tid : Nat) : Nat := absNeg fmtF64 i.absa i.nega (opV64 s i.h.a tid).toNat
def fb64 (i : FpI) (s : State) (tid : Nat) : Nat :=
  absNeg fmtF64 i.absb i.negb (match i.t with
    | .rrr _ => (opV64 s i.h.b tid).toNat
    | .rri imm => widenF32 imm.toNat)
def fc64 (i : FpI) (s : State) (tid : Nat) : Nat := absNeg fmtF64 false i.negc (fpC64 i s tid).toNat
/-- The source of a unary instruction. -/
def fu32 (i : FpI) (s : State) (tid : Nat) : Nat := absNeg fmtF32 i.absa i.nega (fpA1 i s tid).toNat
def fu64 (i : FpI) (s : State) (tid : Nat) : Nat :=
  absNeg fmtF64 i.absa i.nega (match i.t with
    | .rrr _ => (opV64 s i.h.a tid).toNat
    | .rri imm => widenF32 imm.toNat)

/-- A binary instruction on FP32. -/
def fpBin32 (i : FpI) (s : State) (f : RMode → FVal → FVal → Nat × Flags) : Out :=
  vecOp i.h ((i.h.d, 1) :: (i.h.a, 1) :: fpUseB i 1) ((i.h.a, 1) :: fpUseB i 1) s (fun s =>
    setVF s i.h (fun _ tid =>
      f (tailMode s i.t) (decodeF fmtF32 (fa32 i s tid)) (decodeF fmtF32 (fb32 i s tid))))
/-- A binary instruction on FP64 pairs. -/
def fpBin64 (i : FpI) (s : State) (f : RMode → FVal → FVal → Nat × Flags) : Out :=
  vecOp i.h ((i.h.d, 2) :: (i.h.a, 2) :: fpUseB i 2) ((i.h.a, 2) :: fpUseB i 2) s (fun s =>
    setVF64 s i.h (fun _ tid =>
      f (tailMode s i.t) (decodeF fmtF64 (fa64 i s tid)) (decodeF fmtF64 (fb64 i s tid))))
/-- A unary instruction on FP32. -/
def fpUn32 (i : FpI) (s : State) (f : RMode → FVal → Nat × Flags) : Out :=
  vecOp i.h ((i.h.d, 1) :: fpUseA1 i 1) (fpUseA1 i 1) s (fun s =>
    setVF s i.h (fun _ tid => f (tailMode s i.t) (decodeF fmtF32 (fu32 i s tid))))

/-! ## Arithmetic (09 R153) -/

def execVfaddF32 (i : FpI) (s : State) : Out := fpBin32 i s (fAdd fmtF32)
def execVfaddF64 (i : FpI) (s : State) : Out := fpBin64 i s (fAdd fmtF64)
def execVfmulF32 (i : FpI) (s : State) : Out := fpBin32 i s (fMul fmtF32)
def execVfmulF64 (i : FpI) (s : State) : Out := fpBin64 i s (fMul fmtF64)
def execVfdivF32 (i : FpI) (s : State) : Out := fpBin32 i s (fDiv fmtF32)
def execVfdivF64 (i : FpI) (s : State) : Out := fpBin64 i s (fDiv fmtF64)

def execVfmaF32 (i : FpI) (s : State) : Out :=
  vecOp i.h ((i.h.d, 1) :: (i.h.a, 1) :: fpUseB i 1 ++ fpUseC i 1) ((i.h.a, 1) :: fpUseB i 1 ++ fpUseC i 1) s
    (fun s => setVF s i.h (fun _ tid =>
      fMadd fmtF32 (tailMode s i.t) (decodeF fmtF32 (fa32 i s tid)) (decodeF fmtF32 (fb32 i s tid))
        (decodeF fmtF32 (fc32 i s tid))))
def execVfmaF64 (i : FpI) (s : State) : Out :=
  vecOp i.h ((i.h.d, 2) :: (i.h.a, 2) :: fpUseB i 2 ++ fpUseC i 2) ((i.h.a, 2) :: fpUseB i 2 ++ fpUseC i 2) s
    (fun s => setVF64 s i.h (fun _ tid =>
      fMadd fmtF64 (tailMode s i.t) (decodeF fmtF64 (fa64 i s tid)) (decodeF fmtF64 (fb64 i s tid))
        (decodeF fmtF64 (fc64 i s tid))))

/-- One element of a packed multiply-add (09 R154); `e` is 0 or 1. -/
def packedElem (F : Fmt) (i : FpI) (mode : RMode) (e : Nat) (a b c : Word) : Nat × Flags :=
  let el (abs neg : Bool) (x : Word) : FVal := decodeF F (absNeg F abs neg (nbits x.toNat (16 * e) 16))
  fMadd F mode (el i.absa i.nega a) (el i.absb i.negb b) (el false i.negc c)
def packedOp (F : Fmt) (i : FpI) (mode : RMode) (a b c : Word) : Nat × Flags :=
  let lo := packedElem F i mode 0 a b c
  let hi := packedElem F i mode 1 a b c
  (lo.1 + hi.1 * 2 ^ 16, lo.2 ||| hi.2)
def fpPacked (F : Fmt) (i : FpI) (s : State) : Out :=
  vecOp i.h ((i.h.d, 1) :: (i.h.a, 1) :: fpUseB i 1 ++ fpUseC i 1) ((i.h.a, 1) :: fpUseB i 1 ++ fpUseC i 1) s
    (fun s => setVF s i.h (fun _ tid =>
      packedOp F i (tailMode s i.t) (opV s i.h.a tid) (fpB i s tid) (fpC i s tid)))
def execVfmaH2 (i : FpI) (s : State) : Out := fpPacked fmtF16 i s
def execVfmaBf2 (i : FpI) (s : State) : Out := fpPacked fmtBF16 i s

def execVfsqrtF32 (i : FpI) (s : State) : Out := fpUn32 i s (fSqrt fmtF32)
def execVfsqrtF64 (i : FpI) (s : State) : Out :=
  vecOp i.h ((i.h.d, 2) :: fpUseA1 i 2) (fpUseA1 i 2) s (fun s =>
    setVF64 s i.h (fun _ tid => fSqrt fmtF64 (tailMode s i.t) (decodeF fmtF64 (fu64 i s tid))))

/-! ## Functions (09 R157) -/

def execVfrcpF32 (i : FpI) (s : State) : Out := fpUn32 i s (fRcp fmtF32)
def execVfrsqF32 (i : FpI) (s : State) : Out := fpUn32 i s (fRsq fmtF32)
def execVfexp2F32 (i : FpI) (s : State) : Out := fpUn32 i s (fExp2 fmtF32)
def execVflog2F32 (i : FpI) (s : State) : Out := fpUn32 i s (fLog2 fmtF32)

/-! ## Minimum, maximum, comparison (09 R155, R156) -/

def minMax32 (isMax : Bool) (i : FpI) (s : State) : Out :=
  vecOp i.h ((i.h.d, 1) :: (i.h.a, 1) :: fpUseB i 1) ((i.h.a, 1) :: fpUseB i 1) s (fun s =>
    setVF s i.h (fun _ tid =>
      let a := fa32 i s tid
      let b := fb32 i s tid
      fMinMax fmtF32 isMax (i.sub == 1) a b (decodeF fmtF32 a) (decodeF fmtF32 b)))
def minMax64 (isMax : Bool) (i : FpI) (s : State) : Out :=
  vecOp i.h ((i.h.d, 2) :: (i.h.a, 2) :: fpUseB i 2) ((i.h.a, 2) :: fpUseB i 2) s (fun s =>
    setVF64 s i.h (fun _ tid =>
      let a := fa64 i s tid
      let b := fb64 i s tid
      fMinMax fmtF64 isMax (i.sub == 1) a b (decodeF fmtF64 a) (decodeF fmtF64 b)))
def execVfminF32 (i : FpI) (s : State) : Out := minMax32 false i s
def execVfmaxF32 (i : FpI) (s : State) : Out := minMax32 true i s
def execVfminF64 (i : FpI) (s : State) : Out := minMax64 false i s
def execVfmaxF64 (i : FpI) (s : State) : Out := minMax64 true i s

def execVfcmpF32 (i : FpI) (s : State) : Out :=
  vecOp i.h ((i.h.a, 1) :: fpUseB i 1) ((i.h.a, 1) :: fpUseB i 1) s (fun s =>
    setPF s i.h (fun _ tid =>
      fCmp i.sub.toNat (decodeF fmtF32 (fa32 i s tid)) (decodeF fmtF32 (fb32 i s tid))))
def execVfcmpF64 (i : FpI) (s : State) : Out :=
  vecOp i.h ((i.h.a, 2) :: fpUseB i 2) ((i.h.a, 2) :: fpUseB i 2) s (fun s =>
    setPF s i.h (fun _ tid =>
      fCmp i.sub.toNat (decodeF fmtF64 (fa64 i s tid)) (decodeF fmtF64 (fb64 i s tid))))

/-! ## Classification and rounding to integral (09 R158, R159): SUB[0] F64, SUB[1] X -/

def execVfclass (i : FpI) (s : State) : Out :=
  let n := if i.sub.getLsbD 0 then 2 else 1
  vecOp i.h ((i.h.d, 1) :: fpUseA1 i n) (fpUseA1 i n) s (fun s =>
    setV s i.h (fun _ tid => BitVec.ofNat 32
      (if i.sub.getLsbD 0 then fClass fmtF64 (fu64 i s tid) else fClass fmtF32 (fu32 i s tid))))
def execVfrnd (i : FpI) (s : State) : Out :=
  let x := i.sub.getLsbD 1
  if i.sub.getLsbD 0 then
    vecOp i.h ((i.h.d, 2) :: fpUseA1 i 2) (fpUseA1 i 2) s (fun s =>
      setVF64 s i.h (fun _ tid => fRnd fmtF64 (tailMode s i.t) x (fu64 i s tid)))
  else
    vecOp i.h ((i.h.d, 1) :: fpUseA1 i 1) (fpUseA1 i 1) s (fun s =>
      setVF s i.h (fun _ tid => fRnd fmtF32 (tailMode s i.t) x (fu32 i s tid)))

/-! ## Block scales (09 R162) -/

/-- The maximum magnitude a policy's format holds, as a multiple. -/
def bscMt (pol : Nat) : Nat :=
  match pol with
  | 0 => 6
  | 1 => 6
  | 2 => 448
  | _ => 57344

/-- Least e in 0..254 with amax ≤ Mt * 2^(e − 127), searching up. -/
def bscScale (amax : FVal) (mt : Nat) : Nat → Nat → Nat
  | 0, e => e
  | fuel + 1, e =>
    if cmpV amax (.fin false mt ((e : Int) - 127)) ≤ 0 then e else bscScale amax mt fuel (e + 1)

/-- The block word of the active values of one block, lowest slot first (09 R162). -/
def bscWord (pol : Nat) (xs : List FVal) : Nat :=
  if xs.any FVal.isNan then 0xFF + 256 * (if pol ≤ 1 then 0x7F else 0x00)
  else
    let fins := xs.filter FVal.isFin
    let big (a b : FVal) : FVal := if ltV a.absV b.absV then b else a
    match fins with
    | [] => 0x7F
    | x :: r =>
      let y := r.foldl big x
      if y.isZero then 0x7F
      else
        let e := bscScale y.absV (bscMt pol) 255 0
        let sp := if pol = 0 then roundNe fmtE4M3 (scaleV (127 - (e : Int)) y) else if pol = 1 then 0x7F else 0
        e + 256 * sp
def execVbsc (i : FpI) (s : State) : Out :=
  vecOp i.h ((i.h.d, 1) :: fpUseA1 i 1) (fpUseA1 i 1) s (fun s =>
    let act := active s i.h
    let vals (j : Nat) : List FVal :=
      (act.filter (fun st => st.1 / 32 == j)).map (fun st => decodeF fmtF32 (fu32 i s st.2))
    setVF s i.h (fun slot tid =>
      (bscWord i.sub.toNat (vals (slot / 32)), sigFlag [decodeF fmtF32 (fu32 i s tid)])))

end Sys2Proof.Machine
end

