-- ==== Sys2Proof/Machine/Convert.lean ====
section
/-! DEFINITION. Conversions and block quantisation, 0x78-0x7C (09 R160, R161, R163, R164). -/
namespace Sys2Proof.Machine

/-- The code of an element of format `f` at a position (09 R160). -/
def elemAt (f pos : Nat) (x32 : Word) (x64 : DWord) : Nat :=
  let b := elemBits f
  if b = 64 then x64.toNat else nbits x32.toNat (b * pos) b
/-- A source element of a thread. -/
def srcElem (i : CvtI) (s : State) (tid : Nat) : Nat :=
  elemAt i.srcf.toNat (spos i.t) (opV s i.h.a tid) (opV64 s i.h.a tid)
/-- Registers of an element. -/
def elemRegs (f : BitVec 4) : Nat := if elemBits f.toNat = 64 then 2 else 1

/-- Inserted at its position, the other bits kept, or cleared with ZX. -/
def insElem (f pos : Nat) (zx : Bool) (old : Word) (code : Nat) : Word :=
  let b := elemBits f
  if b = 32 then BitVec.ofNat 32 code
  else BitVec.ofNat 32 (setField (if zx then 0 else old.toNat) (b * pos) b code)

/-- A narrow destination that keeps the other bits of its register reads it. -/
def keepsOld (i : CvtI) : List Use :=
  if elemBits i.dstf.toNat < 32 && !i.zx then [(i.h.d, 1)] else []

/-- A conversion of every active thread's element by `f`. -/
def cvtOp (i : CvtI) (extra : List Use) (s : State) (f : State → Nat → Nat × Flags) : Out :=
  let srcs := (i.h.a, elemRegs i.srcf) :: extra ++ keepsOld i
  vecOp i.h ((i.h.d, elemRegs i.dstf) :: srcs) srcs s (fun s =>
    if elemBits i.dstf.toNat = 64 then setVF64 s i.h (fun _ tid => f s tid)
    else setVF s i.h (fun _ tid =>
      let r := f s tid
      ((insElem i.dstf.toNat (dpos i.t) i.zx (rv s tid i.h.d.toNat) r.1).toNat, r.2)))

def execVcvtFf (i : CvtI) (s : State) : Out :=
  cvtOp i [] s (fun s tid =>
    convToCode i.dstf.toNat (rndMode s i.t.rnd) i.sat (decodeCode i.srcf.toNat (srcElem i s tid)))
def execVcvtFi (i : CvtI) (s : State) : Out :=
  cvtOp i [] s (fun s tid =>
    let d := intFmt i.dstf.toNat
    convToI d.1 d.2 (rndMode s i.t.rnd) i.sat (decodeCode i.srcf.toNat (srcElem i s tid)))
/-- An integer element as a value. -/
def intElem (f code : Nat) : FVal :=
  let d := intFmt f
  ofIntV (intOf d.2 (BitVec.ofNat d.1 code))
def execVcvtIf (i : CvtI) (s : State) : Out :=
  cvtOp i [] s (fun s tid =>
    convToCode i.dstf.toNat (rndMode s i.t.rnd) i.sat (intElem i.srcf.toNat (srcElem i s tid)))

/-- The block info word of a thread: scale and special byte (09 R162). -/
def blockInfo (i : CvtI) (s : State) (tid : Nat) : Nat × Nat :=
  let x := (opV s i.h.b tid).toNat
  (nbits x 0 8, nbits x 8 8)

/-- VQNT of one value (09 R163). -/
def vqntOp (dst : Nat) (mode : RMode) (sat : Bool) (sc sp : Nat) (x : FVal) : Nat × Flags :=
  if sc = 0xFF then
    ((match floatFmt dst with
      | some F => F.nanCode
      | none => 0), sigFlag [x])
  else
    let q := scaleV (127 - (sc : Int)) x
    if dst = 6 then nx4Encode (some sp) q else convToCode dst mode sat q
def execVqnt (i : CvtI) (s : State) : Out :=
  cvtOp i [(i.h.b, 1)] s (fun s tid =>
    let bi := blockInfo i s tid
    vqntOp i.dstf.toNat (rndMode s i.t.rnd) i.sat bi.1 bi.2 (decodeCode i.srcf.toNat (srcElem i s tid)))

/-- VDQNT of one code (09 R164): a NaN value gives the default NaN and sets no flag. -/
def vdqntOp (src dst : Nat) (mode : RMode) (sat : Bool) (sc sp code : Nat) : Nat × Flags :=
  let v := if src = 6 then nx4Val sc sp code
    else if sc = 0xFF then .nan false
    else scaleV ((sc : Int) - 127) (decodeCode src code)
  match floatFmt dst with
  | some F => if v.isNan then (F.nanCode, 0) else convToF F mode sat v
  | none => (0, 0)
def execVdqnt (i : CvtI) (s : State) : Out :=
  cvtOp i [(i.h.b, 1)] s (fun s tid =>
    let bi := blockInfo i s tid
    vdqntOp i.srcf.toNat i.dstf.toNat (rndMode s i.t.rnd) i.sat bi.1 bi.2 (srcElem i s tid))

end Sys2Proof.Machine
end

