-- ==== Sys2Proof/Machine/HostEv.lean ====
section
/-! DEFINITION. What reaches the package from outside, and its integrity, readiness, reset and power: the host's register
accesses, CXL.mem, SPDM, the debugger, peers, boot, self-tests, errors, clock and supply (19 R305-R308, 22 R353-R366,
23 R377, 24 R381-R387, 25 R389, 33 R422, R423). -/
namespace Sys2Proof.Machine

/-- An input that has to wait comes again later. -/
def again (s : State) : State :=
  match s.turn with
  | .event e => { s with inputs := s.inputs ++ [e] }
  | _ => s

/-! ## Registers through the management space (25 R389) -/

def hostAcc (world : Bool) : Accessor := { who := .host, world := world, core := 0 }
/-- The register of an address that the host may reach. -/
def hostReg (s : State) (world write : Bool) (x : Nat) : Option RegRef :=
  if x % 8 ≠ 0 then none
  else match regRef x with
    | none => none
    | some r => if mayReach s (hostAcc world) write r then some r else none

/-- A write: one to what the host may not reach is dropped. -/
def execMgmtRegisterWrite (world : Bool) (reg : Word) (data : DWord) (s : State) : Out :=
  .next (match hostReg s world true reg.toNat with
    | some r => writeReg s (hostAcc world) r data
    | none => s)
/-- A read: its value goes out over CXL; of what the host may not reach, a value no rule gives. -/
def execMgmtRegisterRead (world : Bool) (reg : Word) (s : State) : Out :=
  .next (match hostReg s world false reg.toNat with
    | some r => { afterRead s r with cxlOut := bitsLe 8 (readReg s Carriage.none world r), cxlBad := [false] }
    | none => { s with cxlOut := (span 0 8).map (Config.freeByte s.tick), cxlBad := [false] })
def execHostQtailWrite (world : Bool) (q : Nat) (tail : DWord) (s : State) : Out :=
  .next (if q < 64 then writeTail s world q tail else s)
def execQstatStopClear (world : Bool) (q : Nat) (s : State) : Out :=
  .next (if q < 64 then clearStop s world q else s)

/-! ## Reset (24 R387) -/

def ofPeers (key : Nat) : Bool := key / 2 ^ 48 % 8 == spaceTag .hbm && key / 2 ^ 51 != Config.ownPackage
def ofHost (key : Nat) : Bool := key / 2 ^ 48 % 8 == spaceTag .host
def ofOwnHbm (key : Nat) : Bool := key / 2 ^ 48 % 8 == spaceTag .hbm && key / 2 ^ 51 == Config.ownPackage
/-- Memory after a reset: host memory and the peers' stay, SRAM is cleared, the bytes of HBM are undefined. -/
def resetMem (s : State) : Memory :=
  csetAll (s.mem.filter (fun e => ofPeers e.1 || ofHost e.1)) ((Config.hbmContents s.tick).filter (fun e => ofOwnHbm e.1))
def unclogKey : Nat := sysKey Config.ownPackage 0 2 0x20
/-- Registers after a reset: the peers' stay, and UNCLOG. -/
def resetSysr (s : State) : Cells 64 :=
  s.sysr.filter (fun e => e.1 == unclogKey || e.1 / 2 ^ 33 != Config.ownPackage)
/-- The package resets. Inputs still to come, the count of steps and the fresh number are the model's own. -/
def resetPackage (s : State) : State :=
  { State.reset with
    tick := s.tick, nextId := s.nextId, inputs := s.inputs, mem := resetMem s, sysr := resetSysr s
    mPoison := s.mPoison.filter (fun e => ofPeers (8 * e.1) || ofHost (8 * e.1)) }

def execPackageReset (s : State) : Out := .next (resetPackage s)
def execResetKeyWrite (key : DWord) (s : State) : Out :=
  .next (if key = Config.resetKey then resetPackage s else s)
/-- UNCLOG takes the error before the package resets. -/
def execUncontainedError (fn : Nat) (cls loc : BitVec 24) (s : State) : Out :=
  .next (resetPackage (wsys s 0 2 0x20 (Config.unclogWord fn cls.toNat loc.toNat)))
def execThermalTrip (celsius : Nat) (s : State) : Out :=
  .next (if 115 ≤ celsius then resetPackage (wsys s 0 2 0x20 Config.unclogThermal) else s)
/-- Input below 40 V for more than 1 ms: the package is powered on again. -/
def execInputUndervoltage (millivolt micros : Nat) (s : State) : Out :=
  .next (if millivolt < 40000 ∧ 1000 < micros then resetPackage s else s)

/-! ## Boot and readiness (22 R365, 24 R386) -/

/-- A route names ports of the part, four at most (22 R425). -/
def routeOfRecord (ports : List Nat) : List Nat := (ports.filter (fun p => p < 12)).take 4
/-- The configuration record's settings. -/
def applyRecord (s : State) (r : BootRecord) : State :=
  let s := wsys s 0 5 0x000 (r.quadWorlds.setWidth 64)
  let s := wsys s 0 5 0x008 (r.serve.setWidth 64)
  let s := wsys s 0 5 0x010 (r.portWorlds.setWidth 64)
  let s := wsys s 0 5 0x018 (r.split.setWidth 64)
  let s := r.mrgn.foldl (fun s m => if m.1 < 512 then setMrgn s (m.1 / 64) (m.1 % 64) m.2 else s) s
  { wsys (wsys s 0 4 8 r.sptbN) 1 4 8 r.sptbS with routes := r.routes.map (fun x => (x.1, routeOfRecord x.2)) }
/-- The record is read once after a reset. -/
def execBootConfigVerify (record : BootRecord) (s : State) : Out :=
  .next (if s.boot ≠ .pending then s
    else if Config.configVerifies record.bytes record.signature then { applyRecord s record with boot := .verified, record := record.bytes }
    else { s with boot := .failed })

def passed (s : State) (fn : Nat) : Bool := cget s.tested fn == 1
/-- The numbers the model gives the self-tests of a quad's matrix engine, accumulator store and tile memory. -/
def quadTests (quad : Nat) : List Nat := span (162 + 3 * quad) 3
/-- What a function's bit requires beside its own test: a core the three of its quad, a row engine its stack, a port its
link. -/
def bitAllowed (s : State) (fn : Nat) : Bool :=
  if fn < 128 then (quadTests (quadOf fn)).all (passed s)
  else if 136 ≤ fn ∧ fn < 144 then passed s (fn - 8)
  else if 146 ≤ fn ∧ fn < 158 then cget s.linked (fn - 146) == 1
  else true
/-- A function's bit is set when it may be; bits never clear here. -/
def settleBit (s : State) (fn : Nat) : State := if passed s fn && bitAllowed s fn then setReady s fn true else s

/-- The functions whose bits a test that passes may set. -/
def testedFor (fn : Nat) : List Nat :=
  if 162 ≤ fn then quadCores ((fn - 162) / 3) else if 128 ≤ fn ∧ fn < 136 then [fn, fn + 8] else [fn]
/-- VRCAP of a core, from a repaired register file (02 R40). -/
def setVrcap (s : State) (core v : Nat) : State :=
  wcore s core 0x410 (BitVec.ofNat 64 (setField (rcore s core 0x410).toNat 0 10 (min v 768 / 32 * 32)))
/-- A self-test passes. After a failed verification only the CXL link and the monitor come up; a core whose capacity
falls below 512 KiB does not. -/
def execSelfTestPass (fn : Nat) (vrcap : Nat) (s : State) : Out :=
  .next (if 258 ≤ fn ∨ s.boot = .pending then s
    else if s.boot = .failed ∧ fn ≠ 159 ∧ fn ≠ 160 then s
    else
      let s := if fn < 128 then setVrcap s fn vrcap else s
      if fn < 128 ∧ vrcap < 512 then s
      else
        let s := { s with tested := cset s.tested fn 1 }
        (testedFor fn).foldl settleBit s)

/-- Bytes of a field: cut or filled up with zeros. -/
def fieldBytes (n : Nat) (bs : List Byte) : List Byte := (bs ++ zeros n).take n
/-- The identity record up to its signature (22 R364). -/
def identityBody (s : State) : List Byte :=
  let key := fieldBytes 132 Config.identityKey
  leBytes 4 0x20000 ++ leBytes 2 Config.ownPackage ++ leBytes 2 0 ++ (sha512 key).take 8 ++ key ++ bitsLe 4 Config.firmwareVersion ++
    bitsLe 4 Config.monitorVersion ++ bitsLe 4 (Config.recordVersion s.record) ++ sha512 s.record
def identityRecord (s : State) : List Byte := identityBody s ++ fieldBytes 132 (Config.identitySign (identityBody s))

/-- A port sends its record and brings up its link when its peer's verifies. -/
def execAkbexLinkTraining (port : Nat) (peerRecord : List Byte) (s : State) : Out :=
  .next (if 12 ≤ port ∨ s.boot ≠ .verified then s
    else
      let s := { s with akbexOut := identityRecord s, akbexBad := [] }
      if Config.recordVerifies peerRecord then settleBit { s with linked := cset s.linked port 1 } (146 + port) else s)
/-- A link goes down: its port's bit clears. -/
def linkDown (s : State) (port : Nat) : State :=
  setReady { s with linked := cset s.linked port 0, crcFails := cset s.crcFails port 0 } (146 + port) false
def execPeerLinkDown (port : Nat) (s : State) : Out := .next (if port < 12 then linkDown s port else s)
def execCxlLinkDown (s : State) : Out := .next (setReady { s with tested := cset s.tested 159 0 } 159 false)

/-! ## Errors (24 R381-R384) -/

/-- CECNT rises, saturating; LCLASS reads 1. -/
def bumpCe (s : State) (fn : Nat) : State :=
  let r := (rsys s 0 2 (errStat fn)).toNat
  wsys s 0 2 (errStat fn) (BitVec.ofNat 64 (setField (setField r 0 32 (min (nbits r 0 32 + 1) (2 ^ 32 - 1))) 62 2 1))
def execCorrectedError (fn : Nat) (s : State) : Out := .next (if fn < 162 then bumpCe s fn else s)

/-- A replay that succeeds is a corrected error of the port; the eighth failure of one flit takes the link down. -/
def execLinkCrcReplay (port : Nat) (good : Bool) (s : State) : Out :=
  .next (if 12 ≤ port ∨ !ready s (146 + port) then s
    else if good then bumpCe { s with crcFails := cset s.crcFails port 0 } (146 + port)
    else
      let n := cget s.crcFails port + 1
      if 8 ≤ n.toNat then linkDown s port else { s with crcFails := cset s.crcFails port n })

/-- What ERRADDR takes: a physical address of HBM, a register number, an accumulator's slot. For the other memories the
manual gives no address. -/
def placeAddr (s : State) (p : PoisonPlace) : DWord :=
  match p with
  | .unit key => if ofOwnHbm (8 * key) then BitVec.ofNat 64 (8 * key % 2 ^ 48) else BitVec.ofNat 64 (free s 16)
  | .vreg _ reg => BitVec.ofNat 64 reg
  | .sreg _ reg => BitVec.ofNat 64 (1536 + reg)
  | .acc key => BitVec.ofNat 64 (field (cget s.accSt (key / 16384)) 24 6)
  | .row _ _ _ => BitVec.ofNat 64 (free s 16)
  | .chunk _ _ => BitVec.ofNat 64 (free s 16)
  | .contribution _ _ => BitVec.ofNat 64 (free s 16)
  | .entry _ _ => BitVec.ofNat 64 (free s 16)
/-- The stated first of the affected units, and of none no address. -/
def placesAddr (s : State) (ps : List PoisonPlace) : DWord :=
  match ps with
  | [] => BitVec.ofNat 64 (free s 16)
  | p :: _ => placeAddr s p
def badPay (u : Nat) (p : Payload) : Payload := if 8 * u < p.bytes.length then { p with bad := nubNat (u :: p.bad) } else p
/-- Entries of a sub-cart whose row at a position is poisoned. -/
def badRow (pos u : Nat) (es : List CartEntry) : List CartEntry :=
  es.map (fun en => if en.pos = pos ∧ 8 * u < en.data.length then { en with bad := nubNat (u :: en.bad) } else en)
/-- The affected element is poisoned. -/
def poisonPlace (s : State) (p : PoisonPlace) : State :=
  match p with
  | .unit key => markM s [key] true
  | .vreg tid reg => markV s [vKey tid reg] true
  | .sreg cid reg => if reg = 0 then s else onCar s cid (fun c => { c with sPoison := setBitTo c.sPoison reg true })
  | .acc key => { s with accPoison := cset s.accPoison key 1 }
  | .row sub pos u => onSub s sub (fun x => { x with entries := badRow pos u x.entries })
  | .chunk i u => { s with msgs := ((span 0 s.msgs.length).zip s.msgs).map (fun m => if m.1 = i then { m.2 with data := badPay u m.2.data } else m.2) }
  | .contribution id u => { s with combMsgs := s.combMsgs.map (fun m => if m.id = id then { m with data := badPay u m.data } else m) }
  | .entry id u => { s with combs := s.combs.map (fun e => if e.id = id then { e with data := badPay u e.data } else e) }
/-- One error poisons all the units of the granule it hits (R380, R382); ERRADDR takes the first. -/
def execContainedError (fn : Nat) (places : List PoisonPlace) (s : State) : Out :=
  .next (if 162 ≤ fn then s else noteErr (places.foldl poisonPlace s) fn (placesAddr s places))

/-! ## Clock (33 R422) -/

/-- A sample each 10 us: the clock falls a step when the last ten average above 2,400 W, or the junction of a die is above
105 °C; the temperatures of the dies come with the sample. -/
def execPowerSample (milliwatt : Nat) (milliCelsius : List Nat) (s : State) : Out :=
  let p := (milliwatt :: s.power).take 10
  let over' : Bool := 2400000 * p.length < sumNat p
  let hot := milliCelsius.any (fun t => 105000 < t)
  .next { s with
    power := p, clockStep := if over' || hot then min 12 (s.clockStep + 1) else s.clockStep
    coolUs := if milliwatt < 2300000 then s.coolUs + 10 else 0 }
/-- After 1 ms below 2,300 W it rises a step. -/
def execClockStepUp (s : State) : Out :=
  .next (if 1000 ≤ s.coolUs ∧ 0 < s.clockStep then { s with clockStep := s.clockStep - 1, coolUs := 0 } else s)

/-! ## CXL.mem (22 R363) -/

/-- The physical address of a run of host addresses, by the decoder that holds it. -/
def hdmPa (s : State) (hpa n : Nat) : Option Nat :=
  s.hdm.findSome? (fun d => if d.1 ≤ hpa && hpa + n ≤ d.1 + d.2.1 then some (d.2.2 + (hpa - d.1)) else none)

/-- A line of 64 bytes, or what is written of one; a line that is read may stay in the host's cache. -/
def cxlMem (world : Bool) (pa n : Nat) (data : Option (List Byte)) (s : State) : State :=
  let ok := unitsOk s world pa n
  -- the requester package and the space of a host's request are not given
  let note (s : State) : State :=
    if ok then s else noteMismatch s mmCxl world (BitVec.ofNat 16 (free s 17)) (free s 18) (BitVec.ofNat 64 pa)
  match data with
  | some bs => if ok then mwrite s (hk pa) bs else note s
  | none =>
    { note s with
      cxlOut := if ok then mread s (hk pa) n else zeros n
      cxlBad := (unitsTouched (hk pa) n).map (fun u => !ok || cget s.mPoison u == 1)
      hostLines := if ok then nubNat (pa / 64 :: s.hostLines) else s.hostLines }
/-- A request at a host address that a decoder maps into HBM. -/
def execCxlMemRequest (world : Bool) (hpa : Nat) (data : Option (List Byte)) (s : State) : Out :=
  let n := match data with
    | some bs => bs.length
    | none => 64
  .next (match hdmPa s hpa n with
    | some pa => if !ready s 159 || n = 0 || 2 ^ 39 < pa + n then s else cxlMem world pa n data s
    | none => s)

/-! ## SPDM over the DOE mailbox (22 R366) -/

/-- The measurements 1 to 4. -/
def measurements (s : State) : List (List Byte) := [sha512 Config.firmware, sha512 Config.monitor, sha512 s.record, identityRecord s]
/-- What a reply holds that the manual fixes: the one selection of algorithms, ECDSA P-521 and SHA-512, in the numbers of
SPDM 1.2 (PRESUMED, log 133); the digest of slot 0's chain and the part of it asked for; the measurements asked for. -/
def spdmParts (s : State) (code : Nat) (request : List Byte) : List (List Byte) :=
  match code with
  | 2 => [leBytes 4 0x100, leBytes 4 4]
  | 3 => [sha512 Config.certChain]
  | 4 => [(Config.certChain.drop (Config.chainAsked request).1).take (Config.chainAsked request).2]
  | 6 => ((span 1 4).zip (measurements s)).filterMap (fun m => if Config.measurementAsked request m.1 then some m.2 else none)
  | _ => []
/-- A reply: those parts in order, with what else the message brings, which depends on keys and nonces, around them. -/
def spdmReply (s : State) (code : Nat) (request : List Byte) : List Byte :=
  let ps := spdmParts s code request
  ((span 0 ps.length).zip ps).flatMap (fun p => Config.spdmFrame s.tick code request p.1 ++ p.2) ++ Config.spdmFrame s.tick code request ps.length
def spdm (s : State) (code : Nat) (request : List Byte) : Out :=
  .next (if ready s 159 then { s with spdmOut := spdmReply s code request } else s)
def execGetVersion (request : List Byte) (s : State) : Out := spdm s 0 request
def execGetCapabilities (request : List Byte) (s : State) : Out := spdm s 1 request
def execNegotiateAlgorithms (request : List Byte) (s : State) : Out := spdm s 2 request
def execGetDigests (request : List Byte) (s : State) : Out := spdm s 3 request
def execGetCertificate (request : List Byte) (s : State) : Out := spdm s 4 request
def execChallenge (request : List Byte) (s : State) : Out := spdm s 5 request
def execGetMeasurements (request : List Byte) (s : State) : Out := spdm s 6 request

/-! ## The debugger (23 R377) -/

/-- A request halts a carriage between instructions. -/
def execDebuggerHalt (cid : Nat) (s : State) : Out :=
  .next (onCar s cid (fun c => if Config.debugOn c.world then { c with halted := true } else c))

/-- The shared-memory key of a byte of a core's local store, when a coach's area holds it (11 R189, R190). -/
def localKey (s : State) (core addr : Nat) : Option Nat :=
  (resident s core).findSome? (fun k =>
    let size := carveBytes k.rcd.carve
    ((span 0 k.areas.length).zip ((coachCores k).zip k.areas)).findSome? (fun x =>
      if x.2.1 = core ∧ x.2.2 * size ≤ addr ∧ addr < (x.2.2 + 1) * size then
        some (memKey .shm k.id (x.1 * size + (addr - x.2.2 * size)))
      else none))
/-- A line of a key is owned so that the access waits (11 R193). -/
def dbgBlocked (s : State) (write : Bool) (keys : List Nat) : Bool :=
  (keyLines keys).any (fun l => lineExcl s l || (write && lineShared s l))
/-- An access of the local store waits on owned lines; of the engine cache's bytes the manual tells nothing: they read
as any value. -/
def execDebuggerAccess (core addr : Nat) (data : Option (List Byte)) (s : State) : Out :=
  let n := match data with
    | some bs => bs.length
    | none => 8
  let at' := (span addr n).map (localKey s core)
  let keys := at'.filterMap id
  .next (if dbgBlocked s data.isSome keys then again s
    else match data with
      | some bs =>
        let es := (at'.zip bs).filterMap (fun x => x.1.map (fun k => (k, x.2)))
        storeBytes s (es.map (fun e => e.1)) (es.map (fun e => e.2)) false
      | none => { s with dbgOut := ((span 0 n).zip at').map (fun x => match x.2 with
          | some k => mget s k
          | none => Config.freeByte s.tick x.1) })

/-! ## Peers (13 R216, R218, 15 R248-R250, 16 R270, R271, 22 R359, 25 R393) -/

/-- A physical range of this package's HBM. -/
def inHbm (pa n : Nat) : Bool := pa + n ≤ 2 ^ 39 && n != 0
/-- A peer's access of memory: its row engine takes it, or drops and counts it (22 R353, R359, R426). -/
def peerAccess (s : State) (world : Bool) (space : BitVec 16) (req pa n : Nat) (body : State → State) : State :=
  if !inHbm pa n then s else if rowsTake s world pa n then body s else noteRow s Config.ownPackage pa world space req

/-- The poison of the 8-byte units of a run. -/
def unitMarks (s : State) (key n : Nat) : List Bool := (unitsTouched key n).map (fun u => cget s.mPoison u == 1)
/-- A peer's atomic, performed here at the location's home. -/
def peerAmog (s : State) (pa : Nat) (aop : BitVec 4) (wide : Bool) (b cmp : DWord) : State :=
  let n := if wide then 8 else 4
  if mBad s (hk pa) n then s else mwrite s (hk pa) (amogBytes wide aop (mread s (hk pa) n) b cmp)
/-- A peer's copy writes unit by unit of 64 KiB until one is dropped; poison lands with its unit (24 R383). -/
def peerWrite (s : State) (world : Bool) (space : BitVec 16) (req : Nat) : List (Nat × Nat) → Payload → State
  | [], _ => s
  | (pa, n) :: r, p =>
    let s' := peerAccess s world space req pa n (fun s => markRun (mwrite s (hk pa) (p.bytes.take n)) n p.bad (hk pa))
    if inHbm pa n && rowsTake s world pa n then peerWrite s' world space req r (cutPay p n p.bytes.length) else s'
/-- `n` bytes are dropped flit by flit of 64, each counted (22 R353, R426), and collectives that this ends. -/
def dropFlit (s : State) (port : Nat) (world : Bool) (space : BitVec 16) (req : Nat) (word : DWord) (n : Nat) (hit : Coll → Bool) : State :=
  let s := (span 0 (max 1 (ceilDiv n 64))).foldl (fun s _ => noteMismatch s (mmPort port) world space req word) s
  (s.colls.filter hit).foldl (fun s c => endColl s c.id (some .world)) s

def peerHead (world : Bool) (space : BitVec 16) (req core : Nat) (token : DWord) (typ pool fmt rowBytes : Nat) (base : DWord) (stride : Nat) : CartHead :=
  { op := 0, typ := typ, world := world, pool := pool, space := space, reqPkg := req, reqCore := core, token := token, fmt := fmt, rowBytes := rowBytes
    base := base, stride := stride }
def peerEntry (e : PeerEntry) : CartEntry :=
  { row := e.row, pos := e.pos, bag := e.bag, mult := e.mult, slot := e.slot, die := e.die % 2, stack := 4 * (e.die % 2) + e.stack % 4, data := e.data.bytes
    bad := e.data.bad, code := 0, cause := 0, keys := [], done := [] }
/-- A peer's sub-cart at the port of its arrival: the home switch drops one of the other world,
and a reply with code 5 at every position goes back (R218). -/
def peerSub (s : State) (port : Nat) (h : CartHead) (es : List CartEntry) : State :=
  let n := newId s
  let x : SubCart := { id := n.1, head := h, pkg := Config.ownPackage, stage := 1, deadline := 0, entries := es, diesLeft := 0
                       got := [], bagAcc := [] }
  if portWorld s port = h.world then { n.2 with subs := n.2.subs ++ [x] }
  else
    let m := newId (es.foldl (fun s en => noteMismatch s mmHomeSwitch h.world h.space h.reqPkg (BitVec.ofNat 64 en.row)) n.2)
    let rep : CartReply := { id := m.1, op := 0, sub := n.1, stage := 0, entries := es.map (failEntry 5 .world), bags := [] }
    { m.2 with subs := m.2.subs ++ [{ x with stage := 2, diesLeft := 1 }], replies := m.2.replies ++ [rep] }

/-- A request for a saved coach waits for its restore. -/
def peerSig (s : State) (world : Bool) (space : BitVec 16) (lid : DWord) (coach ctr inc : Nat) : State :=
  match sigTarget s world space lid coach with
  | some k => if coachAway s k then again s else actr s k ctr (BitVec.ofNat 32 inc)
  | none => s

/-- The world, space and requester of a request that is no sub-cart and no flit of a collective; a TLBI does not name its
requester. -/
def peerPlain (s : State) : PeerRequest → Option (Bool × BitVec 16 × Nat)
  | .amog world space req _ _ _ _ _ => some (world, space, req)
  | .sigN world space req _ _ _ _ => some (world, space, req)
  | .sigW world space req _ _ => some (world, space, req)
  | .copyRead world space req _ _ => some (world, space, req)
  | .copyWrite world space req _ _ => some (world, space, req)
  | .tlbi world _ space _ => some (world, space, free s 40)
  | _ => none

def peerRequest (s : State) (port : Nat) (req : PeerRequest) : State :=
  match req with
  | .amog world space req pa aop wide b cmp =>
    peerAccess s world space req pa (if wide then 8 else 4) (fun s => peerAmog s pa aop wide b cmp)
  | .sigN world space _ lid coach ctr inc => peerSig s world space lid coach (ctr % 8) inc
  | .sigW world space req pa data => peerAccess s world space req pa 8 (fun s => mwrite s (hk pa) (bitsLe 8 data))
  | .copyRead world space req pa len =>
    if (routePort s req).isNone then again s
    else peerAccess s world space req pa len (fun s => { s with akbexOut := mread s (hk pa) len, akbexBad := unitMarks s (hk pa) len })
  | .copyWrite world space req pa data => peerWrite s world space req (piecesOf pa data.bytes.length) data
  | .tlbi world kind space va =>
    -- it has completed here once the operations that used an entry have finished
    let users := tlbiUsers s false kind.toNat world space va
    let s := tlbRemove s false kind.toNat world space va
    if users.isEmpty then s else again s
  | .subcart world space reqPkg core token typ pool fmt rowBytes base stride entries =>
    peerSub s port (peerHead world space reqPkg core token typ pool fmt rowBytes base stride) (entries.map peerEntry)
  | .flit world space reqPkg group src dst word data =>
    let l : CollLink := { world := world, group := group, src := src, dst := dst }
    if portWorld s port = world then deliverMsg s l data
    else dropFlit s port world space reqPkg word data.bytes.length (fun c => c.world == world && c.group == group && c.rank == dst)
  | .combine world space reqPkg group step lcs unit src expect oper rk rd dest word data =>
    let key : CombKey := { world := world, group := group, step := step, lcs := lcs, unit := unit }
    if portWorld s port ≠ world then
      dropFlit s port world space reqPkg word data.bytes.length (fun c => match c.run with
        | .cmb _ units => units.any (fun u => combKeyOf c u == key)
        | _ => false)
    else
      let n := newId s
      { n.2 with combMsgs := n.2.combMsgs ++ [{
          id := n.1, key := key, form := { expect := expect, oper := oper.toNat, rk := rk, rd := rd, dest := dest }
          coll := 0, src := src, count := 1, data := data, toRank := none }] }
  | .combResult world space reqPkg group step lcs unit rank count expect oper rk rd word data =>
    let key : CombKey := { world := world, group := group, step := step, lcs := lcs, unit := unit }
    if portWorld s port ≠ world then
      dropFlit s port world space reqPkg word data.bytes.length (fun c => c.world == world && c.group == group && c.rank == rank)
    else toRank s key { expect := expect, oper := oper.toNat, rk := rk, rd := rd, dest := some rank } rank count rank data

/-- A request comes in at a port whose link is up. The port drops one of the other world; a sub-cart is dropped at the
home switch (13 R218), a flit of a collective with the collectives it ends. -/
def execPeerRequestArrival (port : Nat) (req : PeerRequest) (s : State) : Out :=
  .next (if port < 12 && ready s (146 + port) then
      match peerPlain s req with
      | some (world, space, pkg) =>
        if portWorld s port = world then peerRequest s port req
        else noteMismatch s (mmPort port) world space pkg (BitVec.ofNat 64 (free s 39))
      | none => peerRequest s port req
    else s)

end Sys2Proof.Machine
end

