-- ==== Sys2Proof/Machine/Dispatch.lean ====
section
/-! DEFINITION. The meaning of every instruction: one arm per constructor of Instr, a direct call each. -/
namespace Sys2Proof.Machine

def exec (i : Instr) (s : State) : Host.Outcome State Fault Refusal :=
  match i with
  | .ill rest => Sys2Proof.Machine.execIll rest s
  | .reservedOpcode opc rest => Sys2Proof.Machine.execReservedOpcode opc rest s
  | .sadd x => Sys2Proof.Machine.execSadd x s
  | .ssub x => Sys2Proof.Machine.execSsub x s
  | .smul x => Sys2Proof.Machine.execSmul x s
  | .smulh x => Sys2Proof.Machine.execSmulh x s
  | .sdiv x => Sys2Proof.Machine.execSdiv x s
  | .srem x => Sys2Proof.Machine.execSrem x s
  | .sand x => Sys2Proof.Machine.execSand x s
  | .sor x => Sys2Proof.Machine.execSor x s
  | .sxor x => Sys2Proof.Machine.execSxor x s
  | .sshl x => Sys2Proof.Machine.execSshl x s
  | .sshr x => Sys2Proof.Machine.execSshr x s
  | .ssra x => Sys2Proof.Machine.execSsra x s
  | .smin x => Sys2Proof.Machine.execSmin x s
  | .smax x => Sys2Proof.Machine.execSmax x s
  | .scmp x => Sys2Proof.Machine.execScmp x s
  | .ssel x => Sys2Proof.Machine.execSsel x s
  | .smov x => Sys2Proof.Machine.execSmov x s
  | .sbfx x => Sys2Proof.Machine.execSbfx x s
  | .sbfi x => Sys2Proof.Machine.execSbfi x s
  | .sbitc x => Sys2Proof.Machine.execSbitc x s
  | .slea x => Sys2Proof.Machine.execSlea x s
  | .sget x => Sys2Proof.Machine.execSget x s
  | .sput x => Sys2Proof.Machine.execSput x s
  | .sfma x => Sys2Proof.Machine.execSfma x s
  | .sfcvt x => Sys2Proof.Machine.execSfcvt x s
  | .bra x => Sys2Proof.Machine.execBra x s
  | .brx x => Sys2Proof.Machine.execBrx x s
  | .lpad x => Sys2Proof.Machine.execLpad x s
  | .call x => Sys2Proof.Machine.execCall x s
  | .ret x => Sys2Proof.Machine.execRet x s
  | .loop x => Sys2Proof.Machine.execLoop x s
  | .dbr x => Sys2Proof.Machine.execDbr x s
  | .join x => Sys2Proof.Machine.execJoin x s
  | .exit x => Sys2Proof.Machine.execExit x s
  | .yield x => Sys2Proof.Machine.execYield x s
  | .waitc x => Sys2Proof.Machine.execWaitc x s
  | .waith x => Sys2Proof.Machine.execWaith x s
  | .tsth x => Sys2Proof.Machine.execTsth x s
  | .canh x => Sys2Proof.Machine.execCanh x s
  | .bar x => Sys2Proof.Machine.execBar x s
  | .launch x => Sys2Proof.Machine.execLaunch x s
  | .spawn x => Sys2Proof.Machine.execSpawn x s
  | .spawnf x => Sys2Proof.Machine.execSpawnf x s
  | .trap x => Sys2Proof.Machine.execTrap x s
  | .brk x => Sys2Proof.Machine.execBrk x s
  | .sysc x => Sys2Proof.Machine.execSysc x s
  | .pause x => Sys2Proof.Machine.execPause x s
  | .sploop x => Sys2Proof.Machine.execSploop x s
  | .guess x => Sys2Proof.Machine.execGuess x s
  | .accept x => Sys2Proof.Machine.execAccept x s
  | .spend x => Sys2Proof.Machine.execSpend x s
  | .spmark x => Sys2Proof.Machine.execSpmark x s
  | .spquit x => Sys2Proof.Machine.execSpquit x s
  | .vaddI32 x => Sys2Proof.Machine.execVaddI32 x s
  | .vaddI64 x => Sys2Proof.Machine.execVaddI64 x s
  | .vsubI32 x => Sys2Proof.Machine.execVsubI32 x s
  | .vsubI64 x => Sys2Proof.Machine.execVsubI64 x s
  | .vmulI32 x => Sys2Proof.Machine.execVmulI32 x s
  | .vmulI64 x => Sys2Proof.Machine.execVmulI64 x s
  | .vmadI32 x => Sys2Proof.Machine.execVmadI32 x s
  | .vand x => Sys2Proof.Machine.execVand x s
  | .vor x => Sys2Proof.Machine.execVor x s
  | .vxor x => Sys2Proof.Machine.execVxor x s
  | .vshl x => Sys2Proof.Machine.execVshl x s
  | .vshr x => Sys2Proof.Machine.execVshr x s
  | .vsra x => Sys2Proof.Machine.execVsra x s
  | .vminI32 x => Sys2Proof.Machine.execVminI32 x s
  | .vmaxI32 x => Sys2Proof.Machine.execVmaxI32 x s
  | .vcmpI32 x => Sys2Proof.Machine.execVcmpI32 x s
  | .vcmpI64 x => Sys2Proof.Machine.execVcmpI64 x s
  | .vsel x => Sys2Proof.Machine.execVsel x s
  | .vmov x => Sys2Proof.Machine.execVmov x s
  | .vbfx x => Sys2Proof.Machine.execVbfx x s
  | .vbitc x => Sys2Proof.Machine.execVbitc x s
  | .vtid x => Sys2Proof.Machine.execVtid x s
  | .vshfl x => Sys2Proof.Machine.execVshfl x s
  | .vscan x => Sys2Proof.Machine.execVscan x s
  | .vpred x => Sys2Proof.Machine.execVpred x s
  | .vrds x => Sys2Proof.Machine.execVrds x s
  | .vdot4I8 x => Sys2Proof.Machine.execVdot4I8 x s
  | .vfaddF32 x => Sys2Proof.Machine.execVfaddF32 x s
  | .vfaddF64 x => Sys2Proof.Machine.execVfaddF64 x s
  | .vfmulF32 x => Sys2Proof.Machine.execVfmulF32 x s
  | .vfmulF64 x => Sys2Proof.Machine.execVfmulF64 x s
  | .vfmaF32 x => Sys2Proof.Machine.execVfmaF32 x s
  | .vfmaF64 x => Sys2Proof.Machine.execVfmaF64 x s
  | .vfmaH2 x => Sys2Proof.Machine.execVfmaH2 x s
  | .vfmaBf2 x => Sys2Proof.Machine.execVfmaBf2 x s
  | .vfminF32 x => Sys2Proof.Machine.execVfminF32 x s
  | .vfmaxF32 x => Sys2Proof.Machine.execVfmaxF32 x s
  | .vfminF64 x => Sys2Proof.Machine.execVfminF64 x s
  | .vfmaxF64 x => Sys2Proof.Machine.execVfmaxF64 x s
  | .vfcmpF32 x => Sys2Proof.Machine.execVfcmpF32 x s
  | .vfcmpF64 x => Sys2Proof.Machine.execVfcmpF64 x s
  | .vfdivF32 x => Sys2Proof.Machine.execVfdivF32 x s
  | .vfdivF64 x => Sys2Proof.Machine.execVfdivF64 x s
  | .vfsqrtF32 x => Sys2Proof.Machine.execVfsqrtF32 x s
  | .vfsqrtF64 x => Sys2Proof.Machine.execVfsqrtF64 x s
  | .vfrcpF32 x => Sys2Proof.Machine.execVfrcpF32 x s
  | .vfrsqF32 x => Sys2Proof.Machine.execVfrsqF32 x s
  | .vfexp2F32 x => Sys2Proof.Machine.execVfexp2F32 x s
  | .vflog2F32 x => Sys2Proof.Machine.execVflog2F32 x s
  | .vfclass x => Sys2Proof.Machine.execVfclass x s
  | .vfrnd x => Sys2Proof.Machine.execVfrnd x s
  | .vcvtFf x => Sys2Proof.Machine.execVcvtFf x s
  | .vcvtFi x => Sys2Proof.Machine.execVcvtFi x s
  | .vcvtIf x => Sys2Proof.Machine.execVcvtIf x s
  | .vqnt x => Sys2Proof.Machine.execVqnt x s
  | .vdqnt x => Sys2Proof.Machine.execVdqnt x s
  | .vbsc x => Sys2Proof.Machine.execVbsc x s
  | .lds x => Sys2Proof.Machine.execLds x s
  | .sts x => Sys2Proof.Machine.execSts x s
  | .ldd x => Sys2Proof.Machine.execLdd x s
  | .std x => Sys2Proof.Machine.execStd x s
  | .ldl x => Sys2Proof.Machine.execLdl x s
  | .stl x => Sys2Proof.Machine.execStl x s
  | .atoms x => Sys2Proof.Machine.execAtoms x s
  | .atomd x => Sys2Proof.Machine.execAtomd x s
  | .fence x => Sys2Proof.Machine.execFence x s
  | .sld x => Sys2Proof.Machine.execSld x s
  | .sst x => Sys2Proof.Machine.execSst x s
  | .satom x => Sys2Proof.Machine.execSatom x s
  | .qpop x => Sys2Proof.Machine.execQpop x s
  | .qpush x => Sys2Proof.Machine.execQpush x s
  | .cpy x => Sys2Proof.Machine.execCpy x s
  | .cpyt x => Sys2Proof.Machine.execCpyt x s
  | .gat x => Sys2Proof.Machine.execGat x s
  | .gatp x => Sys2Proof.Machine.execGatp x s
  | .sca x => Sys2Proof.Machine.execSca x s
  | .scaa x => Sys2Proof.Machine.execScaa x s
  | .amog x => Sys2Proof.Machine.execAmog x s
  | .sigN x => Sys2Proof.Machine.execSigN x s
  | .sigW x => Sys2Proof.Machine.execSigW x s
  | .ctrs x => Sys2Proof.Machine.execCtrs x s
  | .triga x => Sys2Proof.Machine.execTriga x s
  | .coll x => Sys2Proof.Machine.execColl x s
  | .kvapp x => Sys2Proof.Machine.execKvapp x s
  | .kvfork x => Sys2Proof.Machine.execKvfork x s
  | .kvmap x => Sys2Proof.Machine.execKvmap x s
  | .kvfree x => Sys2Proof.Machine.execKvfree x s
  | .pfxf x => Sys2Proof.Machine.execPfxf x s
  | .pfxi x => Sys2Proof.Machine.execPfxi x s
  | .route x => Sys2Proof.Machine.execRoute x s
  | .edrn x => Sys2Proof.Machine.execEdrn x s
  | .mmaE4 x => Sys2Proof.Machine.execMmaE4 x s
  | .mmaE5 x => Sys2Proof.Machine.execMmaE5 x s
  | .mmaNx4 x => Sys2Proof.Machine.execMmaNx4 x s
  | .mmaBf16 x => Sys2Proof.Machine.execMmaBf16 x s
  | .mmaF16 x => Sys2Proof.Machine.execMmaF16 x s
  | .mmaF32 x => Sys2Proof.Machine.execMmaF32 x s
  | .mmaF64 x => Sys2Proof.Machine.execMmaF64 x s
  | .mmaI8 x => Sys2Proof.Machine.execMmaI8 x s
  | .mmspE4 x => Sys2Proof.Machine.execMmspE4 x s
  | .mmspBf16 x => Sys2Proof.Machine.execMmspBf16 x s
  | .mmssBf16 x => Sys2Proof.Machine.execMmssBf16 x s
  | .mmrkBf16 x => Sys2Proof.Machine.execMmrkBf16 x s
  | .accdef x => Sys2Proof.Machine.execAccdef x s
  | .accld x => Sys2Proof.Machine.execAccld x s
  | .accst x => Sys2Proof.Machine.execAccst x s
  | .accstat x => Sys2Proof.Machine.execAccstat x s
  | .tld x => Sys2Proof.Machine.execTld x s
  | .tst x => Sys2Proof.Machine.execTst x s
  | .tdesc x => Sys2Proof.Machine.execTdesc x s
  | .rkins x => Sys2Proof.Machine.execRkins x s
  | .rkmrg x => Sys2Proof.Machine.execRkmrg x s
  | .rkthr x => Sys2Proof.Machine.execRkthr x s
  | .rkout x => Sys2Proof.Machine.execRkout x s
  | .sysrd x => Sys2Proof.Machine.execSysrd x s
  | .syswr x => Sys2Proof.Machine.execSyswr x s
  | .eret x => Sys2Proof.Machine.execEret x s
  | .monc x => Sys2Proof.Machine.execMonc x s
  | .tlbi x => Sys2Proof.Machine.execTlbi x s
  | .ctxsv x => Sys2Proof.Machine.execCtxsv x s
  | .ctxld x => Sys2Proof.Machine.execCtxld x s
  | .haltc x => Sys2Proof.Machine.execHaltc x s
  | .pgchk x => Sys2Proof.Machine.execPgchk x s
  | .apSld x => Sys2Proof.Machine.execApSld x s
  | .apQpop x => Sys2Proof.Machine.execApQpop x s
  | .apQpush x => Sys2Proof.Machine.execApQpush x s
  | .apExit x => Sys2Proof.Machine.execApExit x s
  | .loadDataArrival load elem => Sys2Proof.Machine.execLoadDataArrival load elem s
  | .storePerformed store => Sys2Proof.Machine.execStorePerformed store s
  | .ownershipGrant op => Sys2Proof.Machine.execOwnershipGrant op s
  | .sourceLineRelease op line => Sys2Proof.Machine.execSourceLineRelease op line s
  | .engineCompletion op => Sys2Proof.Machine.execEngineCompletion op s
  | .cancelStop op => Sys2Proof.Machine.execCancelStop op s
  | .cartLocalSwitch op => Sys2Proof.Machine.execCartLocalSwitch op s
  | .cartHomeSwitch sub => Sys2Proof.Machine.execCartHomeSwitch sub s
  | .rowEngineCart part => Sys2Proof.Machine.execRowEngineCart part s
  | .bridgePoolCombine sub die => Sys2Proof.Machine.execBridgePoolCombine sub die s
  | .replySwitchCombine reply => Sys2Proof.Machine.execReplySwitchCombine reply s
  | .cartReplyPlace reply => Sys2Proof.Machine.execCartReplyPlace reply s
  | .subcartHoldRelease sub => Sys2Proof.Machine.execSubcartHoldRelease sub s
  | .subcartNotreadyTimeout sub => Sys2Proof.Machine.execSubcartNotreadyTimeout sub s
  | .collEnd coll => Sys2Proof.Machine.execCollEnd coll s
  | .collSend coll => Sys2Proof.Machine.execCollSend coll s
  | .collRecv coll => Sys2Proof.Machine.execCollRecv coll s
  | .collRrs coll => Sys2Proof.Machine.execCollRrs coll s
  | .collCopy coll => Sys2Proof.Machine.execCollCopy coll s
  | .collWait coll => Sys2Proof.Machine.execCollWait coll s
  | .collLoop coll => Sys2Proof.Machine.execCollLoop coll s
  | .collCmb coll => Sys2Proof.Machine.execCollCmb coll s
  | .collSlotStart coll => Sys2Proof.Machine.execCollSlotStart coll s
  | .collStepTimeout coll => Sys2Proof.Machine.execCollStepTimeout coll s
  | .collStartTimeout op => Sys2Proof.Machine.execCollStartTimeout op s
  | .combineContribution msg => Sys2Proof.Machine.execCombineContribution msg s
  | .rawContributionArrival msg => Sys2Proof.Machine.execRawContributionArrival msg s
  | .combineEntryTimeout entry => Sys2Proof.Machine.execCombineEntryTimeout entry s
  | .bypassRecordTimeout rec' => Sys2Proof.Machine.execBypassRecordTimeout rec' s
  | .triggerFire trig => Sys2Proof.Machine.execTriggerFire trig s
  | .triggerTimebaseTick trig => Sys2Proof.Machine.execTriggerTimebaseTick trig s
  | .yieldResume cid => Sys2Proof.Machine.execYieldResume cid s
  | .launchAccept world q => Sys2Proof.Machine.execLaunchAccept world q s
  | .coachPlace launch => Sys2Proof.Machine.execCoachPlace launch s
  | .coachRetire coach => Sys2Proof.Machine.execCoachRetire coach s
  | .successorStart coach => Sys2Proof.Machine.execSuccessorStart coach s
  | .binTimerExpiry core bin => Sys2Proof.Machine.execBinTimerExpiry core bin s
  | .spawnedCarriagePlace firing => Sys2Proof.Machine.execSpawnedCarriagePlace firing s
  | .spawnCoachRetire coach => Sys2Proof.Machine.execSpawnCoachRetire coach s
  | .dbrRegroup cid => Sys2Proof.Machine.execDbrRegroup cid s
  | .pathCarriageForm path => Sys2Proof.Machine.execPathCarriageForm path s
  | .joinReconverge coach entry => Sys2Proof.Machine.execJoinReconverge coach entry s
  | .barRelease coach coreOnly => Sys2Proof.Machine.execBarRelease coach coreOnly s
  | .spinTimeout cid => Sys2Proof.Machine.execSpinTimeout cid s
  | .passGrant quad => Sys2Proof.Machine.execPassGrant quad s
  | .passOvertake quad => Sys2Proof.Machine.execPassOvertake quad s
  | .passWriteback quad => Sys2Proof.Machine.execPassWriteback quad s
  | .kvReserve op => Sys2Proof.Machine.execKvReserve op s
  | .appendLand op => Sys2Proof.Machine.execAppendLand op s
  | .specKvappRelease op => Sys2Proof.Machine.execSpecKvappRelease op s
  | .kvforkArrive op => Sys2Proof.Machine.execKvforkArrive op s
  | .kvfreeArrive op => Sys2Proof.Machine.execKvfreeArrive op s
  | .pfxLookupArrive op => Sys2Proof.Machine.execPfxLookupArrive op s
  | .pfxInsertArrive op => Sys2Proof.Machine.execPfxInsertArrive op s
  | .scrubberTick pool => Sys2Proof.Machine.execScrubberTick pool s
  | .pgchkCheck op => Sys2Proof.Machine.execPgchkCheck op s
  | .poolDisable pool => Sys2Proof.Machine.execPoolDisable pool s
  | .routeRun op => Sys2Proof.Machine.execRouteRun op s
  | .routeNotreadyTimeout op => Sys2Proof.Machine.execRouteNotreadyTimeout op s
  | .windowStart cid => Sys2Proof.Machine.execWindowStart cid s
  | .windowEnd cid => Sys2Proof.Machine.execWindowEnd cid s
  | .tlbiComplete cid => Sys2Proof.Machine.execTlbiComplete cid s
  | .hostQtailWrite world q tail => Sys2Proof.Machine.execHostQtailWrite world q tail s
  | .qstatStopClear world q => Sys2Proof.Machine.execQstatStopClear world q s
  | .poolEnable pool cfg => Sys2Proof.Machine.execPoolEnable pool cfg s
  | .preemptSaveRequest world prq => Sys2Proof.Machine.execPreemptSaveRequest world prq s
  | .preemptEligible world => Sys2Proof.Machine.execPreemptEligible world s
  | .preemptDeadline world => Sys2Proof.Machine.execPreemptDeadline world s
  | .preemptRestoreRequest world prq => Sys2Proof.Machine.execPreemptRestoreRequest world prq s
  | .restorePlace world => Sys2Proof.Machine.execRestorePlace world s
  | .debuggerHalt cid => Sys2Proof.Machine.execDebuggerHalt cid s
  | .debuggerAccess core addr data => Sys2Proof.Machine.execDebuggerAccess core addr data s
  | .mgmtRegisterWrite world reg data => Sys2Proof.Machine.execMgmtRegisterWrite world reg data s
  | .resetKeyWrite key => Sys2Proof.Machine.execResetKeyWrite key s
  | .cxlMemRequest world hpa data => Sys2Proof.Machine.execCxlMemRequest world hpa data s
  | .getVersion request => Sys2Proof.Machine.execGetVersion request s
  | .getCapabilities request => Sys2Proof.Machine.execGetCapabilities request s
  | .negotiateAlgorithms request => Sys2Proof.Machine.execNegotiateAlgorithms request s
  | .getDigests request => Sys2Proof.Machine.execGetDigests request s
  | .getCertificate request => Sys2Proof.Machine.execGetCertificate request s
  | .challenge request => Sys2Proof.Machine.execChallenge request s
  | .getMeasurements request => Sys2Proof.Machine.execGetMeasurements request s
  | .akbexLinkTraining port peerRecord => Sys2Proof.Machine.execAkbexLinkTraining port peerRecord s
  | .linkCrcReplay port good => Sys2Proof.Machine.execLinkCrcReplay port good s
  | .bootConfigVerify record => Sys2Proof.Machine.execBootConfigVerify record s
  | .selfTestPass fn vrcap => Sys2Proof.Machine.execSelfTestPass fn vrcap s
  | .correctedError fn => Sys2Proof.Machine.execCorrectedError fn s
  | .containedError fn places => Sys2Proof.Machine.execContainedError fn places s
  | .uncontainedError fn cls loc => Sys2Proof.Machine.execUncontainedError fn cls loc s
  | .packageReset => Sys2Proof.Machine.execPackageReset s
  | .powerSample milliwatt milliCelsius => Sys2Proof.Machine.execPowerSample milliwatt milliCelsius s
  | .clockStepUp => Sys2Proof.Machine.execClockStepUp s
  | .thermalTrip celsius => Sys2Proof.Machine.execThermalTrip celsius s
  | .inputUndervoltage millivolt micros => Sys2Proof.Machine.execInputUndervoltage millivolt micros s
  | .peerLinkDown port => Sys2Proof.Machine.execPeerLinkDown port s
  | .cxlLinkDown => Sys2Proof.Machine.execCxlLinkDown s
  | .peerRequestArrival port req => Sys2Proof.Machine.execPeerRequestArrival port req s
  | .mgmtRegisterRead world reg => Sys2Proof.Machine.execMgmtRegisterRead world reg s

end Sys2Proof.Machine
end

