-- ==== Sys2Proof/Machine/Sched.lean ====
section
/-! DEFINITION. The fetch of an instruction with its checks, issue by priority and age, the end of a step, and the choice
of what moves next: a carriage that its core may issue from, any access processor that runs, any event of the machine, an
inner turn, the next input, or time alone (03 R44-R46, R53, R63, R64, 14 R241-R243, 19 R309, R312-R314). Which of them
moves is a free choice, but what may move for ever does move. -/
namespace Sys2Proof.Machine

/-! ## Fetching and decoding (03 R45, R64) -/

def fateCause : DecodeFate → Cause
  | .reservedModifier => .reservedModifier
  | .illegalOperand => .illegalOperand
  | .apIllegal => .apIllegal

/-- A reserved J of a ranked-list instruction is a reserved modifier, found before an illegal operand. -/
def badJ (s : State) (w : InstrBits) : Bool :=
  match decodeRaw w with
  | .rkins i => jReserved s (rkJ i)
  | .rkmrg i => jReserved s (mrgJ i)
  | .rkthr i => jReserved s (rkJ i)
  | .rkout i => jReserved s (rkJ i)
  | _ => false
/-- The instruction of twelve bytes, or the cause it raises. -/
def decodeFor (s : State) (bs : List Byte) : Except Cause Instr :=
  let w := bitsOfBytes bs
  match (if s.apMode then decodeAp w else decode w) with
  | .ok i => .ok i
  | .error .illegalOperand => .error (if !s.apMode && badJ s w then .reservedModifier else .illegalOperand)
  | .error f => .error (fateCause f)

/-- The instruction at the pc of what moves, or the state after the trap of its fetch or of its decoding; a fetch that
its route cannot deliver waits. -/
def fetchDecode (s : State) : Except State Instr :=
  let a := pcOf s
  if a.toNat % 4 ≠ 0 then .error (trapAt s .pcAlign a)
  else if !fetchUp s a 12 then .error s
  else match fetchAt s a with
    | .error c => .error (trapAt (noteFetch s c a) .fetchFault a)
    | .ok bs =>
      match decodeFor s bs with
      | .error c => .error (trapC s c)
      | .ok i => .ok i

/-! ## Who may move -/

/-- A save request is to stop the coach: it is eligible. -/
def stopDue (s : State) (k : Coach) : Bool := s.preempt.any (fun p => !p.restore && p.coach == k.id) && eligible s k
/-- The carriage's coach is neither stopped nor saved, nor due to be stopped (23 R373). -/
def coachRuns (s : State) (c : Carriage) : Bool := !s.coaches.any (fun k => k.id == c.coach && (k.stopped || k.saved || stopDue s k))
/-- The carriage may issue: it waits for nothing and is not halted. -/
def mayIssue (s : State) (c : Carriage) : Bool := c.id != 0 && c.wait == .run && !c.halted && coachRuns s c
/-- Its access processor runs: a context goes on while its carriage waits, and stops with its coach. -/
def apRuns (s : State) (c : Carriage) : Bool :=
  c.id != 0 && coachRuns s c && c.wait != .saved &&
    (match c.ap with
     | some a => a.running
     | none => false)

/-- The carriage, or its access processor, fetches, decodes and runs. -/
def runFetched (s : State) : Out :=
  match fetchDecode s with
  | .error t => .next t
  | .ok i => exec i s

/-! ## Issue (19 R309, R313, R314, 03 R53) -/

inductive IssueClass where
  | engine | vector | scalar
  deriving DecidableEq, Repr

def inSpan (lo hi x : Nat) : Bool := lo ≤ x && x ≤ hi
/-- The issue class of an opcode (19 R313). -/
def classOf (o : Nat) : IssueClass :=
  if inSpan 0x90 0xA2 o || [0xBF, 0xC0, 0xE8].contains o then .engine
  else if inSpan 0x40 0x5A o || inSpan 0x60 0x7D o || inSpan 0x80 0x87 o || inSpan 0xB0 0xBA o || inSpan 0xC2 0xC6 o ||
      [0x28, 0x30, 0xBC, 0xBD].contains o then .vector
  else .scalar
/-- Instructions whose interlocked results may take more than a cycle (03 R54, 19 R313). -/
def isSlow (o : Nat) : Bool :=
  inSpan 0x03 0x06 o || inSpan 0x16 0x19 o || inSpan 0x40 0x5A o || inSpan 0x60 0x7D o || [0xBE, 0xC4, 0xC5].contains o
/-- An instruction may read a destination: it names it, or a register shortly before which a wide one starts, or it is
guarded by it. -/
def mayRead (w : InstrBits) (d : Nat) : Bool :=
  let near (x : OpField) : Bool := d ≤ x.toNat + 15 && x.toNat ≤ d + 15
  near (head w).a || near (head w).b || near (w.extractLsb' 64 11) || (head w).guard.toNat == d % 16

/-- The word a carriage issues next; none where its fetch faults. -/
def nextWord (s : State) (c : Carriage) : Option InstrBits :=
  match fetchAt (focus s c.id) c.pc with
  | .ok bs => some (bitsOfBytes bs)
  | .error _ => none
/-- The opcode of it; a fetch that faults issues as a scalar instruction. -/
def nextOpc (s : State) (c : Carriage) : Nat := ((nextWord s c).map (fun w => (opc w).toNat)).getD 0

/-- The effective priority of a carriage, plus 1. A lowered one ranks below all, but one that was ready in 255 cycles
without issuing ranks above all. -/
def carPrio (s : State) (c : Carriage) : Nat :=
  if c.spin.lowered then (if 255 ≤ c.issue.waited then 10 else 0)
  else if (coach? s c.coach).any (fun k => (launch? s k.launch).any (fun l => isLowest l k)) then 9 else c.prio + 1
/-- What orders carriages of equal priority: placement cycle, the order of their coaches' placement, carriage index or
bin, PATHIX, and last an instance's number. -/
def ageKeys (c : Carriage) : List Nat := [c.age, c.coach, c.tie, c.pathix.toNat % 2 ^ 16, c.spinst, c.id]
def lexBefore : List Nat → List Nat → Bool
  | a :: as, b :: bs => a < b || (a == b && lexBefore as bs)
  | _, _ => false
/-- One carriage goes before another in a class. YLD prefers another of the same priority (03 R53). -/
def issueFirst (s : State) (a b : Carriage) : Bool :=
  if carPrio s a ≠ carPrio s b then carPrio s b < carPrio s a
  else if a.issue.yld ≠ b.issue.yld then b.issue.yld
  else lexBefore (ageKeys a) (ageKeys b)

/-- Its next instruction's interlocks are clear: how long a result takes that is not there in the next cycle, no rule says. -/
def resultsIn (s : State) (c : Carriage) : Bool :=
  c.issue.slow.isEmpty || s.fairAt ≤ s.tick || free s (0x1000 + c.id) % 2 == 0 ||
    !((nextWord s c).any (fun w => c.issue.slow.any (mayRead w)))
/-- The lanes of a core are free. -/
def lanesFree (s : State) (core : Nat) : Bool := (cars s).all (fun d => d.core != core || d.issue.lanes ≤ s.cyc)
/-- The carriage has counted its STALL or PAUSE out, its interlocks are clear, and for a vector instruction the lanes
are free. -/
def isClear (s : State) (c : Carriage) : Bool :=
  c.issue.stall ≤ s.cyc && resultsIn s c && (lanesFree s c.core || classOf (nextOpc s c) != .vector)
/-- Its next instruction does something: one that waits at issue leaves everything as it was. -/
def goesOn (s : State) (c : Carriage) : Bool :=
  nextOpc s c == 0x20 ||
    (match runFetched { focus s c.id with apMode := false } with
     | .next t => t != { focus s c.id with apMode := false }
     | _ => true)
/-- A carriage that is ready and goes before another of the same core and class keeps it from issuing. -/
def keptBy (s : State) (c d : Carriage) : Bool :=
  d.id != c.id && d.core == c.core && mayIssue s d && isClear s d && issueFirst s d c &&
    classOf (nextOpc s d) == classOf (nextOpc s c) && goesOn s d
/-- The core may issue from the carriage in this cycle. -/
def issues (s : State) (c : Carriage) : Bool := mayIssue s c && isClear s c && !(cars s).any (keptBy s c)

/-- The issue stage takes note of the instruction a carriage fetched in `s`, when it has gone on in `t`. -/
def noteIssue (s t : State) : State :=
  match nextWord s s.self with
  | none => t
  | some w =>
    let stays (c : Carriage) : Bool := c.pc == s.self.pc && c.wait == .run && (opc w).toNat != 0x20
    mapCars t (fun c =>
      if c.id ≠ s.self.id then (if c.core = s.self.core then { c with issue := { c.issue with yld := false } } else c)
      else if stays c then c
      else { c with issue :=
        { stall := max c.issue.stall (s.cyc + (head w).hints.stall.toNat + 1), yld := (head w).hints.yld
          slow := (if isSlow (opc w).toNat then [(head w).d.toNat] else []) ++ c.issue.slow.filter (fun d => !mayRead w d)
          lanes := if classOf (opc w).toNat == .vector then s.cyc + max 1 (widthOf c / 32) else c.issue.lanes, waited := 0 } })

/-! ## The end of a step -/

/-- Another agent's write of what a carriage recorded ends its lowering, and so does leaving the loop, unless more than eight
lines are recorded (19 R314). A lowered carriage that was ready and did not issue has waited for one more cycle. -/
def spinSeen (s : State) (mover : Nat) (c : Carriage) : Carriage :=
  let few := (c.spin.marks.filter (fun m => m < 2 ^ 128)).length ≤ 8
  let hit := s.wrote.any (fun w => c.spin.marks.contains w.1 && (if w.2 = 0 then mover else w.2) != c.id)
  if !c.spin.lowered then c
  else if few && (hit || !inTrip c.spin.target c.spin.branch c.pc) then { c with spin := Spin.reset }
  else if mayIssue s c && isClear s c then { c with issue := { c.issue with waited := c.issue.waited + 1 } }
  else c
/-- A lowering ends with its cycles. -/
def spinOver (s : State) (c : Carriage) : Carriage := if c.spin.lowered && c.spin.deadline ≤ s.cyc then { c with spin := Spin.reset } else c
/-- The first nanosecond after `from'`, up to `upTo'`, at which a test on the timebase holds: it can begin to hold at the
first or where a term's difference passes through 0. -/
def tickPoint (from' upTo' : Nat) (terms : List TrigTerm) (holds : Nat → Bool) : Option Nat :=
  (((from' + 1) :: terms.map (fun x => from' + 1 + (x.imm - BitVec.ofNat 32 (from' + 1)).toNat)).filter
    (fun n => n ≤ upTo' && holds n)).foldl (fun m n => some (min n (m.getD n))) none
/-- Predicates of triggers and of counter yields with a term on the timebase are evaluated at every nanosecond that has
passed (15 R254, 21 R340). -/
def tickTriggers (from' : Nat) (s : State) : State :=
  mapCars { s with triggers := s.triggers.map (fun t =>
      if t.due.isSome || !n7Bound s t.coach || !t.terms.any (fun x => x.ctr == 7) then t
      else match tickPoint from' s.ns t.terms (fun n => trigHolds { s with ns := n } t) with
        | some n => { t with due := some (n, s.tick) }
        | none => t) }
    (fun c => match c.wait with
      | .yielded 2 ref imm cont =>
        let x : TrigTerm := { imm := imm, ctr := ref.toNat }
        if ref == 7 && n7Bound s c.coach && (tickPoint from' s.ns [x] (fun n => termHolds { s with ns := n } c.coach x)).isSome then
          { c with wait := .yielded 3 ref imm cont } else c
      | _ => c)
/-- Held work whose hop is ready goes on before time passes; a ROUTE and the start of a COLL are held no more
(13 R226, 24 R386). -/
def endHolds (s : State) : State :=
  let s := leaveHolds s
  { s with
    ops := s.ops.map (fun o => if routeHeld o && ready s (144 + dieOf o.core) && s.ns ≤ o.deadline then { o with deadline := noHold } else o)
    colls := s.colls.map (fun c => if c.run == .fresh && ready s (146 + c.port) && s.ns ≤ c.deadline then { c with deadline := noHold } else c) }
/-- Spin detectors see what the step wrote, the dispatcher watches its queues, and time passes: by how much, no rule
fixes, but a clock of at most 4 GHz takes a nanosecond for four cycles (33 R422). -/
def passTime (s : State) (mover : Nat) : State :=
  let s := endHolds (watchHeads { mapCars s (spinSeen s mover) with wrote := [] })
  let cyc := s.cyc + free s 19 + 1
  let t := tickTriggers s.ns { s with tick := s.tick + 1, cyc := cyc, ns := s.ns + free s 20 + (cyc / 4 - s.cyc / 4) }
  let t := mapCars t (spinOver t)
  if t.stale.isEmpty then { t with syncs := [] } else t

/-! ## What may happen next -/

/-- Events of one engine operation. -/
def opEvents (o : EngOp) : List Instr :=
  [.ownershipGrant o.id, .engineCompletion o.id, .cancelStop o.id] ++ o.shared.map (fun l => .sourceLineRelease o.id l) ++
    (match o.kind with
     | .cart _ => [.cartLocalSwitch o.id]
     | .coll _ _ => [.collStartTimeout o.id]
     | .kvapp _ _ _ _ _ _ _ _ _ => [.kvReserve o.id, .appendLand o.id, .specKvappRelease o.id]
     | .kvfork _ _ _ _ => [.kvforkArrive o.id]
     | .kvfree _ _ _ => [.kvfreeArrive o.id]
     | .pfxf _ _ _ _ => [.pfxLookupArrive o.id]
     | .pfxi _ _ _ _ => [.pfxInsertArrive o.id]
     | .pgchk _ _ => [.pgchkCheck o.id]
     | .route _ _ => [.routeRun o.id, .routeNotreadyTimeout o.id]
     | _ => [])
/-- Events of one collective. -/
def collEvents (c : Coll) : List Instr :=
  [.collEnd c.id, .collSend c.id, .collRecv c.id, .collRrs c.id, .collCopy c.id, .collWait c.id, .collLoop c.id,
   .collCmb c.id, .collSlotStart c.id, .collStepTimeout c.id]
/-- Events of one carriage. -/
def carEvents (c : Carriage) : List Instr :=
  (match c.wait with
   | .yielded _ _ _ _ => [.yieldResume c.id]
   | .dbr _ _ _ => [.dbrRegroup c.id]
   | .tlbi _ _ _ _ _ => [.tlbiComplete c.id]
   | _ => []) ++ (if c.spin.lowered then [.spinTimeout c.id] else [])
/-- Events of one coach: retirement, barriers and its divergent regions. -/
def coachEvents (k : Coach) : List Instr :=
  [.coachRetire k.id, .successorStart k.id, .spawnCoachRetire k.id, .barRelease k.id none] ++
    (coachCores k).map (fun c => .barRelease k.id (some c)) ++
    k.recons.flatMap (fun r => .joinReconverge k.id r.idx ::
      r.deferred.map (fun d => .pathCarriageForm (k.id * 2 ^ 32 + r.idx * 2 ^ 28 + d.id)))
/-- Events of the parts of carts, of replies and of combining tables. -/
def switchEvents (s : State) : List Instr :=
  s.subs.flatMap (fun x => [.cartHomeSwitch x.id, .subcartHoldRelease x.id, .subcartNotreadyTimeout x.id,
    .bridgePoolCombine x.id 0, .bridgePoolCombine x.id 1]) ++
  s.parts.flatMap (fun p => [.rowEngineCart p.id, .subcartHoldRelease p.id, .subcartNotreadyTimeout p.id]) ++
  s.replies.flatMap (fun r => [.replySwitchCombine r.id, .cartReplyPlace r.id]) ++
  s.combMsgs.flatMap (fun m => [.combineContribution m.id, .rawContributionArrival m.id]) ++
  s.combs.map (fun e => .combineEntryTimeout e.id) ++ s.bypass.map (fun b => .bypassRecordTimeout b.id)
/-- Events of the dispatcher: queues that hold a record, device launches, launches with coaches to place, bins. -/
def dispatchEvents (s : State) : List Instr :=
  (s.records.filter (fun h => h.head)).map (fun h => .launchAccept h.world h.queue) ++
    (if (devWaiting s).isEmpty then [] else [.launchAccept false 255]) ++
    (s.launches.filter unplaced).map (fun l => .coachPlace l.id) ++
    s.bins.flatMap (fun b => [.binTimerExpiry b.core b.idx, .spawnedCarriagePlace (b.core * 8 + b.idx)])
/-- Events of the matrix engines, pools, loops, triggers and the clock. -/
def unitEvents (s : State) : List Instr :=
  (nubNat (s.passes.map (fun p => p.quad))).flatMap (fun q => [.passGrant q, .passOvertake q, .passWriteback q]) ++
    ((span 0 16).filter (fun n => poolEn s n)).map (fun n => .scrubberTick n) ++
    s.poolClosing.map (fun n => .poolDisable n) ++
    (nubNat (s.ranges.map (fun r => r.op))).map (fun o => .appendLand o) ++
    s.loops.flatMap (fun l => [.windowStart l.cid, .windowEnd l.cid]) ++
    s.triggers.flatMap (fun t => [.triggerFire t.id, .triggerTimebaseTick t.id]) ++
    (if 1000 ≤ s.coolUs then [.clockStepUp] else [])
/-- Every event of the machine that may be due; one that is not changes nothing. -/
def events (s : State) : List Instr :=
  s.loads.flatMap (fun l => (span 0 (max 1 l.elems.length)).map (fun i => .loadDataArrival l.id i)) ++
    s.stores.map (fun x => .storePerformed x.id) ++ s.ops.flatMap opEvents ++ s.colls.flatMap collEvents ++
    (cars s).flatMap carEvents ++ s.coaches.flatMap coachEvents ++ switchEvents s ++ dispatchEvents s ++ unitEvents s

def moves (s : State) : List Move :=
  ((cars s).filter (issues s)).map (fun c => .fetch c.id) ++ ((cars s).filter (apRuns s)).map (fun c => .ap c.id) ++
    (events s).map .event ++ s.preempt.flatMap (fun p => [.preempt 0 p.world, .preempt 1 p.world, .preempt 2 p.world]) ++
    (span 0 s.waits.length).map (.inner 0) ++ (span 0 s.stale.length).map (.inner 1) ++ (span 0 s.ops.length).map (.inner 2) ++
    (span 0 s.passes.length).map (.inner 5) ++
    (if s.inputs.isEmpty then [] else [.input]) ++ [.inner 3 0, .inner 4 0, .idle]

/-- The turn a move gives. -/
def takeMove (s : State) : Move → State
  | .fetch cid =>
    let t := focus s cid
    { t with turn := if mayIssue t t.self then .fetch else .idle }
  | .ap cid =>
    let t := focus s cid
    { t with turn := if apRuns t t.self then .ap else .idle }
  | .event e => { s with turn := .event e }
  | .preempt k w => { s with turn := .preempt k w }
  | .inner sort k => { s with turn := .inner sort k }
  | .input =>
    match s.inputs with
    | [] => { s with turn := .idle }
    | e :: r => { s with turn := .event e, inputs := r }
  | .idle => { s with turn := .idle }

/-- What moves next. From time to time, at turns that are free, it is what was due longest among the moves that could have
been made and still can: so what may move for ever does move (19 R312). -/
def chooseMove (s : State) : State × Move :=
  let ms := moves s
  let any : Move := (ms[free s 21 % ms.length]?).getD .idle
  if s.tick < s.fairAt then (s, any)
  else
    let s := { s with fairAt := s.tick + 1 + free s 23 }
    match s.due.filter ms.contains with
    | m :: r => ({ s with due := r }, m)
    | [] => ({ s with due := ms }, any)
/-- The end of a step: time passes, and the next mover is chosen with how its accesses take effect. -/
def advance (s : State) (mover : Nat) : State :=
  let s := passTime s mover
  let m := chooseMove { s with lag := free s 22 % 3 }
  takeMove m.1 m.2

/-- What a pre-emption turn does. -/
def preemptTurn (k : Nat) (world : Bool) (s : State) : Out :=
  match k with
  | 0 => execPreemptEligible world s
  | 1 => execPreemptDeadline world s
  | _ => execRestorePlace world s

/-! ## Inner turns -/

/-- Memory and registers of other packages and of the host change by what they do there: one naturally aligned value of
up to eight bytes, one register of a peer, or the HDM decoders (12 R199, 13 R216, 22 R362). -/
def outsideTurn (s : State) : State :=
  let n := 2 ^ (free s 26 % 4)
  let a := free s 27 % 2 ^ 48 / n * n
  let pkg := Config.ownPackage + 1 + free s 28 % 65535
  let bs := (span 0 8).map (fun i => Config.freeByte s.tick (2 ^ 90 + i))
  match free s 29 % 4 with
  | 0 => mwrite s (memKey .host 0 a) (bs.take n)
  | 1 => mwrite s (memKey .hbm pkg (a % 2 ^ 39)) (bs.take n)
  | 2 => { s with hdm := (span 0 (free s 42 % 3)).map (fun i => (free s (43 + 3 * i), free s (44 + 3 * i), free s (45 + 3 * i) % 2 ^ 39)) }
  | _ => wsysP s pkg (free s 30 % 2) (free s 31 % 256) (free s 32 % 2 ^ 21 * 8) (leBits 64 bs)
/-- A translation of a launch that stands is seen and may be used for a while (22 R361). -/
def translationTurn (s : State) : State :=
  seeTranslation s (if free s 51 % 2 = 0 then Config.ownPackage else free s 52 % 65536) (free s 36 % 2 == 1) (BitVec.ofNat 16 (free s 37)) (free s 38 % 2 ^ 48)
/-- A waiting access is performed, a hidden store is seen, a copy moves on, a pass reads its array, a
translation is seen, or the outside acts. -/
def innerTurn (sort k : Nat) (s : State) : Out :=
  .next (match sort with
    | 0 => performWait s k
    | 1 => showStale s k
    | 2 => copyTurn s k
    | 3 => translationTurn s
    | 5 => passTurn s k
    | _ => outsideTurn s)

/-! ## A word placed where the next step fetches -/

/-- Where the word lies: its virtual and its physical address. -/
def wordAt : DWord := 0x3000
/-- A carriage of world S and space 0 with one thread, at the word. -/
def wordCarriage (s : State) : Carriage :=
  { Carriage.none with id := s.nextId, slots := [s.nextId * 128 + 1], nreg := 128, world := true, pc := wordAt, wait := .run }
/-- World S translates virtual addresses below 2^30 to themselves: a root, a level-0 table and a leaf with R, W and X.
Every row engine serves both worlds. -/
def mapFlat (s : State) : State :=
  let put (s : State) (a v : Nat) : State := mwrite s (memKey .hbm Config.ownPackage a) (leBytes 8 v)
  put (put (put (wsys (wsys s 0 5 8 0xFFFF) 1 4 8 0) 0 0x1001) 0x1000 0x2023) 0x2000 0x3D
def placeWord (s : State) (bs : List Byte) : State :=
  let s1 := mapFlat s
  let s2 := mwrite s1 (memKey .hbm Config.ownPackage wordAt.toNat) bs
  let c := wordCarriage s2
  { s2 with
    self := c, rest := if s2.self.id = 0 then s2.rest else s2.self :: s2.rest, nextId := s2.nextId + 1, turn := .fetch
    apMode := false, live := cset s2.live (c.id * 128) 1, wrote := s.wrote, past := s.past }

end Sys2Proof.Machine
end

