-- ==== Sys2Proof/Machine/Step.lean ====
section
/-! DEFINITION. One step of the machine: what has the turn moves, then the step ends. -/
namespace Sys2Proof.Machine

/-- The end of a step after what the mover did. -/
def endStep (mover : Nat) : Out → Out
  | .next s => .next (advance { s with apMode := false } mover)
  | .fault r => .fault r
  | .refused r => .refused r

/-- The issue stage takes note of a carriage's instruction. -/
def issued (s : State) : Out → Out
  | .next t => .next (noteIssue s t)
  | .fault r => .fault r
  | .refused r => .refused r

def step (s : State) : Host.Outcome State Fault Refusal :=
  match s.turn with
  | .fetch => if s.self.id = 0 then .fault .noCarriage else endStep s.self.id (issued s (runFetched s))
  | .ap => if s.self.id = 0 then .fault .noCarriage else endStep 0 (runFetched { s with apMode := true })
  | .event e => endStep 0 (exec e s)
  | .preempt k w => endStep 0 (preemptTurn k w s)
  | .inner sort k => endStep 0 (innerTurn sort k s)
  | .idle => endStep 0 (.next s)

/-- The instruction of a word, zeros above its bits, where the next step fetches. -/
def State.withFetchWord (s : State) (nbits w : Nat) : State := placeWord s (bytesOfBits 12 (tableBits nbits w))

end Sys2Proof.Machine
end

