-- ==== Sys2Proof/Safety.lean ====
section
/-! DEFINITION. What claims call well-formed memory, a state in which the next turn is one its mover may take, a safe
step, an instruction that runs without a trap, and what an instruction leaves alone. -/
namespace Sys2Proof.Machine

/-- The canonical form of memory: addresses rise strictly, and no listed byte is what an unlisted one reads as. -/
abbrev Memory.wf (m : Memory) : Bool := cwf m

/-- Between steps: no access processor is in the place of a carriage, nothing written is left for the spin detectors,
and a fetch belongs to a carriage that may issue, or to an access processor that runs. -/
def State.between (s : State) : Bool :=
  !s.apMode && s.wrote.isEmpty &&
    (match s.turn with
     | .fetch => mayIssue s s.self
     | .ap => apRuns s s.self
     | _ => true)

/-- A step is safe when the machine goes on. -/
def SafeStep (s : State) : Prop := ∃ t, step s = .next t

/-! ## When an instruction runs -/

/-- A scalar instruction has its effect: its guard holds and none of its s sources is poisoned (08 R127, 24 R383). -/
abbrev RunsS (h : Head) (srcs : List OpField) (s : State) : Prop := kGuard h s = true ∧ anyBadS s srcs = false
/-- A vector instruction has its effect: its registers lie below the carriage's count, and no active thread's source
element is poisoned (03 R63, 24 R383). -/
abbrev RunsV (h : Head) (regs srcs : List Use) (s : State) : Prop := rangeBad s regs = false ∧ poisonSlot s h srcs = none
/-- No posted pass reads as A or as a scale the `n` v registers from D on of the active threads: the instruction that
writes them need not wait (10 R172). -/
abbrev MayWrite (s : State) (h : Head) (n : Nat) : Prop := passReads s h [(h.d, n)] = false
/-- A trap enters the handler of the moving carriage: no access processor, no speculation instance, no handler that runs,
no loop that must reject instances, and a vector (23 R370, 20 R326, R328). -/
abbrev Traps (s : State) : Prop :=
  s.apMode = false ∧ s.self.spinst = 0 ∧ s.self.handler = false ∧ loopOf s s.self = none ∧ tvec s s.self.world ≠ 0

/-- No engine operation owns a line, no access of the carriage is open or waits to be seen, no access takes its time in
this turn, and the carriage is no speculation instance with a log: local accesses act on memory at once (11 R193, 12 R204,
R210). -/
abbrev Unowned (s : State) : Prop :=
  s.waits = [] ∧ s.stale = [] ∧ s.lag ≠ 1 ∧ (∀ o ∈ s.ops, o.shared = [] ∧ o.excl = []) ∧ (∀ o ∈ s.ops, o.cid = s.self.id → opOpen o = false) ∧
    s.self.spinst = 0 ∧ isInstance s (homesOf s.self) = false ∧ logOf s (homesOf s.self) = []
/-- The trap record and the handler of the moving carriage after a trap (23 R369, R370): the cause, the pc of the
instruction, where it resumes and the data address; the pc is the vector's. -/
def Trapped (s t : State) (c : Cause) (resume addr info : DWord) : Prop :=
  t.self.handler = true ∧ t.self.pc = tvec s s.self.world ∧ t.self.trap.cause.extractLsb' 0 8 = causeCode c ∧
    t.self.trap.tpc = s.self.pc ∧ t.self.trap.tres = resume ∧ t.self.trap.taddr = addr ∧ t.self.trap.tinfo = info
/-- The keys of every byte that the active threads of a vector access name. -/
def vecKeys (s : State) (i : LocI) (sp : LocSpace) (two : Bool) : List Nat :=
  (vecAddrs s i two).flatMap (fun x => locKeys s sp x.2.1 x.2.2 (widBytes i.wid))
/-- The registers and the sources of a vector load or store. -/
def locRegs (i : LocI) : List Use := [(i.h.d, widRegs i.wid), (i.h.a, 1), (i.h.b, 1)]
def locSrcs (i : LocI) : List Use := [(i.h.a, 1), (i.h.b, 1)]
/-- The registers and the sources of a vector atomic: D unless NR and no CAS; a CAS reads D. -/
def atomRegs (i : LocI) : List Use :=
  (if i.low.getLsbD 0 && i.aop != 9 then [] else [(i.h.d, if i.wid = 3 then 2 else 1)]) ++
    [(i.h.a, 1), (i.h.b, if i.wid = 3 then 2 else 1)]
def atomSrcs (i : LocI) : List Use :=
  (if i.aop = 9 then [(i.h.d, if i.wid = 3 then 2 else 1)] else []) ++ [(i.h.a, 1), (i.h.b, if i.wid = 3 then 2 else 1)]

/-! ## Engine operations -/

/-- An engine instruction issues one operation (16 R264): its kind, the lines it asks for, its completion fields; its handle is
PENDING with a new token; the carriage stands at PC + 12 and waits for the lines. No byte moves and no register changes. -/
def Issues (s t : State) (i : EngI) (kind : OpKind) (shared excl : List Nat) : Prop :=
  (∃ o ∈ t.ops, o.id = s.nextId ∧ o.kind = kind ∧ o.stage = .requesting ∧ o.faultBit = false ∧ o.excl = excl ∧
    o.shared = shared.filter (fun l => !excl.contains l) ∧ o.coach = s.self.coach ∧ o.homes = homesOf s.self ∧
    o.eaddr = s.self.pc ∧ o.tf = i.tf ∧ o.ring = i.t.ring.toNat ∧ o.ctr = i.t.ctr.toNat ∧ o.inst = s.self.spinst ∧
    o.tok = cget t.self.hTok i.h.d.toNat) ∧
  t.self.hDone.getLsbD i.h.d.toNat = false ∧ t.self.wait = .issuing s.nextId ∧ t.self.pc = s.self.pc + 12 ∧
  t.self.s = s.self.s ∧ t.self.k = s.self.k ∧ t.mem = s.mem ∧ t.v = s.v
/-- The instruction may issue outside an access processor: its guard and sources, and room in an instance's queue. -/
abbrev MayIssue (s : State) (i : EngI) (srcs : List OpField) (kind : OpKind) : Prop :=
  s.apMode = false ∧ RunsS i.h srcs s ∧ holdFull s i kind = false
/-- An operation's handle stands in the moving carriage. -/
abbrev HasHandle (s : State) (o : EngOp) : Prop :=
  s.self.id ≠ 0 ∧ o.tok ≠ 0 ∧ cget s.self.hTok (tokH o.tok) = o.tok ∧ cget s.self.hOp (tokH o.tok) = BitVec.ofNat 64 o.id
/-- It is DONE with a status word. -/
def DoneWith (t : State) (o : EngOp) (status : DWord) : Prop :=
  t.self.hDone.getLsbD (tokH o.tok) = true ∧ cget t.self.hStat (tokH o.tok) = status
/-- No access waits or is still hidden, and the operation reports to no ring: its completion writes memory only as an
operation. -/
abbrev PlainEnd (s : State) (o : EngOp) : Prop := s.waits = [] ∧ s.stale = [] ∧ o.ring = 0 ∧ (o.inst = 0 ∨ o.ctr = 0)

/-- A collective stands before a step whose word it reads: it has started, or its port is ready in time (15 R247). -/
abbrev StepReads (s : State) (o : EngOp) (c : Coll) (w : DWord) : Prop :=
  op? s c.id = some o ∧ coll? s c.id = some c ∧ c.run = .fresh ∧
    (o.started = true ∨ (portInTime s c = true ∧ releaseReady s o = true ∧ readsBehind s o = false ∧ writesBehind s o = false)) ∧ globUp s (engOf o) [(stepAt c, 8)] = true ∧
    stepWord s o c = .ok w
/-- The step is no fault step, and what it reads and writes is reached. -/
abbrev StepAt (s : State) (o : EngOp) (c : Coll) (w : DWord) : Prop :=
  StepReads s o c w ∧ stepBad c w = false ∧ stepUp s o c w = true

/-! ## Matrix and accumulator instructions that run -/

/-- A pass instruction passes its checks and posts (10 R168-R172): its tiles, its B region, its A operand by source, its
scales, no poison, and room in the table. -/
abbrev PassReady (s : State) (op : PassOp) (i : PassI) (w : TileWin) (ks : List (Nat × List (Nat × Nat))) : Prop :=
  let ts := active s i.h
  let a := i.h.d.toNat
  let tb := rt s i.h.b
  let ta := rt s i.h.a
  let k := tK tb
  let n := aRowBytes op k
  let nr := rowsPer (widthOf s.self)
  let sa := (rs s i.h.a).toNat
  let c := rs s i.t.c
  ts ≠ [] ∧ rangeBad s ((if i.asrc == 0 then [(i.h.a, 1)] else []) ++ if passScaled op then [(i.t.c, 1)] else []) = false ∧
  (∀ h ∈ homesActive ts, accUnbound s h a = false ∧ accRank (accWord s h a) = (op == .rk) ∧
    accFmt (accWord s h a) = passTile op) ∧
  tKind tb = .tilemem ∧ tFmt tb = passB' op ∧ tLayout tb = b2n (passSparseB op) ∧ regionWindow s tb = some w ∧
  ((passP op).isSome = true → k % (32 * 2 ^ i.pi.toNat) = 0) ∧ (passSparseA op = true → k % 64 = 0) ∧
  (passScaled op = true → scaleTop op i k nr ≤ s.self.nreg) ∧ passPoison s op i k nr ts = none ∧ i.asrc.toNat ≤ 2 ∧
  (i.asrc = 0 → i.h.a.toNat + nr * aRegs op k ≤ s.self.nreg ∧ ks = []) ∧
  (i.asrc = 1 → sa % 16 = 0 ∧ sa + 128 * n ≤ shmSize s s.self.coach ∧ ks = []) ∧
  (i.asrc = 2 → tKind ta = .tensor ∧
    passReadWaits s [(tDaddr ta, 64)] = false ∧
    ∃ d : TensorDesc, readDesc s (engCopy s.self.core) (tDaddr ta) = .ok (some d, d) ∧
    d.fmt = passA' op ∧ tRowo ta + 128 ≤ d.rows ∧ tColb ta + n ≤ d.rowBytes ∧
    passReadWaits s ((span 0 128).map (fun m => (rowAddr d (tRowo ta + m) (tColb ta), n))) = false ∧
    atKeys s d (tRowo ta) (tColb ta) n (span 0 128) = .ok ks) ∧
  passOn s (homesActive ts) ((homesActive ts).flatMap (fun h => accSpan s h a)) = false ∧
  imgBlocked s (if i.asrc = 1 then (passRows s ts).flatMap (fun r => span (memKey .shm s.self.coach (sa + r.2.2.2 * n)) n)
    else []) = false ∧ passAccBad s op i ts = false ∧
  (op = .rk → rankDropped s a (passRows s ts) ((c >>> 32).setWidth 32) (c.setWidth 32) = false) ∧
  (quadPasses s (quadOf s.self.core)).length < 32

/-- The places and the bytes of the image that ACCLD and ACCST move. -/
def imagePlacesOf (s : State) (i : MemI) : List (Nat × Nat) :=
  (movedRows s (active s i.h) i.h.d.toNat).flatMap (fun r =>
    imagePlaces (accWord s r.1 i.h.d.toNat) ((drainFmt (accWord s r.1 i.h.d.toNat) (field i.mod 7 3)).getD ⟨4, none⟩) r.2)
def imageKeys (s : State) (i : MemI) : List Nat :=
  (imagePlacesOf s i).flatMap (fun p => locKeys s (imgSpace i) 0 (imgAddr s i + p.1) p.2)
/-- Nothing stands before the image access `act` of ACCLD or ACCST: it moves its bytes at once. -/
abbrev ImageNow (s : State) (i : MemI) (act : LocAct) : Prop :=
  imgPrompt s (newAcc s (imgSpace i) s.nextId (attrOf i.t) i.t.order (imageKeys s i) act) = true
/-- ACCLD or ACCST moves its rows: bound names, a format that fits, an image in its space, no pass of the tile
(10 R178). -/
abbrev ImageReady (s : State) (i : MemI) (store : Bool) : Prop :=
  let ts := active s i.h
  let a := i.h.d.toNat
  let homes := homesActive ts
  ts ≠ [] ∧ (∀ h ∈ homes, accUnbound s h a = false ∧ (drainFmt (accWord s h a) (field i.mod 7 3)).isSome = true) ∧
  anyBadS s [i.h.a, i.h.b] = false ∧
  (homes.length ≤ 1 ∨ ∀ h ∈ homes, (accRank (accWord s h a) && accCol (accWord s h a)) = false) ∧
  (store = true → homes.length ≤ 1) ∧
  placesOk s (imgSpace i) (imgAddr s i) (imagePlacesOf s i) = true ∧ imgAddr s i % 64 = 0 ∧
  passOn s homes (homes.flatMap (fun h => accSpan s h a)) = false ∧
  (store = true → logFull s (imgSpace i) (imageKeys s i) = false)
/-- A ranked-list instruction on tile `a` passes the checks its frame shares (10 R181). -/
abbrev RankReady (s : State) (i : PassI) (a j : Nat) (regs srcs : List Use) : Prop :=
  active s i.h ≠ [] ∧ jReserved s j = false ∧ rangeBad s regs = false ∧ rankNames s (active s i.h) a = none ∧
    poisonSlot s i.h srcs = none ∧ passOn s (homesActive (active s i.h)) [a] = false

/-! ## What is left alone -/

/-- Everything outside the moving carriage stands as it was: all of memory, the registers of threads, other carriages,
counters, system registers, operations. -/
def OthersKept (s t : State) : Prop := { t with self := s.self } = s
/-- Of the moving carriage, all but its s registers with their poison and its pc (or those of its access processor, in
whose place an instruction runs) stands as it was. -/
def SelfKept (s t : State) : Prop :=
  { t.self with s := s.self.s, sPoison := s.self.sPoison, pc := s.self.pc, ap := s.self.ap } = s.self

/-- Of the whole machine only v registers with their poison, and the pc of the moving carriage, may differ. -/
def VecKept (s t : State) : Prop :=
  { t with self := s.self, v := s.v, vPoison := s.vPoison } = s ∧
    { t.self with pc := s.self.pc, ap := s.self.ap } = s.self
/-- The same where AST may differ too. -/
def FpKept (s t : State) : Prop :=
  { t with self := s.self, v := s.v, vPoison := s.vPoison } = s ∧
    { t.self with pc := s.self.pc, ap := s.self.ap, ast := s.self.ast } = s.self
/-- Only p registers and the pc may differ. -/
def PredKept (s t : State) : Prop :=
  { t with self := s.self, p := s.p } = s ∧ { t.self with pc := s.self.pc, ap := s.self.ap } = s.self

/-- A trap changes nothing but the record, the handler mode and the pc of the moving carriage. -/
def TrapKept (s t : State) : Prop :=
  OthersKept s t ∧ { t.self with trap := s.self.trap, handler := s.self.handler, pc := s.self.pc } = s.self
/-- Neither a path nor an instance: its coach's BARs take it, and its counts are its own. -/
abbrev PlainCar (s : State) : Prop :=
  s.apMode = false ∧ s.self.spinst = 0 ∧ inRegion s.self = false ∧ s.self.kind = .home

/-- The thread is active for an instruction. -/
def isActive (s : State) (h : Head) (tid : Nat) : Bool := (active s h).any (fun st => st.2 == tid)
/-- No thread stands in two slots of the moving carriage. -/
abbrev SlotsDistinct (s : State) : Prop := ((slotsOf s.self).map (fun st => st.2)).Nodup

/-! ## Results of the shapes that share a form -/

/-- Two-operand scalar instructions: s[d] <- f(s[a], b), then PC + 12 (08 R131). -/
def ScalarResult (mk : IntI → Instr) (f : IntI → DWord → DWord → DWord) : Prop :=
  ∀ (i : IntI) (s : State), RunsS i.h (i.h.a :: bField i) s →
    exec (mk i) s = .next (nextPc (ws s i.h.d (f i (rs s i.h.a) (srcB i s))))
/-- With a false guard an instruction only advances the PC (08 R127, 03 R52). -/
def GuardOff {α : Type} (mk : α → Instr) (hd : α → Head) : Prop :=
  ∀ (i : α) (s : State), kGuard (hd i) s = false → exec (mk i) s = .next (nextPc s)

/-- Uses of D, A, B and of the sources A, B of a vector instruction whose operands span `n` registers. -/
def useDAB (n : Nat) (i : IntI) : List Use := (i.h.d, n) :: (i.h.a, n) :: useB i n
def useAB (n : Nat) (i : IntI) : List Use := (i.h.a, n) :: useB i n
def fpDAB (n : Nat) (i : FpI) : List Use := (i.h.d, n) :: (i.h.a, n) :: fpUseB i n
def fpAB (n : Nat) (i : FpI) : List Use := (i.h.a, n) :: fpUseB i n
def fpDA (n : Nat) (i : FpI) : List Use := (i.h.d, n) :: fpUseA1 i n

/-- v[d] of the active threads becomes `f`, and no other v register changes. -/
def WritesV (s t : State) (h : Head) (f : Nat → Word) : Prop :=
  ∀ tid n, n < 2048 → rv t tid n = if n = h.d.toNat ∧ isActive s h tid = true then f tid else rv s tid n
/-- The pair at d of the active threads becomes `f`, and no other v register changes. -/
def WritesV64 (s t : State) (h : Head) (f : Nat → DWord) : Prop :=
  ∀ tid n, n < 2048 → rv t tid n =
    if isActive s h tid = true ∧ n = h.d.toNat then (f tid).extractLsb' 0 32
    else if isActive s h tid = true ∧ n = h.d.toNat + 1 then (f tid).extractLsb' 32 32
    else rv s tid n
/-- p[d] of the active threads becomes `f`, but p0 stays 1, and no other p register changes. -/
def WritesP (s t : State) (h : Head) (f : Nat → Bool) : Prop :=
  ∀ tid n, n < 16 → rp t tid n = if n = h.d.toNat ∧ n ≠ 0 ∧ isActive s h tid = true then f tid else rp s tid n
/-- AST collects the flags of every active thread (02 R30). -/
def CollectsFlags (s t : State) (h : Head) (f : Nat → Flags) : Prop :=
  ∀ n, t.self.ast.getLsbD n =
    (s.self.ast.getLsbD n || (active s h).any (fun st => (f st.2).getLsbD n))

/-- A 32-bit vector integer instruction (08 R128, R140). -/
def VecResult (mk : IntI → Instr) (regs srcs : IntI → List Use) (f : IntI → State → Nat → Word) : Prop :=
  ∀ (i : IntI) (s : State), RunsV i.h (regs i) (srcs i) s → MayWrite s i.h 1 →
    ∃ t, exec (mk i) s = .next t ∧ pcOf t = pcOf s + 12 ∧ VecKept s t ∧ WritesV s t i.h (f i s)
/-- A 64-bit one on pairs. -/
def VecResult64 (mk : IntI → Instr) (regs srcs : IntI → List Use) (f : IntI → State → Nat → DWord) : Prop :=
  ∀ (i : IntI) (s : State), i.h.d.toNat < 1536 → RunsV i.h (regs i) (srcs i) s → MayWrite s i.h 2 →
    ∃ t, exec (mk i) s = .next t ∧ pcOf t = pcOf s + 12 ∧ VecKept s t ∧ WritesV64 s t i.h (f i s)
/-- A 32-bit vector floating-point instruction (09 R150). -/
def FpResult (mk : FpI → Instr) (regs srcs : FpI → List Use) (f : FpI → State → Nat → Nat × Flags) : Prop :=
  ∀ (i : FpI) (s : State), RunsV i.h (regs i) (srcs i) s → MayWrite s i.h 1 →
    ∃ t, exec (mk i) s = .next t ∧ pcOf t = pcOf s + 12 ∧ FpKept s t ∧
      WritesV s t i.h (fun tid => BitVec.ofNat 32 (f i s tid).1) ∧ CollectsFlags s t i.h (fun tid => (f i s tid).2)
/-- An FP64 one on pairs. -/
def FpResult64 (mk : FpI → Instr) (regs srcs : FpI → List Use) (f : FpI → State → Nat → Nat × Flags) : Prop :=
  ∀ (i : FpI) (s : State), i.h.d.toNat < 1536 → RunsV i.h (regs i) (srcs i) s → MayWrite s i.h 2 →
    ∃ t, exec (mk i) s = .next t ∧ pcOf t = pcOf s + 12 ∧ FpKept s t ∧
      WritesV64 s t i.h (fun tid => BitVec.ofNat 64 (f i s tid).1) ∧ CollectsFlags s t i.h (fun tid => (f i s tid).2)

end Sys2Proof.Machine
end

