-- ==== Sys2Proof/Certificates/Slice0/Obligations.lean ====
section
/-! DEFINITION. The statements of the model: what the manual's rules say the machine does. -/
open Sys2Proof Sys2Proof.Machine

/-! ## Scalar instructions (08) -/

/-- R131, R133: sums, differences and products wrap, or clamp with SAT; SMULH gives the upper half of the exact product;
shifts of 64 or more give 0 or copies of the sign. R132: truncating division and its remainder, with the fixed results
of a zero divisor and of overflow. The shifts' MOD holds IMM and U alone. -/
def Obligations.ScalarArithmeticResults : Prop :=
  ScalarResult .sadd (fun i a b => if i.sat then clampI i.u 64 (intOf i.u a + intOf i.u b) else a + b) ∧
  ScalarResult .ssub (fun i a b => if i.sat then clampI i.u 64 (intOf i.u a - intOf i.u b) else a - b) ∧
  ScalarResult .smul (fun i a b => if i.sat then clampI i.u 64 (intOf i.u a * intOf i.u b) else a * b) ∧
  ScalarResult .smulh (fun i a b =>
    if i.u then (a.setWidth 128 * b.setWidth 128).extractLsb' 64 64
    else (a.signExtend 128 * b.signExtend 128).extractLsb' 64 64) ∧
  ScalarResult .sand (fun _ a b => a &&& b) ∧
  ScalarResult .sor (fun _ a b => a ||| b) ∧
  ScalarResult .sxor (fun _ a b => a ^^^ b) ∧
  ScalarResult .sshl (fun _ a b => a <<< b.toNat) ∧
  ScalarResult .sshr (fun _ a b => a >>> b.toNat) ∧
  ScalarResult .ssra (fun _ a b => a.sshiftRight b.toNat) ∧
  ScalarResult .smin (fun i a b => if (if i.u then b.ult a else b.slt a) then b else a) ∧
  ScalarResult .smax (fun i a b => if (if i.u then a.ult b else a.slt b) then b else a) ∧
  ScalarResult .slea (fun i a b => a + (b <<< i.low.toNat)) ∧
  ScalarResult .sdiv (fun i a b =>
    if b = 0 then 0xFFFFFFFFFFFFFFFF#64
    else if i.u then a.udiv b
    else if a = 0x8000000000000000#64 ∧ b = 0xFFFFFFFFFFFFFFFF#64 then
      (if i.sat then 0x7FFFFFFFFFFFFFFF#64 else 0x8000000000000000#64)
    else a.sdiv b) ∧
  ScalarResult .srem (fun i a b => if b = 0 then a else if i.u then a.umod b else a.srem b) ∧
  (∀ mk ∈ [Instr.sshl, .sshr, .ssra], ∀ i : IntI, i.sat = true ∨ i.sub ≠ 0 ∨ i.low ≠ 0 →
    checked (mk i) = .error .reservedModifier)

/-- R134, R136: compare, select, the bit fields and the bit counts; each field's position and length come from the
specification word b. SCMP's D is a k register's number and its SUB a condition; SSEL's SUB is any of the 16 k registers. -/
def Obligations.ScalarCompareSelectBits : Prop :=
  (∀ (i : IntI) (s : State), RunsS i.h (i.h.a :: bField i) s → i.sub.toNat ≤ 5 →
    exec (.scmp i) s = .next (nextPc (wk s i.h.d.toNat
      (let a := rs s i.h.a
       let b := srcB i s
       let lt := if i.u then a.ult b else a.slt b
       let gt := if i.u then b.ult a else b.slt a
       [a == b, a != b, lt, !gt, gt, !lt].getD i.sub.toNat false)))) ∧
  (∀ (i : IntI) (s : State), RunsS i.h (i.h.a :: bField i) s →
    exec (.ssel i) s = .next (nextPc (ws s i.h.d (if rk s i.sub.toNat then rs s i.h.a else srcB i s)))) ∧
  (∀ i : IntI, (i.sat = true ∨ 5 < i.sub.toNat ∨ i.low ≠ 0 → checked (.scmp i) = .error .reservedModifier) ∧
    (WellFormed (.scmp i) → i.h.d.toNat < 16) ∧ (i.sat = true ∨ i.low ≠ 0 → checked (.ssel i) = .error .reservedModifier) ∧
    ∀ c : BitVec 4, WellFormed (.ssel i) → WellFormed (.ssel { i with sub := c })) ∧
  ScalarResult .sbfx (fun i a b =>
    let pos := (b.extractLsb' 0 6).toNat
    let len := min (b.extractLsb' 8 7).toNat (64 - pos)
    if len = 0 then 0
    else if i.u then (a <<< (64 - len - pos)) >>> (64 - len)
    else (a <<< (64 - len - pos)).sshiftRight (64 - len)) ∧
  (∀ (i : IntI) (s : State), RunsS i.h (i.h.d :: i.h.a :: bField i) s →
    exec (.sbfi i) s = .next (nextPc (ws s i.h.d
      (let b := srcB i s
       let pos := (b.extractLsb' 0 6).toNat
       let len := min (b.extractLsb' 8 7).toNat (64 - pos)
       let mask := BitVec.ofNat 64 (2 ^ len - 1) <<< pos
       (rs s i.h.d &&& ~~~mask) ||| ((rs s i.h.a <<< pos) &&& mask))))) ∧
  (∀ (i : IntI) (s : State), RunsS i.h [i.h.a] s → i.sub.toNat ≤ 4 →
    ∃ x, exec (.sbitc i) s = .next (nextPc (ws s i.h.d x)) ∧
      (i.sub = 0 → x = (rs s i.h.a).cpop) ∧ (i.sub = 1 → x = (rs s i.h.a).clz) ∧ (i.sub = 2 → x = (rs s i.h.a).ctz) ∧
      (i.sub = 3 → x = (rs s i.h.a).reverse) ∧
      (i.sub = 4 → ∀ n < 8, x.extractLsb' (8 * n) 8 = (rs s i.h.a).extractLsb' (8 * (7 - n)) 8))

/-- R135, R137, R32, R30, R31: the moves between s, k and n, and the special registers. AST takes RM and clears the flags
that are written as 1; MDEF takes bits [7:0]. -/
def Obligations.ScalarMovesAndSpecials : Prop :=
  (∀ (i : IntI) (s : State) (r : Rrr), i.low = 0 → i.t = .rrr r → RunsS i.h [i.h.a] s →
    exec (.smov i) s = .next (nextPc (ws s i.h.d (rs s i.h.a)))) ∧
  (∀ (i : IntI) (s : State) (x : Word), i.low = 0 → i.t = .rri x → RunsS i.h [] s →
    exec (.smov i) s = .next (nextPc (ws s i.h.d (if i.u then x.setWidth 64 else x.signExtend 64)))) ∧
  (∀ (i : IntI) (s : State), i.low = 1 → RunsS i.h [] s →
    ∃ x, exec (.smov i) s = .next (nextPc (ws s i.h.d x)) ∧ x.extractLsb' 16 48 = 0 ∧
      ∀ n < 16, x.getLsbD n = rk s n) ∧
  (∀ (i : IntI) (s : State), i.low = 2 → RunsS i.h [i.h.a] s →
    ∃ t, exec (.smov i) s = .next t ∧ pcOf t = pcOf s + 12 ∧
      ∀ n < (if s.apMode then 8 else 16), 0 < n → rk t n = (rs s i.h.a).getLsbD n) ∧
  (∀ (i : IntI) (s : State), i.low = 3 → RunsS i.h [] s → s.self.spin.count = 0 →
    exec (.smov i) s = .next (nextPc (ws s i.h.d ((rctr s s.self.coach i.h.a.toNat).setWidth 64)))) ∧
  (∀ (i : RriI) (s : State), RunsS i.h [] s →
    exec (.sget i) s = .next (nextPc (ws s i.h.d (specialReg s i.imm.toNat)))) ∧
  (∀ s, specialReg s 0 = s.self.ast ∧ specialReg s 1 = s.self.mdef ∧ specialReg s 7 = s.self.pathix.setWidth 64 ∧
    specialReg s 8 = BitVec.ofNat 64 s.self.spinst ∧ specialReg s 9 = BitVec.ofNat 64 s.ns) ∧
  (∀ (i : RriI) (s : State), RunsS i.h [i.h.a] s → s.apMode = false → ∃ t, exec (.sput i) s = .next t ∧
    (i.imm = 0 → (∀ n, n = 5 ∨ n = 6 → t.self.ast.getLsbD n = (rs s i.h.a).getLsbD n) ∧
      (∀ n < 5, t.self.ast.getLsbD n = (s.self.ast.getLsbD n && !(rs s i.h.a).getLsbD n)) ∧ t.self.mdef = s.self.mdef) ∧
    (i.imm = 1 → t.self.mdef = (rs s i.h.a) &&& 0xFF#64 ∧ t.self.ast = s.self.ast))

/-- R138, R139: SFMA rounds the exact product and sum once, in FP64 or in FP32; SFCVT converts by its pair. Both raise
their flags in AST. -/
def Obligations.ScalarFloatResults : Prop :=
  (∀ (i : IntI) (s : State) (t : Rrr), i.t = .rrr t → RunsS i.h [i.h.a, t.c, i.h.b] s →
    let F := if i.low.getLsbD 0 then fmtF32 else fmtF64
    let x (f : OpField) := decodeF F ((rs s f).toNat % 2 ^ F.width)
    let r := fMadd F (rndMode s t.rnd) (if i.low.getLsbD 1 then (x i.h.a).negate else x i.h.a) (x i.h.b)
      (if i.low.getLsbD 2 then (x t.c).negate else x t.c)
    exec (.sfma i) s = .next (nextPc (raiseFlags (ws s i.h.d (BitVec.ofNat 64 r.1)) r.2))) ∧
  (∀ (i : IntI) (s : State) (imm : Word), i.t = .rri imm → RunsS i.h [i.h.a, i.h.d] s →
    let F := if i.low.getLsbD 0 then fmtF32 else fmtF64
    let x (f : OpField) := decodeF F ((rs s f).toNat % 2 ^ F.width)
    let v := decodeF F (if i.low.getLsbD 0 then imm.toNat else widenF32 imm.toNat)
    let r := fMadd F (astMode s) (if i.low.getLsbD 1 then (x i.h.a).negate else x i.h.a) v
      (if i.low.getLsbD 2 then (x i.h.d).negate else x i.h.d)
    exec (.sfma i) s = .next (nextPc (raiseFlags (ws s i.h.d (BitVec.ofNat 64 r.1)) r.2))) ∧
  (∀ (i : IntI) (s : State), i.sub.toNat ≤ 8 → RunsS i.h (if isRri i.t then [] else [i.h.a]) s →
    let x := match i.t with
      | .rrr _ => rs s i.h.a
      | .rri imm => if i.u then imm.setWidth 64 else imm.signExtend 64
    let m := match i.t with
      | .rrr t => rndMode s t.rnd
      | .rri _ => astMode s
    let f64 := decodeF fmtF64 x.toNat
    let f32 := decodeF fmtF32 (x.setWidth 32).toNat
    let whole : Int := if i.u then x.toNat else x.toInt
    let low : Int := if i.u then (x.setWidth 32).toNat else (x.setWidth 32).toInt
    let r := [convToF fmtF64 m false f32, convToF fmtF32 m i.sat f64, convToI 64 i.u m i.sat f64, convToI 64 i.u m i.sat f32,
      convToF fmtF64 m false (ofIntV whole), convToF fmtF32 m false (ofIntV whole), convToI 32 i.u m i.sat f64,
      convToI 32 i.u m i.sat f32, convToF fmtF32 m false (ofIntV low)].getD i.sub.toNat (0, 0)
    let v : DWord := if (i.sub = 6 ∨ i.sub = 7) ∧ i.u = false then (BitVec.ofNat 32 r.1).signExtend 64 else BitVec.ofNat 64 r.1
    exec (.sfcvt i) s = .next (nextPc (raiseFlags (ws s i.h.d v) r.2)))

/-- R127, R52: an instruction whose k guard is false only advances the PC: the scalar instructions, the guarded ones of
control and of the system, the queue ports, the context instructions and those that issue engine operations. -/
def Obligations.FalseGuardOnlyAdvances : Prop :=
  (∀ mk ∈ [Instr.sadd, .ssub, .smul, .smulh, .sdiv, .srem, .sand, .sor, .sxor, .sshl, .sshr, .ssra, .smin, .smax, .scmp,
    .ssel, .smov, .sbfx, .sbfi, .sbitc, .slea, .sfma, .sfcvt], GuardOff mk IntI.h) ∧
  (∀ mk ∈ [Instr.sget, .sput, .trap, .brk, .sysc, .pause, .waitc, .sysrd, .syswr, .monc, .haltc, .brx,
    .accdef, .lpad], GuardOff mk RriI.h) ∧
  (∀ mk ∈ [Instr.bra, .call, .loop, .yield], GuardOff mk BrI.h) ∧
  (∀ mk ∈ [Instr.ret, .waith, .tsth, .canh, .tlbi, .spmark, .spquit, .launch, .tdesc, .accstat, .spawnf, .qpop, .qpush],
    GuardOff mk RrrI.h) ∧
  (∀ mk ∈ [Instr.sld, .sst, .satom, .fence], GuardOff mk LocI.h) ∧
  (∀ mk ∈ [Instr.cpy, .cpyt, .tld, .tst, .gat, .gatp, .sca, .scaa, .amog, .sigN, .sigW, .ctrs, .coll, .triga, .route,
    .edrn, .kvapp, .kvfork, .kvfree, .pfxf, .pfxi, .pgchk], GuardOff mk EngI.h) ∧
  (∀ mk ∈ [Instr.ctxsv, .ctxld], GuardOff mk MemI.h) ∧
  (∀ (i : EngI) (s : State), kGuard i.h s = false → rangeBad s [(i.h.a, 2)] = false →
    exec (.kvmap i) s = .next (nextPc s)) ∧
  (∀ (i : RrrI) (s : State), kGuard i.h s = false →
    (i.mod.getLsbD 3 = true ∨ rangeBad s [(i.h.d, 1), (i.h.a, 1)] = false → exec (.guess i) s = .next (nextPc s)) ∧
    (rangeBad s [(i.h.d, 1)] = false → exec (.accept i) s = .next (nextPc s)))

/-- R127, R25: of a scalar integer instruction that runs outside an access processor, everything outside the moving
carriage stands, every byte of memory among it, and of the carriage everything but s[d] and the pc; s0 reads 0. -/
def Obligations.ScalarFrame : Prop :=
  ∀ mk ∈ [Instr.sadd, .ssub, .smul, .smulh, .sdiv, .srem, .sand, .sor, .sxor, .sshl, .sshr, .ssra, .smin, .smax, .ssel,
    .sbfx, .slea], ∀ (i : IntI) (s t : State), RunsS i.h (i.h.a :: bField i) s → exec (mk i) s = .next t →
    OthersKept s t ∧ SelfKept s t ∧ (∀ n, n ≠ sNum i.h.d → rsN t n = rsN s n) ∧ (∀ n, rk t n = rk s n) ∧
    (∀ a, mget t a = mget s a) ∧ rsN t 0 = 0 ∧ pcOf t = pcOf s + 12

/-! ## Vector integer instructions (08) -/

/-- R140, R141, R128: the element-wise results of every active thread, and nothing else of any v register. The MOD
bits of each are those of its row, and the I64 forms name even registers. R172: the instruction waits while a posted pass
reads what it would change. -/
def Obligations.VectorIntegerResults : Prop :=
  VecResult .vaddI32 (useDAB 1) (useAB 1) (fun i s tid =>
    let a := opV s i.h.a tid
    let b := vecB i s tid
    if i.sat then clampI i.u 32 (intOf i.u a + intOf i.u b) else a + b) ∧
  VecResult .vsubI32 (useDAB 1) (useAB 1) (fun i s tid =>
    let a := opV s i.h.a tid
    let b := vecB i s tid
    if i.sat then clampI i.u 32 (intOf i.u a - intOf i.u b) else a - b) ∧
  VecResult .vmulI32 (useDAB 1) (useAB 1) (fun i s tid =>
    let a := opV s i.h.a tid
    let b := vecB i s tid
    if i.sub = 1 then
      (if i.u then (a.setWidth 64 * b.setWidth 64).extractLsb' 32 32
       else (a.signExtend 64 * b.signExtend 64).extractLsb' 32 32)
    else if i.sat then clampI i.u 32 (intOf i.u a * intOf i.u b) else a * b) ∧
  VecResult .vand (useDAB 1) (useAB 1) (fun i s tid => opV s i.h.a tid &&& vecB i s tid) ∧
  VecResult .vor (useDAB 1) (useAB 1) (fun i s tid => opV s i.h.a tid ||| vecB i s tid) ∧
  VecResult .vxor (useDAB 1) (useAB 1) (fun i s tid => opV s i.h.a tid ^^^ vecB i s tid) ∧
  VecResult .vshl (useDAB 1) (useAB 1) (fun i s tid => opV s i.h.a tid <<< (vecB i s tid).toNat) ∧
  VecResult .vshr (useDAB 1) (useAB 1) (fun i s tid => opV s i.h.a tid >>> (vecB i s tid).toNat) ∧
  VecResult .vsra (useDAB 1) (useAB 1) (fun i s tid => (opV s i.h.a tid).sshiftRight (vecB i s tid).toNat) ∧
  VecResult .vminI32 (useDAB 1) (useAB 1) (fun i s tid =>
    let a := opV s i.h.a tid
    let b := vecB i s tid
    if (if i.u then b.ult a else b.slt a) then b else a) ∧
  VecResult .vmaxI32 (useDAB 1) (useAB 1) (fun i s tid =>
    let a := opV s i.h.a tid
    let b := vecB i s tid
    if (if i.u then a.ult b else a.slt b) then b else a) ∧
  VecResult .vmadI32 (fun i => useDAB 1 i ++ useC i 1) (fun i => useAB 1 i ++ useC i 1) (fun i s tid =>
    let a := opV s i.h.a tid
    let b := vecB i s tid
    let c := vecC i s tid
    if i.sat then clampI i.u 32 (intOf i.u a * intOf i.u b + intOf i.u c) else a * b + c) ∧
  VecResult .vdot4I8 (fun i => useDAB 1 i ++ useC i 1) (fun i => useAB 1 i ++ useC i 1) (fun i s tid =>
    let a := opV s i.h.a tid
    let b := vecB i s tid
    let byte (u : Bool) (x : Word) (j : Nat) : Int :=
      if u then ((x.extractLsb' (8 * j) 8).toNat : Int) else (x.extractLsb' (8 * j) 8).toInt
    let term (j : Nat) : Int := byte (i.low.getLsbD 1) a j * byte (i.low.getLsbD 0) b j
    let x := (vecC i s tid).toInt + term 0 + term 1 + term 2 + term 3
    if i.sat then clampI false 32 x else BitVec.ofInt 32 x) ∧
  VecResult64 .vaddI64 (useDAB 2) (useAB 2) (fun i s tid =>
    let a := opV64 s i.h.a tid
    let b := vecB64 i s tid
    if i.sat then clampI i.u 64 (intOf i.u a + intOf i.u b) else a + b) ∧
  VecResult64 .vsubI64 (useDAB 2) (useAB 2) (fun i s tid =>
    let a := opV64 s i.h.a tid
    let b := vecB64 i s tid
    if i.sat then clampI i.u 64 (intOf i.u a - intOf i.u b) else a - b) ∧
  VecResult64 .vmulI64 (useDAB 2) (useAB 2) (fun i s tid =>
    let a := opV64 s i.h.a tid
    let b := vecB64 i s tid
    if i.sat then clampI i.u 64 (intOf i.u a * intOf i.u b) else a * b) ∧
  (∀ (i : IntI) (s : State) (p : Pass) (st : Nat × Nat), RunsV i.h (useDAB 1 i) (useAB 1 i) s → p ∈ s.passes →
    i.h.d.toNat < 1536 → st ∈ active s i.h → SlotsDistinct s → p.regs.contains (vKey st.2 i.h.d.toNat) = true →
    exec (.vand i) s = .next s) ∧
  (∀ i : IntI, let refused (i' : Instr) : Prop := checked i' = .error .reservedModifier
    (∀ mk ∈ [Instr.vaddI32, .vaddI64, .vsubI32, .vsubI64, .vmulI64, .vmadI32], i.sub ≠ 0 ∨ i.low ≠ 0 → refused (mk i)) ∧
    (2 ≤ i.sub.toNat ∨ (i.sub = 1 ∧ i.sat = true) ∨ i.low ≠ 0 → refused (.vmulI32 i)) ∧
    (∀ mk ∈ [Instr.vand, .vor, .vxor, .vshl, .vshr, .vsra], i.sat = true ∨ i.u = true ∨ i.sub ≠ 0 ∨ i.low ≠ 0 → refused (mk i)) ∧
    (∀ mk ∈ [Instr.vminI32, .vmaxI32], i.sat = true ∨ i.sub ≠ 0 ∨ i.low ≠ 0 → refused (mk i)) ∧
    (∀ mk ∈ [Instr.vaddI64, .vsubI64, .vmulI64], WellFormed (mk i) → i.h.d.toNat % 2 = 0 ∧
      (i.h.a.toNat < 1536 → i.h.a.toNat % 2 = 0) ∧ (i.h.b.toNat < 1536 → isRri i.t = false → i.h.b.toNat % 2 = 0)))

/-- R142, R143, R144: selection by p[SUB], moves in both widths, bit fields, bit counts, and thread identities. -/
def Obligations.VectorMovesAndBits : Prop :=
  (∀ (i : IntI) (s : State), i.low = 0 → RunsV i.h (useDAB 1 i) (useAB 1 i) s → MayWrite s i.h 1 →
    ∃ t, exec (.vsel i) s = .next t ∧ pcOf t = pcOf s + 12 ∧ VecKept s t ∧
      WritesV s t i.h (fun tid => if rp s tid i.sub.toNat then opV s i.h.a tid else vecB i s tid)) ∧
  (∀ (i : IntI) (s : State), i.low = 1 → i.h.d.toNat < 1536 → RunsV i.h (useDAB 2 i) (useAB 2 i) s → MayWrite s i.h 2 →
    ∃ t, exec (.vsel i) s = .next t ∧ pcOf t = pcOf s + 12 ∧ VecKept s t ∧
      WritesV64 s t i.h (fun tid => if rp s tid i.sub.toNat then opV64 s i.h.a tid else vecB64 i s tid)) ∧
  (∀ (i : IntI) (s : State), i.low = 0 → RunsV i.h ((i.h.d, 1) :: movUse i 1) (movUse i 1) s → MayWrite s i.h 1 →
    ∃ t, exec (.vmov i) s = .next t ∧ pcOf t = pcOf s + 12 ∧ VecKept s t ∧
      WritesV s t i.h (fun tid => match i.t with
        | .rrr _ => opV s i.h.a tid
        | .rri x => x)) ∧
  (∀ (i : IntI) (s : State), i.low = 1 → i.h.d.toNat < 1536 → RunsV i.h ((i.h.d, 2) :: movUse i 2) (movUse i 2) s → MayWrite s i.h 2 →
    ∃ t, exec (.vmov i) s = .next t ∧ pcOf t = pcOf s + 12 ∧ VecKept s t ∧
      WritesV64 s t i.h (fun tid => match i.t with
        | .rrr _ => opV64 s i.h.a tid
        | .rri x => if i.u then x.setWidth 64 else x.signExtend 64)) ∧
  VecResult .vbfx (useDAB 1) (useAB 1) (fun i s tid =>
    let a := opV s i.h.a tid
    let b := vecB i s tid
    let pos := (b.extractLsb' 0 5).toNat
    let len := min (b.extractLsb' 8 6).toNat (32 - pos)
    if len = 0 then 0
    else if i.u then (a <<< (32 - len - pos)) >>> (32 - len)
    else (a <<< (32 - len - pos)).sshiftRight (32 - len)) ∧
  (∀ (i : IntI) (s : State), i.sub.toNat ≤ 3 → RunsV i.h [(i.h.d, 1), (i.h.a, 1)] [(i.h.a, 1)] s → MayWrite s i.h 1 →
    ∃ t, exec (.vbitc i) s = .next t ∧ pcOf t = pcOf s + 12 ∧ VecKept s t ∧
      WritesV s t i.h (fun tid =>
        let a := opV s i.h.a tid
        [a.cpop, a.clz, a.ctz, a.reverse].getD i.sub.toNat 0)) ∧
  (∀ (i : IntI) (s : State), i.sub = 4 → RunsV i.h [(i.h.d, 1), (i.h.a, 1)] [(i.h.a, 1)] s → MayWrite s i.h 1 →
    ∃ t, exec (.vbitc i) s = .next t ∧ pcOf t = pcOf s + 12 ∧ VecKept s t ∧
      WritesV s t i.h (fun tid =>
        let a := opV s i.h.a tid
        a.extractLsb' 0 8 ++ (a.extractLsb' 8 8 ++ (a.extractLsb' 16 8 ++ a.extractLsb' 24 8)))) ∧
  (∀ (i : IntI) (s : State), i.sub.toNat ≤ 2 → RunsV i.h [(i.h.d, 1)] [] s → MayWrite s i.h 1 →
    ∃ t, exec (.vtid i) s = .next t ∧ pcOf t = pcOf s + 12 ∧ VecKept s t ∧
      WritesV s t i.h (fun tid =>
        let home := (homeOf s tid).index
        BitVec.ofNat 32 ([tid % 128, home, home * s.self.slots.length + tid % 128].getD i.sub.toNat 0))) ∧
  (∀ (i : IntI) (s : State), i.sub.toNat = 3 ∨ i.sub.toNat = 4 → SlotsDistinct s → RunsV i.h [(i.h.d, 1)] [] s → MayWrite s i.h 1 →
    ∃ t, exec (.vtid i) s = .next t ∧ pcOf t = pcOf s + 12 ∧ VecKept s t ∧ ∀ st ∈ active s i.h,
      rv t st.2 i.h.d.toNat = BitVec.ofNat 32 (if i.sub = 3 then st.1 else st.1 % 32))

/-- R142, R147: comparisons and the Boolean and conversion forms of VPRED; p0 stays 1. COUNT and FIRST write s[d]. -/
def Obligations.VectorPredicates : Prop :=
  (∀ (i : IntI) (s : State), i.h.d.toNat < 16 → i.sub.toNat ≤ 5 → RunsV i.h (useAB 1 i) (useAB 1 i) s →
    ∃ t, exec (.vcmpI32 i) s = .next t ∧ pcOf t = pcOf s + 12 ∧ PredKept s t ∧ WritesP s t i.h (fun tid =>
      let a := opV s i.h.a tid
      let b := vecB i s tid
      let lt := if i.u then a.ult b else a.slt b
      let gt := if i.u then b.ult a else b.slt a
      [a == b, a != b, lt, !gt, gt, !lt].getD i.sub.toNat false)) ∧
  (∀ (i : IntI) (s : State), i.h.d.toNat < 16 → i.sub.toNat ≤ 5 → RunsV i.h (useAB 2 i) (useAB 2 i) s →
    ∃ t, exec (.vcmpI64 i) s = .next t ∧ pcOf t = pcOf s + 12 ∧ PredKept s t ∧ WritesP s t i.h (fun tid =>
      let a := opV64 s i.h.a tid
      let b := vecB64 i s tid
      let lt := if i.u then a.ult b else a.slt b
      let gt := if i.u then b.ult a else b.slt a
      [a == b, a != b, lt, !gt, gt, !lt].getD i.sub.toNat false)) ∧
  (∀ (i : IntI) (s : State), i.h.d.toNat < 16 → i.sub.toNat ≤ 3 → RunsV i.h [] [] s →
    ∃ t, exec (.vpred i) s = .next t ∧ pcOf t = pcOf s + 12 ∧ PredKept s t ∧ WritesP s t i.h (fun tid =>
      let a := rp s tid i.h.a.toNat
      let b := rp s tid i.h.b.toNat
      [a && b, a || b, a != b, a && !b].getD i.sub.toNat false)) ∧
  (∀ (i : IntI) (s : State), i.h.d.toNat < 16 → i.sub = 4 → RunsV i.h [(i.h.a, 1)] [(i.h.a, 1)] s →
    ∃ t, exec (.vpred i) s = .next t ∧ pcOf t = pcOf s + 12 ∧ PredKept s t ∧
      WritesP s t i.h (fun tid => opV s i.h.a tid != 0)) ∧
  (∀ (i : IntI) (s : State), i.sub = 5 → RunsV i.h [(i.h.d, 1)] [] s → MayWrite s i.h 1 →
    ∃ t, exec (.vpred i) s = .next t ∧ pcOf t = pcOf s + 12 ∧ VecKept s t ∧
      WritesV s t i.h (fun tid => if rp s tid i.h.a.toNat then 1 else 0)) ∧
  (∀ (i : IntI) (s : State), i.sub = 6 ∨ i.sub = 7 → RunsV i.h [] [] s →
    let hits := (active s i.h).filter (fun st => rp s st.2 i.h.a.toNat)
    exec (.vpred i) s = .next (nextPc (ws s i.h.d
      (if i.sub = 6 then BitVec.ofNat 64 hits.length
       else match hits with
        | [] => 0xFFFFFFFFFFFFFFFF#64
        | st :: _ => BitVec.ofNat 64 st.1))))

/-- R145, R146, R148, R149: VSHFL reads v[a] of the slot its mode names, as it stood, and 0 from a slot with no live
thread; the k-th active thread of VSCAN receives the fold of the values up to it; VRDS folds them all into s[d], a sum exactly and narrowed
once. Without an active thread MIN and MAX of W64 give the limit of the 64-bit range (the model's choice, log 101). -/
def Obligations.VectorCrossThread : Prop :=
  (∀ (i : IntI) (s : State), i.sub.toNat ≤ 3 → SlotsDistinct s → rangeBad s (useDAB 1 i) = false → shflPoison i s = none →
    MayWrite s i.h 1 →
    ∃ t, exec (.vshfl i) s = .next t ∧ pcOf t = pcOf s + 12 ∧ VecKept s t ∧ ∀ st ∈ active s i.h,
      let w := s.self.slots.length
      let g := if i.low = 0 then w else min (2 ^ i.low.toNat) w
      let x := (vecB i s st.2).toNat
      let o := st.1 - st.1 % g
      let src := [o + x % g, if o + x ≤ st.1 then st.1 - x else st.1, if st.1 + x < o + g then st.1 + x else st.1,
        o + (st.1 ^^^ x) % g].getD i.sub.toNat 0
      rv t st.2 i.h.d.toNat = match s.self.slots[src]? with
        | some (u + 1) => if isLive s u then opV s i.h.a u else 0
        | _ => 0) ∧
  (∀ (i : IntI) (s : State), SlotsDistinct s → RunsV i.h [(i.h.d, 1), (i.h.a, 1)] [(i.h.a, 1)] s → MayWrite s i.h 1 →
    ∃ t, exec (.vscan i) s = .next t ∧ pcOf t = pcOf s + 12 ∧ VecKept s t ∧
      ∀ k (hk : k < (active s i.h).length),
        rv t (active s i.h)[k].2 i.h.d.toNat =
          ((active s i.h).take (if i.low = 1 then k else k + 1)).foldl
            (fun acc st => redStep i.sub.toNat i.sat i.u acc (opV s i.h.a st.2)) (redIdent i.sub.toNat i.u 32)) ∧
  (∀ (i : IntI) (s : State), i.low = 0 → RunsV i.h [(i.h.a, 1)] [(i.h.a, 1)] s →
    ∃ r : Word, exec (.vrds i) s = .next (nextPc (ws s i.h.d (if i.u then r.setWidth 64 else r.signExtend 64))) ∧
      (i.sub = 0 → let x := (active s i.h).foldl (fun acc st => acc + intOf i.u (opV s i.h.a st.2)) 0
        r = if i.sat then clampI i.u 32 x else BitVec.ofInt 32 x) ∧
      (i.sub ≠ 0 → r = (active s i.h).foldl
        (fun acc st => redStep i.sub.toNat false i.u acc (opV s i.h.a st.2)) (redIdent i.sub.toNat i.u 32))) ∧
  (∀ (i : IntI) (s : State), i.low = 1 → RunsV i.h [(i.h.a, 2)] [(i.h.a, 2)] s →
    ∃ r : DWord, exec (.vrds i) s = .next (nextPc (ws s i.h.d r)) ∧
      (i.sub = 0 → let x := (active s i.h).foldl (fun acc st => acc + intOf i.u (opV64 s i.h.a st.2)) 0
        r = if i.sat then clampI i.u 64 x else BitVec.ofInt 64 x) ∧
      (i.sub ≠ 0 → r = (active s i.h).foldl
        (fun acc st => redStep i.sub.toNat false i.u acc (opV64 s i.h.a st.2)) (redIdent i.sub.toNat i.u 64)))

/-! ## Vector floating point (09) -/

/-- R153, R154, R150, R151: each active thread's exact result rounded once in the instruction's mode, its sources after ABS
and NEG; the flags of all active threads go to AST. -/
def Obligations.VectorFloatResults : Prop :=
  FpResult .vfaddF32 (fpDAB 1) (fpAB 1) (fun i s tid =>
    fAdd fmtF32 (tailMode s i.t) (decodeF fmtF32 (fa32 i s tid)) (decodeF fmtF32 (fb32 i s tid))) ∧
  FpResult .vfmulF32 (fpDAB 1) (fpAB 1) (fun i s tid =>
    fMul fmtF32 (tailMode s i.t) (decodeF fmtF32 (fa32 i s tid)) (decodeF fmtF32 (fb32 i s tid))) ∧
  FpResult .vfdivF32 (fpDAB 1) (fpAB 1) (fun i s tid =>
    fDiv fmtF32 (tailMode s i.t) (decodeF fmtF32 (fa32 i s tid)) (decodeF fmtF32 (fb32 i s tid))) ∧
  FpResult .vfmaF32 (fun i => fpDAB 1 i ++ fpUseC i 1) (fun i => fpAB 1 i ++ fpUseC i 1) (fun i s tid =>
    fMadd fmtF32 (tailMode s i.t) (decodeF fmtF32 (fa32 i s tid)) (decodeF fmtF32 (fb32 i s tid))
      (decodeF fmtF32 (fc32 i s tid))) ∧
  FpResult .vfmaH2 (fun i => fpDAB 1 i ++ fpUseC i 1) (fun i => fpAB 1 i ++ fpUseC i 1) (fun i s tid =>
    packedOp fmtF16 i (tailMode s i.t) (opV s i.h.a tid) (fpB i s tid) (fpC i s tid)) ∧
  FpResult .vfmaBf2 (fun i => fpDAB 1 i ++ fpUseC i 1) (fun i => fpAB 1 i ++ fpUseC i 1) (fun i s tid =>
    packedOp fmtBF16 i (tailMode s i.t) (opV s i.h.a tid) (fpB i s tid) (fpC i s tid)) ∧
  FpResult .vfsqrtF32 (fpDA 1) (fun i => fpUseA1 i 1) (fun i s tid =>
    fSqrt fmtF32 (tailMode s i.t) (decodeF fmtF32 (fu32 i s tid))) ∧
  FpResult64 .vfaddF64 (fpDAB 2) (fpAB 2) (fun i s tid =>
    fAdd fmtF64 (tailMode s i.t) (decodeF fmtF64 (fa64 i s tid)) (decodeF fmtF64 (fb64 i s tid))) ∧
  FpResult64 .vfmulF64 (fpDAB 2) (fpAB 2) (fun i s tid =>
    fMul fmtF64 (tailMode s i.t) (decodeF fmtF64 (fa64 i s tid)) (decodeF fmtF64 (fb64 i s tid))) ∧
  FpResult64 .vfdivF64 (fpDAB 2) (fpAB 2) (fun i s tid =>
    fDiv fmtF64 (tailMode s i.t) (decodeF fmtF64 (fa64 i s tid)) (decodeF fmtF64 (fb64 i s tid))) ∧
  FpResult64 .vfmaF64 (fun i => fpDAB 2 i ++ fpUseC i 2) (fun i => fpAB 2 i ++ fpUseC i 2) (fun i s tid =>
    fMadd fmtF64 (tailMode s i.t) (decodeF fmtF64 (fa64 i s tid)) (decodeF fmtF64 (fb64 i s tid))
      (decodeF fmtF64 (fc64 i s tid))) ∧
  FpResult64 .vfsqrtF64 (fpDA 2) (fun i => fpUseA1 i 2) (fun i s tid =>
    fSqrt fmtF64 (tailMode s i.t) (decodeF fmtF64 (fu64 i s tid)))

/-- R155, R157, R158, R159: minimum and maximum never round; the functions round the exact value once (that the model's
fixed point decides every rounding of VFEXP2 and VFLOG2 is log 10); VFRND rounds to an integral value; VFCLASS sets one bit. R156, R162: the comparisons write p[d] and raise IV as their condition gives;
VBSC gives every active thread of a block the block word of that block's active values. -/
def Obligations.VectorFloatFunctions : Prop :=
  FpResult .vfminF32 (fpDAB 1) (fpAB 1) (fun i s tid =>
    fMinMax fmtF32 false (i.sub == 1) (fa32 i s tid) (fb32 i s tid) (decodeF fmtF32 (fa32 i s tid))
      (decodeF fmtF32 (fb32 i s tid))) ∧
  FpResult .vfmaxF32 (fpDAB 1) (fpAB 1) (fun i s tid =>
    fMinMax fmtF32 true (i.sub == 1) (fa32 i s tid) (fb32 i s tid) (decodeF fmtF32 (fa32 i s tid))
      (decodeF fmtF32 (fb32 i s tid))) ∧
  FpResult64 .vfminF64 (fpDAB 2) (fpAB 2) (fun i s tid =>
    fMinMax fmtF64 false (i.sub == 1) (fa64 i s tid) (fb64 i s tid) (decodeF fmtF64 (fa64 i s tid))
      (decodeF fmtF64 (fb64 i s tid))) ∧
  FpResult64 .vfmaxF64 (fpDAB 2) (fpAB 2) (fun i s tid =>
    fMinMax fmtF64 true (i.sub == 1) (fa64 i s tid) (fb64 i s tid) (decodeF fmtF64 (fa64 i s tid))
      (decodeF fmtF64 (fb64 i s tid))) ∧
  FpResult .vfrcpF32 (fpDA 1) (fun i => fpUseA1 i 1) (fun i s tid =>
    fRcp fmtF32 (tailMode s i.t) (decodeF fmtF32 (fu32 i s tid))) ∧
  FpResult .vfrsqF32 (fpDA 1) (fun i => fpUseA1 i 1) (fun i s tid =>
    fRsq fmtF32 (tailMode s i.t) (decodeF fmtF32 (fu32 i s tid))) ∧
  FpResult .vfexp2F32 (fpDA 1) (fun i => fpUseA1 i 1) (fun i s tid =>
    fExp2 fmtF32 (tailMode s i.t) (decodeF fmtF32 (fu32 i s tid))) ∧
  FpResult .vflog2F32 (fpDA 1) (fun i => fpUseA1 i 1) (fun i s tid =>
    fLog2 fmtF32 (tailMode s i.t) (decodeF fmtF32 (fu32 i s tid))) ∧
  (∀ (i : FpI) (s : State), i.sub.getLsbD 0 = false → RunsV i.h (fpDA 1 i) (fpUseA1 i 1) s → MayWrite s i.h 1 →
    ∃ t, exec (.vfrnd i) s = .next t ∧ pcOf t = pcOf s + 12 ∧ FpKept s t ∧
      WritesV s t i.h (fun tid => BitVec.ofNat 32 (fRnd fmtF32 (tailMode s i.t) (i.sub.getLsbD 1) (fu32 i s tid)).1) ∧
      CollectsFlags s t i.h (fun tid => (fRnd fmtF32 (tailMode s i.t) (i.sub.getLsbD 1) (fu32 i s tid)).2)) ∧
  (∀ (i : FpI) (s : State), i.sub.getLsbD 0 = true → i.h.d.toNat < 1536 → RunsV i.h (fpDA 2 i) (fpUseA1 i 2) s → MayWrite s i.h 2 →
    ∃ t, exec (.vfrnd i) s = .next t ∧ pcOf t = pcOf s + 12 ∧ FpKept s t ∧
      WritesV64 s t i.h (fun tid => BitVec.ofNat 64 (fRnd fmtF64 (tailMode s i.t) (i.sub.getLsbD 1) (fu64 i s tid)).1) ∧
      CollectsFlags s t i.h (fun tid => (fRnd fmtF64 (tailMode s i.t) (i.sub.getLsbD 1) (fu64 i s tid)).2)) ∧
  (∀ (i : FpI) (s : State), i.sub = 0 → RunsV i.h (fpDA 1 i) (fpUseA1 i 1) s → MayWrite s i.h 1 →
    ∃ t, exec (.vfclass i) s = .next t ∧ pcOf t = pcOf s + 12 ∧ VecKept s t ∧
      WritesV s t i.h (fun tid => BitVec.ofNat 32 (fClass fmtF32 (fu32 i s tid)))) ∧
  (∀ (i : FpI) (s : State), i.sub = 1 → RunsV i.h ((i.h.d, 1) :: fpUseA1 i 2) (fpUseA1 i 2) s → MayWrite s i.h 1 →
    ∃ t, exec (.vfclass i) s = .next t ∧ pcOf t = pcOf s + 12 ∧ VecKept s t ∧
      WritesV s t i.h (fun tid => BitVec.ofNat 32 (fClass fmtF64 (fu64 i s tid)))) ∧
  (∀ (i : FpI) (s : State), i.h.d.toNat < 16 → RunsV i.h (fpAB 1 i) (fpAB 1 i) s →
    ∃ t, exec (.vfcmpF32 i) s = .next t ∧ pcOf t = pcOf s + 12 ∧ t.v = s.v ∧ t.mem = s.mem ∧
      WritesP s t i.h (fun tid => (fCmp i.sub.toNat (decodeF fmtF32 (fa32 i s tid)) (decodeF fmtF32 (fb32 i s tid))).1) ∧
      CollectsFlags s t i.h (fun tid =>
        (fCmp i.sub.toNat (decodeF fmtF32 (fa32 i s tid)) (decodeF fmtF32 (fb32 i s tid))).2)) ∧
  (∀ (i : FpI) (s : State), i.h.d.toNat < 16 → RunsV i.h (fpAB 2 i) (fpAB 2 i) s →
    ∃ t, exec (.vfcmpF64 i) s = .next t ∧ pcOf t = pcOf s + 12 ∧ t.v = s.v ∧ t.mem = s.mem ∧
      WritesP s t i.h (fun tid => (fCmp i.sub.toNat (decodeF fmtF64 (fa64 i s tid)) (decodeF fmtF64 (fb64 i s tid))).1) ∧
      CollectsFlags s t i.h (fun tid =>
        (fCmp i.sub.toNat (decodeF fmtF64 (fa64 i s tid)) (decodeF fmtF64 (fb64 i s tid))).2)) ∧
  (∀ (cc : Nat) (x y : FVal), x.isNan = true ∨ y.isNan = true →
    (fCmp cc x y).1 = (cc == 1 || 7 ≤ cc) ∧ ((fCmp cc x y).2 = fIV ↔ (2 ≤ cc ∧ cc ≤ 5) ∨ x.isSig = true ∨ y.isSig = true)) ∧
  (∀ (i : FpI) (s : State), SlotsDistinct s → RunsV i.h (fpDA 1 i) (fpUseA1 i 1) s → MayWrite s i.h 1 →
    ∃ t, exec (.vbsc i) s = .next t ∧ pcOf t = pcOf s + 12 ∧ FpKept s t ∧ ∀ st ∈ active s i.h,
      CollectsFlags s t i.h (fun tid => sigFlag [decodeF fmtF32 (fu32 i s tid)]) ∧
      rv t st.2 i.h.d.toNat = BitVec.ofNat 32 (bscWord i.sub.toNat
        (((active s i.h).filter (fun u => u.1 / 32 == st.1 / 32)).map (fun u => decodeF fmtF32 (fu32 i s u.2)))))

/-! ## Local memory (16 R258-R263, 02 R29) -/

/-- R258, R259, R29, R197: a load of active threads counts as one outstanding load and goes on; no register changes before
the data arrives, and no memory ever does. Where nothing owns a line or goes first, each thread's bytes are taken from its
space at once, the two 64-bit halves of a 128-bit access each by itself. -/
def Obligations.LocalLoads : Prop :=
  (∀ e ∈ [(Instr.lds, LocSpace.shm), (.ldd, .scr), (.ldl, .spill)], ∀ (i : LocI) (s : State),
    i.wid.toNat ≤ 4 → RunsV i.h (locRegs i) (locSrcs i) s → MayWrite s i.h (widRegs i.wid) →
    accFault s e.2 (widBytes i.wid) (vecAddrs s i true) = none →
    ∃ t, ∃ l ∈ t.loads, exec (e.1 i) s = .next t ∧ l.id = s.nextId ∧ l.homes = homesOf s.self ∧
      (∀ a, mget t a = mget s a) ∧ t.v = s.v ∧ t.stores = s.stores ∧ pcOf t = pcOf s + 12 ∧
      (Unowned s → ∀ x ∈ vecAddrs s i true, ∀ p ∈ (if i.wid = 4 then [(0, 8), (8, 8)] else [(0, 2 ^ i.wid.toNat)]),
        let keys := locKeys s e.2 x.2.1 (x.2.2 + p.1) p.2
        LoadElem.v (loadCells x.2.1 (i.h.d.toNat + p.1 / 4) (keys.map (mget s)) i.u) (accBad s [] keys) ∈ l.elems)) ∧
  (∀ (i : LocI) (s : State), s.apMode = false → RunsS i.h [i.h.a, i.h.b] s → locOk s (sclSpace i) (sclAddr s i true) = true →
    sclAddr s i true % widBytes i.wid = 0 →
    ∃ t, ∃ l ∈ t.loads, exec (.sld i) s = .next t ∧ l.id = s.nextId ∧ l.homes = homesOf s.self ∧ t.stores = s.stores ∧
      (∀ a, mget t a = mget s a) ∧ (∀ n, rsN t n = rsN s n) ∧ pcOf t = pcOf s + 12 ∧
      (Unowned s →
        let keys := locKeys s (sclSpace i) 0 (sclAddr s i true) (widBytes i.wid)
        let x := leNat (keys.map (mget s))
        l.elems = [.s s.self.id (sNum i.h.d) (if i.u then BitVec.ofNat 64 x else (BitVec.ofNat (8 * keys.length) x).signExtend 64)
          (accBad s [] keys)]))

/-- R258, R259, R261, R197: a store goes on as one outstanding store and writes no byte of memory but those that its active
threads name; no register changes. Where nothing owns a line or goes first, the threads whose bytes no other thread names
read back as they stood in the data registers. -/
def Obligations.LocalStores : Prop :=
  (∀ e ∈ [(Instr.sts, LocSpace.shm), (.std, .scr), (.stl, .spill)], ∀ (i : LocI) (s : State),
    i.wid.toNat ≤ 4 → RunsV i.h (locRegs i) (locSrcs i) s → accFault s e.2 (widBytes i.wid) (vecAddrs s i true) = none →
    logFull s e.2 (vecKeys s i e.2 true) = false →
    ∃ t, exec (e.1 i) s = .next t ∧ pcOf t = pcOf s + 12 ∧ t.v = s.v ∧ t.p = s.p ∧ t.loads = s.loads ∧
      t.stores = s.stores ++ [{ id := s.nextId, homes := homesOf s.self }] ∧
      (∀ a, a ∉ vecKeys s i e.2 true → mget t a = mget s a) ∧
      (Unowned s → ∀ x ∈ vecAddrs s i true,
        (∀ y ∈ vecAddrs s i true, y ≠ x →
          ∀ k ∈ locKeys s e.2 x.2.1 x.2.2 (widBytes i.wid), k ∉ locKeys s e.2 y.2.1 y.2.2 (widBytes i.wid)) →
        (locKeys s e.2 x.2.1 x.2.2 (widBytes i.wid)).Nodup →
        (locKeys s e.2 x.2.1 x.2.2 (widBytes i.wid)).map (mget t) = regBytes s x.2.1 i.h.d.toNat (widBytes i.wid))) ∧
  (∀ (i : LocI) (s : State), s.apMode = false → i.wid.toNat ≤ 3 → RunsS i.h [i.h.a, i.h.b] s →
    locOk s (sclSpace i) (sclAddr s i true) = true → sclAddr s i true % widBytes i.wid = 0 →
    let keys := locKeys s (sclSpace i) 0 (sclAddr s i true) (widBytes i.wid)
    logFull s (sclSpace i) keys = false →
    ∃ t, exec (.sst i) s = .next t ∧ pcOf t = pcOf s + 12 ∧ (∀ n, rsN t n = rsN s n) ∧
      t.stores = s.stores ++ [{ id := s.nextId, homes := homesOf s.self }] ∧
      (∀ a, a ∉ keys → mget t a = mget s a) ∧
      (Unowned s → keys.map (mget t) = bitsLe (widBytes i.wid) (rs s i.h.d)))

/-- R260, R261: an atomic goes on as one outstanding load, or store in the form without a result, and changes no byte of
memory but those that its active threads name. Where nothing owns a line or goes first, a thread whose bytes no other
thread names reads the old value and writes what its operation gives; the returning form keeps the old value for its
register. -/
def Obligations.LocalAtomics : Prop :=
  (∀ e ∈ [(Instr.atoms, LocSpace.shm), (.atomd, .scr)], ∀ (i : LocI) (s : State),
    i.wid = 2 ∨ i.wid = 3 → RunsV i.h (atomRegs i) (atomSrcs i) s →
    (i.low.getLsbD 0 = false → MayWrite s i.h (if i.wid = 3 then 2 else 1)) →
    accFault s e.2 (widBytes i.wid) (vecAddrs s i false) = none → logFull s e.2 (vecKeys s i e.2 false) = false →
    ∃ t, exec (e.1 i) s = .next t ∧ pcOf t = pcOf s + 12 ∧ t.v = s.v ∧
      (∀ a, a ∉ vecKeys s i e.2 false → mget t a = mget s a) ∧
      (i.low.getLsbD 0 = true → t.loads = s.loads ∧ t.stores = s.stores ++ [{ id := s.nextId, homes := homesOf s.self }]) ∧
      (i.low.getLsbD 0 = false → t.stores = s.stores ∧ ∃ l ∈ t.loads, l.id = s.nextId ∧ l.homes = homesOf s.self) ∧
      (Unowned s → ∀ x ∈ vecAddrs s i false,
        let keys := locKeys s e.2 x.2.1 x.2.2 (widBytes i.wid)
        let old := keys.map (mget s)
        let new := keys.map (mget t)
        (∀ y ∈ vecAddrs s i false, y ≠ x → ∀ k ∈ keys, k ∉ locKeys s e.2 y.2.1 y.2.2 (widBytes i.wid)) →
        (vecAddrs s i false).Nodup →
        (i.wid = 2 → leBits 32 new = atomicNew i.aop (leBits 32 old) (opV s i.h.b x.2.1) (rv s x.2.1 i.h.d.toNat)) ∧
        (i.wid = 3 → leBits 64 new = atomicNew i.aop (leBits 64 old) (opV64 s i.h.b x.2.1) (rv64 s x.2.1 i.h.d.toNat)) ∧
        (i.low.getLsbD 0 = false → ∃ l ∈ t.loads, l.id = s.nextId ∧
          LoadElem.v (loadCells x.2.1 i.h.d.toNat old true) (accBad s [] keys) ∈ l.elems))) ∧
  (∀ (i : LocI) (s : State), s.apMode = false → i.wid = 2 ∨ i.wid = 3 →
    RunsS i.h (i.h.a :: i.h.b :: (if i.aop = 9 then [i.h.d] else [])) s →
    locOk s (sclSpace i) (sclAddr s i false) = true → sclAddr s i false % widBytes i.wid = 0 →
    let keys := locKeys s (sclSpace i) 0 (sclAddr s i false) (widBytes i.wid)
    let old := keys.map (mget s)
    logFull s (sclSpace i) keys = false →
    ∃ t, ∃ l ∈ t.loads, exec (.satom i) s = .next t ∧ pcOf t = pcOf s + 12 ∧ l.id = s.nextId ∧ l.homes = homesOf s.self ∧
      (∀ a, a ∉ keys → mget t a = mget s a) ∧
      (Unowned s →
        let new := keys.map (mget t)
        (i.wid = 2 → leBits 32 new =
          atomicNew i.aop (leBits 32 old) ((rs s i.h.b).setWidth 32) ((rs s i.h.d).setWidth 32)) ∧
        (i.wid = 3 → leBits 64 new = atomicNew i.aop (leBits 64 old) (rs s i.h.b) (rs s i.h.d)) ∧
        l.elems = [.s s.self.id (sNum i.h.d) (BitVec.ofNat 64 (leNat old)) (accBad s [] keys)])) ∧
  (∀ old b cmp : DWord, atomicNew 0 old b cmp = old + b ∧
    atomicNew 1 old b cmp = (if b.slt old then b else old) ∧ atomicNew 2 old b cmp = (if old.slt b then b else old) ∧
    atomicNew 3 old b cmp = (if b.ult old then b else old) ∧ atomicNew 4 old b cmp = (if old.ult b then b else old) ∧
    atomicNew 5 old b cmp = old &&& b ∧ atomicNew 6 old b cmp = old ||| b ∧ atomicNew 7 old b cmp = old ^^^ b ∧
    atomicNew 8 old b cmp = b ∧ atomicNew 9 old b cmp = (if old = cmp then b else old))

/-- R29, R197: an element that arrives is written to its registers and nothing else of v changes; the load ends with its
last element; a store whose bytes are written and seen leaves the store class. R262, R204: a FENCE goes on, and stands
among the accesses while an earlier one is open. R258, R188, R369: an address at or beyond the end of its space raises
ADDR_RANGE, and one that is no multiple of the width ADDR_ALIGN, precisely and with no byte moved. -/
def Obligations.ArrivalFenceAlignment : Prop :=
  (∀ (s : State) (l : PendLoad) (cells : List (Nat × Word)) (bad : Bool), s.loads.find? (fun x => x.id == l.id) = some l →
    l.elems = [.v cells bad] → l.img = none → (cells.map (fun c => c.1)).Nodup → idWaits s l.id = false →
    ∃ t, exec (.loadDataArrival l.id 0) s = .next t ∧ (∀ c ∈ cells, cget t.v c.1 = c.2) ∧
      (∀ k, (∀ c ∈ cells, c.1 ≠ k) → cget t.v k = cget s.v k) ∧ t.mem = s.mem ∧ (∀ x ∈ t.loads, x.id ≠ l.id)) ∧
  (∀ (s : State) (l : PendLoad) (cid reg : Nat) (x : DWord) (bad : Bool), s.loads.find? (fun y => y.id == l.id) = some l →
    l.elems = [.s cid reg x bad] → l.img = none → reg ≠ 0 → s.self.id = cid → cid ≠ 0 → s.apMode = false →
    idWaits s l.id = false →
    ∃ t, exec (.loadDataArrival l.id 0) s = .next t ∧ rsN t reg = x ∧ (∀ n, n ≠ reg → rsN t n = rsN s n) ∧
      t.mem = s.mem ∧ (∀ y ∈ t.loads, y.id ≠ l.id)) ∧
  (∀ (s : State) (n : Nat), idWaits s n = false → (∀ e ∈ s.stale, e.id ≠ n) →
    ∃ t, exec (.storePerformed n) s = .next t ∧ (∀ x ∈ t.stores, x.id ≠ n) ∧ (∀ x ∈ s.stores, x.id ≠ n → x ∈ t.stores) ∧
      t.mem = s.mem) ∧
  (∀ (i : LocI) (s : State), RunsS i.h [] s →
    ∃ t, exec (.fence i) s = .next t ∧ pcOf t = pcOf s + 12 ∧ t.mem = s.mem ∧ t.v = s.v ∧
      (anyOpen s i.t.scope = false → t.waits = s.waits) ∧
      (anyOpen s i.t.scope = true → i.t.scope ≠ 0 → ∃ w ∈ t.waits, w.act = .fence ∧ w.id = s.nextId ∧ w.cid = s.self.id ∧
        w.order = i.t.order ∧ w.scope = i.t.scope)) ∧
  (∀ (s : State) (ws : List LocAcc) (f x : LocAcc), f ∈ ws → f.act = .fence → f.id ≠ x.id → f.cid = x.cid →
    f.order = 3 ∨ isStoreAct x.act = true → accBehind s ws x = true) ∧
  (∀ e ∈ [(Instr.lds, LocSpace.shm), (.sts, .shm), (.ldd, .scr), (.std, .scr), (.ldl, .spill), (.stl, .spill)],
    ∀ (i : LocI) (s : State) (c : Cause) (slot a : Nat), Traps s → RunsV i.h (locRegs i) (locSrcs i) s →
    accFault s e.2 (widBytes i.wid) (vecAddrs s i true) = some (c, slot, a) →
    (c = .addrRange ∨ c = .addrAlign) ∧
    ∃ t, exec (e.1 i) s = .next t ∧ Trapped s t c s.self.pc (BitVec.ofNat 64 a) 0 ∧ t.mem = s.mem ∧ t.v = s.v ∧
      t.loads = s.loads ∧ t.stores = s.stores) ∧
  (∀ e ∈ [(Instr.atoms, LocSpace.shm), (.atomd, .scr)],
    ∀ (i : LocI) (s : State) (c : Cause) (slot a : Nat), Traps s → RunsV i.h (atomRegs i) (atomSrcs i) s →
    accFault s e.2 (widBytes i.wid) (vecAddrs s i false) = some (c, slot, a) →
    ∃ t, exec (e.1 i) s = .next t ∧ Trapped s t c s.self.pc (BitVec.ofNat 64 a) 0 ∧ t.mem = s.mem ∧ t.v = s.v ∧
      t.loads = s.loads ∧ t.stores = s.stores) ∧
  (∀ mk ∈ [Instr.sld, .sst], ∀ (i : LocI) (s : State), Traps s → RunsS i.h [i.h.a, i.h.b] s →
    let a := sclAddr s i true
    (locOk s (sclSpace i) a = false → ∃ t, exec (mk i) s = .next t ∧
      Trapped s t .addrRange s.self.pc (BitVec.ofNat 64 a) 0 ∧ t.mem = s.mem) ∧
    (locOk s (sclSpace i) a = true → a % widBytes i.wid ≠ 0 → ∃ t, exec (mk i) s = .next t ∧
      Trapped s t .addrAlign s.self.pc (BitVec.ofNat 64 a) 0 ∧ t.mem = s.mem)) ∧
  (∀ (s : State) (sp : LocSpace) (n : Nat) (as : List (Nat × Nat × Nat)) (c : Cause) (slot a : Nat),
    accFault s sp n as = some (c, slot, a) → (∃ tid, (slot, tid, a) ∈ as) ∧
      (c = .addrRange → locOk s sp a = false) ∧ (c ≠ .addrRange → c = .addrAlign ∧ a % n ≠ 0 ∧ ∀ x ∈ as, locOk s sp x.2.2 = true))

/-- R263, R37, R241-R243: QPOP takes the oldest entry of its queue as an outstanding load, all ones from a closed empty one,
AP_FAULT from one that a fault has closed, and waits at an open empty one; QPUSH adds to the inbound queue of a context that
runs as an outstanding store, waits while it is full or an earlier access is open (log 86), raises AP_FAULT at a faulted
context, and discards the value where there is none (log 28) or it has exited (log 30); in a path both raise DIVERGE_ILLEGAL
and in an instance above 0 SPEC_ILLEGAL. The access processor's forms do the same from the other side, its SLD reads shared
memory, the scratchpad or a residency lookup, and its EXIT closes all eight queues. -/
def Obligations.QueuePorts : Prop :=
  (∀ (i : RrrI) (s : State), s.apMode = false → RunsS i.h [] s → s.self.spinst = 0 → inRegion s.self = false →
    (∀ x q, popQueue i.h.a.toNat s.self.q = some (x, q) →
      ∃ t, exec (.qpop i) s = .next t ∧ t.self.q = q ∧ pcOf t = pcOf s + 12 ∧ t.mem = s.mem ∧
        ∃ l ∈ t.loads, l.id = s.nextId ∧ LoadElem.s s.self.id (sNum i.h.d) x false ∈ l.elems) ∧
    (popQueue i.h.a.toNat s.self.q = none → s.self.qClosed.getLsbD i.h.a.toNat = false → exec (.qpop i) s = .next s) ∧
    (popQueue i.h.a.toNat s.self.q = none → s.self.qClosed.getLsbD i.h.a.toNat = true → apFaulted s.self = false →
      ∃ t, exec (.qpop i) s = .next t ∧ pcOf t = pcOf s + 12 ∧
        ∃ l ∈ t.loads, l.id = s.nextId ∧ LoadElem.s s.self.id (sNum i.h.d) 0xFFFFFFFFFFFFFFFF#64 false ∈ l.elems) ∧
    (popQueue i.h.a.toNat s.self.q = none → s.self.qClosed.getLsbD i.h.a.toNat = true → apFaulted s.self = true → Traps s →
      ∃ t, exec (.qpop i) s = .next t ∧ Trapped s t .apFault s.self.pc 0 0 ∧ TrapKept s t)) ∧
  (∀ (i : RrrI) (s : State), s.apMode = false → RunsS i.h [i.h.a] s → s.self.spinst = 0 → inRegion s.self = false →
    (s.self.ap = none → exec (.qpush i) s = .next (nextPc s)) ∧
    (∀ a, s.self.ap = some a →
      (a.faulted = true → Traps s → ∃ t, exec (.qpush i) s = .next t ∧ Trapped s t .apFault s.self.pc 0 0 ∧ TrapKept s t) ∧
      (a.faulted = false → a.exited = true → exec (.qpush i) s = .next (nextPc s)) ∧
      (a.faulted = false → a.exited = false → anyOpen s 3 = true ∨ 32 ≤ a.inbound.length → exec (.qpush i) s = .next s) ∧
      (a.faulted = false → a.exited = false → anyOpen s 3 = false → a.inbound.length < 32 →
        ∃ t, exec (.qpush i) s = .next t ∧ (apOf t).inbound = a.inbound ++ [rs s i.h.a] ∧ pcOf t = pcOf s + 12 ∧
          t.stores = s.stores ++ [{ id := s.nextId, homes := homesOf s.self }] ∧ t.mem = s.mem))) ∧
  (∀ e ∈ [(Instr.qpop, false), (.qpush, true)], ∀ (i : RrrI) (s : State), RunsS i.h (if e.2 then [i.h.a] else []) s →
    (s.self.spinst ≠ 0 → exec (e.1 i) s = .next (trapC s .specIllegal)) ∧
    (inRegion s.self = true → Traps s →
      ∃ t, exec (e.1 i) s = .next t ∧ Trapped s t .divergeIllegal s.self.pc 0 0 ∧ TrapKept s t)) ∧
  (∀ (i : RrrI) (s : State), s.apMode = true → RunsS i.h [] s →
    ((apOf s).inbound = [] → exec (.apQpop i) s = .next s) ∧
    (∀ x r, (apOf s).inbound = x :: r →
      ∃ t, exec (.apQpop i) s = .next t ∧ (apOf t).inbound = r ∧ pcOf t = pcOf s + 12 ∧
        (sNum i.h.d ≠ 0 → rs t i.h.d = x))) ∧
  (∀ (i : RrrI) (s : State), s.apMode = true → RunsS i.h [i.h.a] s →
    (32 ≤ queueLen s i.h.d.toNat → exec (.apQpush i) s = .next s) ∧
    (queueLen s i.h.d.toNat < 32 →
      ∃ t, exec (.apQpush i) s = .next t ∧ t.self.q = s.self.q ++ [(i.h.d.toNat, rs s i.h.a)] ∧ pcOf t = pcOf s + 12)) ∧
  (∀ (i : RrrI) (s : State), s.apMode = true → RunsS i.h [] s →
    ∃ t, exec (.apExit i) s = .next t ∧ t.self.qClosed = 0xFF#8 ∧ (apOf t).running = false ∧ (apOf t).exited = true ∧
      t.mem = s.mem ∧ t.self.s = s.self.s) ∧
  (∀ (i : LocI) (s : State) (sp : LocSpace), s.apMode = true → (i.low = 0 ∧ sp = .shm) ∨ (i.low = 1 ∧ sp = .scr) →
    RunsS i.h [i.h.a, i.h.b] s → locOk s sp (sclAddr s i true) = true → sclAddr s i true % widBytes i.wid = 0 →
    let keys := locKeys s sp 0 (sclAddr s i true) (widBytes i.wid)
    ((keyLines keys).any (lineExcl s) = true → exec (.apSld i) s = .next s) ∧
    ((keyLines keys).any (lineExcl s) = false →
      ∃ t, exec (.apSld i) s = .next t ∧ pcOf t = pcOf s + 12 ∧ t.mem = s.mem ∧
        (sNum i.h.d ≠ 0 → rs t i.h.d = loadS (keys.map (mget s)) i.u))) ∧
  (∀ (i : LocI) (s : State), s.apMode = true → i.low = 2 → RunsS i.h [i.h.a, i.h.b] s →
    let key := rs s i.h.a + rs s i.h.b + i.t.ofs.signExtend 64
    ∃ t, exec (.apSld i) s = .next t ∧ pcOf t = pcOf s + 12 ∧ t.mem = s.mem ∧
      (sNum i.h.d ≠ 0 → rs t i.h.d = loadS (bitsLe (widBytes i.wid) (mapResult s s.self.world key)) i.u))

/-! ## Control (21, 03, 23) -/

/-- R333: BRA goes to P + 12 × BOFS; CALL does and links P + 12; RET goes to s[a]; LOOP counts its register down and branches
while it is not 0. R45: a step that fetches at a target that is no multiple of 4 takes PC_ALIGN. R334: BRX takes the entry
of its table when the header, the index, the target and the target's LPAD are as they must be, and waits while a package it
reads is not reached (log 41); a misaligned or unreadable table raises FETCH_FAULT with the table's address, an unreadable
target FETCH_FAULT with the target's (log 41), a header or an index out of order JTAB_FAULT, a misaligned target PC_ALIGN,
another label LPAD_FAULT. LPAD only advances the pc; R345: so does PAUSE, and its carriage may not issue for IMM cycles. -/
def Obligations.BranchesAndTables : Prop :=
  (∀ (i : BrI) (s : State), RunsS i.h [] s →
    ∃ t, exec (.bra i) s = .next t ∧ pcOf t = pcOf s + 12 * i.bofs.signExtend 64 ∧ OthersKept s t ∧
      (∀ n, rsN t n = rsN s n) ∧ ∀ n, rk t n = rk s n) ∧
  (∀ (i : BrI) (s : State), RunsS i.h [] s →
    ∃ t, exec (.call i) s = .next t ∧ pcOf t = pcOf s + 12 * i.bofs.signExtend 64 ∧ OthersKept s t ∧
      (∀ n, rsN t n = if n = sNum i.h.d ∧ n ≠ 0 then pcOf s + 12 else rsN s n) ∧ ∀ n, rk t n = rk s n) ∧
  (∀ (i : RrrI) (s : State), RunsS i.h [i.h.a] s →
    ∃ t, exec (.ret i) s = .next t ∧ pcOf t = rs s i.h.a ∧ OthersKept s t ∧
      (∀ n, rsN t n = rsN s n) ∧ ∀ n, rk t n = rk s n) ∧
  (∀ (i : BrI) (s : State), RunsS i.h [i.h.d] s →
    ∃ t, exec (.loop i) s = .next t ∧ OthersKept s t ∧
      pcOf t = (if (rs s i.h.d).toNat ≤ 1 then pcOf s + 12 else pcOf s + 12 * i.bofs.signExtend 64) ∧
      (∀ n, rsN t n = if n = sNum i.h.d ∧ rs s i.h.d ≠ 0 then rs s i.h.d - 1 else rsN s n) ∧ ∀ n, rk t n = rk s n) ∧
  (∀ s : State, s.turn = .fetch → s.apMode = false → s.self.id ≠ 0 → s.self.pc.toNat % 4 ≠ 0 →
    step s = endStep s.self.id (issued s (.next (trapAt s .pcAlign s.self.pc)))) ∧
  (∀ (i : RriI) (s : State), RunsS i.h [i.h.a, i.h.b] s →
    let a := rs s i.h.a
    let b := rs s i.h.b
    let label := i.imm.toNat % 2 ^ 16
    let at' := a + 8 + 8 * b
    let faults (c : Cause) (addr info : DWord) : Prop :=
      ∃ t, exec (.brx i) s = .next t ∧ Trapped s t c s.self.pc addr info ∧ t.mem = s.mem ∧ t.v = s.v ∧ t.p = s.p ∧
        t.self.s = s.self.s ∧ t.self.k = s.self.k
    (a.toNat % 8 ≠ 0 → Traps s → faults .fetchFault a 0) ∧
    (a.toNat % 8 = 0 → fetchUp s a 8 = false → exec (.brx i) s = .next s) ∧
    (a.toNat % 8 = 0 → fetchUp s a 8 = true → Traps s → ∀ c, tableWord s a = .error c → faults .fetchFault a 0) ∧
    (∀ hdr, a.toNat % 8 = 0 → fetchUp s a 8 = true → tableWord s a = .ok hdr →
      (field hdr 0 32 = 0 ∨ 4096 < field hdr 0 32 ∨ field hdr 32 16 ≠ label ∨ field hdr 0 32 ≤ b.toNat → Traps s →
        faults .jtabFault a 0) ∧
      (0 < field hdr 0 32 → field hdr 0 32 ≤ 4096 → field hdr 32 16 = label → b.toNat < field hdr 0 32 →
        (fetchUp s at' 8 = false → exec (.brx i) s = .next s) ∧
        (fetchUp s at' 8 = true → Traps s → ∀ c, tableWord s at' = .error c → faults .fetchFault a 0) ∧
        (∀ tgt, fetchUp s at' 8 = true → tableWord s at' = .ok tgt →
          (tgt.toNat % 4 ≠ 0 → Traps s → faults .pcAlign tgt 0) ∧
          (tgt.toNat % 4 = 0 → fetchUp s tgt 12 = false → exec (.brx i) s = .next s) ∧
          (tgt.toNat % 4 = 0 → fetchUp s tgt 12 = true → Traps s → ∀ c, fetchAt s tgt = .error c →
            faults .fetchFault tgt 0) ∧
          (∀ bs, tgt.toNat % 4 = 0 → fetchUp s tgt 12 = true → fetchAt s tgt = .ok bs →
            (isLpad bs label = true → exec (.brx i) s = .next (setPc s tgt)) ∧
            (isLpad bs label = false → Traps s → faults .lpadFault a tgt)))))) ∧
  (∀ (i : RriI) (s : State), RunsS i.h [] s → exec (.lpad i) s = .next (nextPc s)) ∧
  (∀ (i : RriI) (s : State), RunsS i.h [] s →
    let n := (i.imm.extractLsb' 0 16).toNat
    ∃ t, exec (.pause i) s = .next t ∧ pcOf t = pcOf s + 12 ∧ OthersKept s t ∧ (∀ n, rsN t n = rsN s n) ∧
      (n = 0 → t.self.issue = s.self.issue) ∧ (n ≠ 0 → t.self.issue = { s.self.issue with stall := s.cyc + n + 1 })) ∧
  (∀ (s : State) (c : Carriage), s.cyc < c.issue.stall → issues s c = false)

/-- R369, R370, R345, R63: TRAP, SYSC and BRK enter the handler with their cause, the immediate in TINFO and the address
to resume at; an encoding that is no instruction and an opcode that is reserved trap whatever the guard reads. R370,
R371: a trap raised in the handler halts the carriage with DOUBLE_FAULT, the old TRES and both causes, and where TVEC
is 0 the first trap halts it; the debug unit logs the record. ERET ends handler mode at TRES, and outside it traps. -/
def Obligations.TrapsAndReturn : Prop :=
  (∀ (i : RriI) (s : State), RunsS i.h [] s → Traps s →
    ∃ t, exec (.trap i) s = .next t ∧ Trapped s t .trap (s.self.pc + 12) 0 (i.imm.setWidth 64) ∧ TrapKept s t) ∧
  (∀ (i : RriI) (s : State), RunsS i.h [] s → Traps s →
    ∃ t, exec (.sysc i) s = .next t ∧ Trapped s t .syscall (s.self.pc + 12) 0 (i.imm.setWidth 64) ∧ TrapKept s t) ∧
  (∀ (i : RriI) (s : State), RunsS i.h [] s → Traps s → Config.debugOn s.self.world = false →
    ∃ t, exec (.brk i) s = .next t ∧ Trapped s t .breakpoint s.self.pc 0 (i.imm.setWidth 64) ∧ TrapKept s t) ∧
  (∀ (i : RriI) (s : State), RunsS i.h [] s → s.self.spinst = 0 → Config.debugOn s.self.world = true →
    exec (.brk i) s = .next (onSelf s (fun c => { c with halted := true }))) ∧
  (∀ (w : BitVec 88) (s : State), Traps s →
    ∃ t, exec (.ill w) s = .next t ∧ Trapped s t .illegalInstruction s.self.pc 0 0 ∧ TrapKept s t) ∧
  (∀ (op : BitVec 8) (w : BitVec 88) (s : State), Traps s →
    ∃ t, exec (.reservedOpcode op w) s = .next t ∧ Trapped s t .reservedOpcode s.self.pc 0 0 ∧ TrapKept s t) ∧
  (∀ (i : RriI) (s : State), RunsS i.h [] s → s.apMode = false → s.self.spinst = 0 → loopOf s s.self = none →
    s.self.handler = true →
    ∃ t, exec (.sysc i) s = .next t ∧ t.self.halted = true ∧ t.self.trap.cause.extractLsb' 0 8 = causeCode .doubleFault ∧
      t.self.trap.tres = s.self.trap.tres ∧ t.self.trap.tpc = s.self.pc ∧
      t.self.trap.tinfo = (s.self.trap.cause.extractLsb' 0 8).setWidth 64 <<< 8 ||| (causeCode .syscall).setWidth 64 ∧
      t.faultLog = s.faultLog ++ [(s.self.id, t.self.trap)] ∧ t.mem = s.mem) ∧
  (∀ (i : RriI) (s : State), RunsS i.h [] s → s.apMode = false → s.self.spinst = 0 → loopOf s s.self = none →
    s.self.handler = false → tvec s s.self.world = 0 →
    ∃ t, exec (.sysc i) s = .next t ∧ t.self.halted = true ∧ t.self.handler = false ∧
      t.self.trap.cause.extractLsb' 0 8 = causeCode .syscall ∧ t.self.trap.tpc = s.self.pc ∧
      t.self.trap.tres = s.self.pc + 12 ∧ t.faultLog = s.faultLog ++ [(s.self.id, t.self.trap)] ∧ t.mem = s.mem) ∧
  (∀ (i : RrrI) (s : State), s.self.handler = true →
    exec (.eret i) s = .next (onSelf s (fun c => { c with handler := false, pc := c.trap.tres }))) ∧
  (∀ (i : RrrI) (s : State), Traps s →
    ∃ t, exec (.eret i) s = .next t ∧ Trapped s t .privilege s.self.pc 0 0 ∧ TrapKept s t)

/-- R339, R341, R338: WAITC goes on once the four counts are within their limits; WAITH once its handle is not pending,
with the status in s[d]; TSTH tells which it is at once. A stale token raises HANDLE_STALE. R340: YIELD goes on at its
target while its condition holds, and otherwise releases the issue slot until it does; then it resumes there. -/
def Obligations.WaitsAndYields : Prop :=
  (∀ (i : RriI) (s : State), RunsS i.h [] s →
    exec (.waitc i) s = .next (if waitcReady s i.imm then nextPc s else s)) ∧
  (∀ (s : State) (imm : Word) (h : Nat), homesOf s.self = [h] →
    (waitcReady s imm = true ↔ loadCount s h ≤ (imm.extractLsb' 0 8).toNat ∧ storeCount s h ≤ (imm.extractLsb' 8 8).toNat ∧
      engineCount s h ≤ (imm.extractLsb' 16 8).toNat ∧ tileCount s h ≤ (imm.extractLsb' 24 8).toNat)) ∧
  (∀ (i : RrrI) (s : State) (v : HandleView), RunsS i.h (if i.mod.getLsbD 0 then [i.h.a] else []) s →
    namedHandle s (i.mod.getLsbD 0) i.h.a = some v → tfDue s v = false →
    exec (.waith i) s = .next (if v.pending then s else nextPc (ws s i.h.d v.status))) ∧
  (∀ (i : RrrI) (s : State) (v : HandleView), RunsS i.h (if i.mod.getLsbD 0 then [i.h.a] else []) s →
    i.mod.getLsbD 1 = false → namedHandle s (i.mod.getLsbD 0) i.h.a = some v → tfDue s v = false →
    exec (.tsth i) s = .next (nextPc (wk (ws s i.h.d (if v.pending then 0 else v.status)) i.t.c.toNat (!v.pending)))) ∧
  (∀ (i : RrrI) (s : State), RunsS i.h (if i.mod.getLsbD 0 then [i.h.a] else []) s → i.mod.getLsbD 1 = true →
    exec (.tsth i) s = .next (nextPc (ws s i.h.d (handleOf s.self i.h.a.toNat).tok))) ∧
  (∀ mk ∈ [Instr.waith, .tsth], ∀ (i : RrrI) (s : State), RunsS i.h [i.h.a] s → i.mod.getLsbD 0 = true →
    i.mod.getLsbD 1 = false → namedHandle s true i.h.a = none → Traps s →
    ∃ t, exec (mk i) s = .next t ∧ Trapped s t .handleStale s.self.pc 0 0 ∧ TrapKept s t) ∧
  (∀ (s : State) (f : OpField), namedHandle s false f = some (handleOf s.self f.toNat)) ∧
  (∀ v : HandleView, (v.tok = 0 → v.pending = false ∧ v.status = 0) ∧
    (v.tok ≠ 0 → (v.pending = true ↔ v.done = false) ∧ v.status.extractLsb' 62 2 = 0 ∧
      v.status.extractLsb' 0 62 = v.stat.extractLsb' 0 62)) ∧
  (∀ (i : BrI) (s : State), s.apMode = false →
    RunsS i.h (if field i.mod 0 2 = 1 then [i.h.a] else if field i.mod 0 2 = 2 then [i.h.b] else []) s →
    let kind := field i.mod 0 2
    let ref : DWord := if kind = 1 then rs s i.h.a else i.h.a.setWidth 64
    let imm := (rs s i.h.b).setWidth 32
    let next := s.self.pc + 12 * i.bofs.signExtend 64
    let seen := if 2 ≤ kind then takeSync s s.self.id 5 [ctrMark s.self.coach ref.toNat] else s
    (yieldTest s kind ref imm = .go →
      exec (.yield i) s = .next (onSelf seen (fun c => { c with wait := .run, pc := next }))) ∧
    (yieldTest s kind ref imm = .wait →
      exec (.yield i) s = .next (onSelf s (fun c => { c with wait := .yielded kind ref imm next })))) ∧
  (∀ (s : State) (kind : Nat) (ref next : DWord) (imm : Word), s.apMode = false → s.self.id ≠ 0 →
    s.self.wait = .yielded kind ref imm next → yieldTest s kind ref imm = .go →
    let seen := if 2 ≤ kind then takeSync s s.self.id 5 [ctrMark s.self.coach ref.toNat] else s
    exec (.yieldResume s.self.id) s = .next (onSelf seen (fun c => { c with wait := .run, pc := next }))) ∧
  (∀ (s : State) (ref : DWord) (imm : Word),
    (yieldTest s 2 ref imm = .go ↔ termHolds s s.self.coach { imm := imm, ctr := ref.toNat } = true) ∧
    (n7Bound s s.self.coach = false →
      (termHolds s s.self.coach { imm := imm, ctr := ref.toNat } = true ↔ imm.toNat ≤ (rctr s s.self.coach ref.toNat).toNat)))

/-- R342, R314: a carriage that reaches BAR waits until every carriage that takes part stands there, then all go on at
P + 12 once no access of theirs is open; BAR.CARR never waits; BAR.CORE and BAR.COACH of a path or a spawned carriage raise
DIVERGE_ILLEGAL. A lowering ends with its time. -/
def Obligations.Barriers : Prop :=
  (∀ (i : RriI) (s : State), i.imm = 0 → exec (.bar i) s = .next (nextPc s)) ∧
  (∀ (i : RriI) (s : State), i.imm ≠ 0 → PlainCar s →
    exec (.bar i) s = .next (onSelf s (fun c => { c with wait := .bar i.imm.toNat }))) ∧
  (∀ (i : RriI) (s : State), i.imm ≠ 0 → Traps s → inRegion s.self = true ∨ s.self.kind = .spawned →
    ∃ t, exec (.bar i) s = .next t ∧ Trapped s t .divergeIllegal s.self.pc 0 0 ∧ TrapKept s t) ∧
  (∀ (s : State) (k : Nat) (o : Option Nat),
    let stands (c : Carriage) : Bool := takesPart k o c && c.wait == .bar (if o.isSome then 1 else 3)
    (∃ c ∈ cars s, stands c = true) → barFull s k o = true →
    waiting s (((cars s).filter stands).map (fun c => c.id)) = false →
    unseen s (((cars s).filter stands).map (fun c => c.id)) 3 = false →
    ∃ t, exec (.barRelease k o) s = .next t ∧ t.mem = s.mem ∧ t.v = s.v ∧
      cars t = (cars s).map (fun c => if stands c then { c with wait := .run, pc := c.pc + 12 } else c) ∧
      (o = none → ∀ x ∈ t.coaches, x.id = k → x.arrived = 0)) ∧
  (∀ (s : State) (k : Nat) (o : Option Nat), barFull s k o = false → exec (.barRelease k o) s = .next s) ∧
  (∀ (s : State) (k : Nat) (o : Option Nat), o.isSome = true ∨ (∀ x, coach? s k = some x → x.arrived = 0) →
    (barFull s k o = true ↔ ∀ c ∈ cars s, takesPart k o c = true → c.wait = .bar (if o.isSome then 1 else 3))) ∧
  (∀ (s : State), s.self.id ≠ 0 → s.self.spin.lowered = true → s.self.spin.deadline ≤ s.cyc →
    ∃ t, exec (.spinTimeout s.self.id) s = .next t ∧ t.self = { s.self with spin := Spin.reset } ∧ t.mem = s.mem)

/-! ## Divergence (18, 21) -/

/-- R293, R335, R336: DBR waits with its predicate, target and JOIN address; a path carriage parks at the JOIN of its
innermost entry, and any other JOIN is a JOIN_MISMATCH. R293, R294, R298: once all concerned carriages stand at one
DBR, and no access of theirs waits for its line (log 86), an unused entry is taken, they are regrouped under it, and no thread's register changes; a path
carriage, at once or when a slot frees, starts with the s registers that its lead held at the DBR (R297) and keeps every
thread in its lane; threads join again after the JOIN. -/
def Obligations.Divergence : Prop :=
  (∀ (i : BrI) (s : State), s.apMode = false →
    let taken := s.self.pc + 12 * i.bofs.signExtend 64
    let join := s.self.pc + BitVec.ofNat 64 (12 * (i.mod.toNat * 2048 + i.h.b.toNat))
    exec (.dbr i) s = .next (onSelf s (fun c => { c with wait := .dbr i.h.a.toNat taken join }))) ∧
  (∀ (i : RrrI) (s : State) (r : Recon), recon? s s.self.coach (pathEntry s.self) = some r → inRegion s.self = true →
    r.joinAddr = s.self.pc → exec (.join i) s = .next (onSelf s (fun c => { c with wait := .parked }))) ∧
  (∀ (i : RrrI) (s : State), Traps s →
    (∀ r, recon? s s.self.coach (pathEntry s.self) = some r → inRegion s.self = false ∨ r.joinAddr ≠ s.self.pc) →
    ∃ t, exec (.join i) s = .next t ∧ Trapped s t .joinMismatch s.self.pc 0 0 ∧ TrapKept s t) ∧
  (∀ (s : State) (c : Carriage) (k : Coach) (pred : Nat) (taken join : DWord), car? s c.id = some c →
    c.wait = .dbr pred taken join → awaitsForming s c = false →
    (∀ d ∈ concerned s c, isDbr d = true ∧ d.pc = c.pc) → waiting s ((concerned s c).map (fun d => d.id)) = false →
    coach? s c.coach = some k → (∃ e < 16, ∀ r ∈ k.recons, r.idx ≠ e) →
    ∃ t e r, exec (.dbrRegroup c.id) s = .next t ∧ e < 16 ∧ (∀ x ∈ k.recons, x.idx ≠ e) ∧ recon? t c.coach e = some r ∧
      r.joinAddr = join ∧ r.dbrAddr = c.pc ∧ r.members = (concerned s c).map (fun d => d.id) ∧
      (∀ x ∈ r.deferred, x.s = (car s x.lead).s) ∧
      (∀ d ∈ concerned s c, { d with wait := .regrouped e } ∈ cars t) ∧ t.mem = s.mem ∧ t.v = s.v ∧ t.p = s.p ∧
      t.live = s.live) ∧
  (∀ (gs : List Grouped) (path q w j n : Nat) (g : Grouped), (pathSlots gs path q w j)[n]? = some (some g) →
    g ∈ gs ∧ g.lane = n % 32 ∧ g.path = path) ∧
  (∀ (s : State) (coach entry : Nat) (r : Recon) (d : Deferred) (slot : Nat) (rest : List Nat),
    recon? s coach entry = some r → entry < 16 → d.id < 2 ^ 28 → r.deferred.filter (fun x => x.id == d.id) = [d] →
    pathSlotPool s coach d.core = slot :: rest →
    ∃ t, exec (.pathCarriageForm (coach * 2 ^ 32 + entry * 2 ^ 28 + d.id)) s = .next t ∧
      t.rest = s.rest ++ [formPath (car s d.lead) s.nextId slot entry d] ∧ t.mem = s.mem ∧ t.v = s.v) ∧
  (∀ (lead : Carriage) (id slot entry : Nat) (d : Deferred), entry < 16 → d.path < 2 → d.number < 2 ^ 15 →
    let c := formPath lead id slot entry d
    c.pc = d.start ∧ c.slots = d.slots ∧ c.s = d.s ∧ c.k = lead.k ∧ c.ast = lead.ast &&& 0x60#64 ∧ inRegion c = true ∧
      pathEntry c = entry ∧ pathNo c = d.path ∧ (c.pathix.extractLsb' 0 15).toNat = d.number) ∧
  (∀ (s : State) (coach entry : Nat) (r : Recon), recon? s coach entry = some r → pathArrived s coach r 0 = true →
    pathArrived s coach r 1 = true → innermost s coach entry = true →
    (∀ ids : List Nat, ids = ((cars s).filter (fun c => r.members.contains c.id ||
        (c.coach == coach && c.kind == .path && inRegion c && pathEntry c == entry))).map (fun c => c.id) →
      waiting s ids = false ∧ unseen s ids 3 = false) →
    ∃ t, exec (.joinReconverge coach entry) s = .next t ∧ recon? t coach entry = none ∧
      (∀ c ∈ cars s, c.id ∈ r.members → ∃ d ∈ cars t, d.id = c.id ∧ d.pc = r.joinAddr + 12 ∧
        d.wait = if hasLive s c then .run else .exited) ∧ t.mem = s.mem ∧ t.v = s.v)

/-! ## Launches, coaches and spawned work (17, 18, 19, 21) -/

/-- R343, R290, R283, R284: LAUNCH hands a well-formed record to the dispatcher and receives its identifier; it waits while
an earlier local access of the carriage is open or an engine operation of its has not issued (R204: an operation counts by
its issue; log 86), while the dispatcher takes none and while the record's package is not reached (log 41); of
launches of different cores in one cycle of the switch die the lower path comes first, then the lower core (log 138); a
misaligned or malformed record raises LAUNCH_RECORD, one that cannot be read the cause of its translation. R282, R284, R308:
a queue's head record is taken once, each of its 8-byte units as the tail passed it or as it stands then, and is accepted
once it is well formed and its dependences hold: QHEAD moves on. While a dependence does not hold nothing happens; a
malformed record stops the queue with LAUNCH_RECORD. A device launch is accepted in its turn once its dependences hold. -/
def Obligations.LaunchesAccepted : Prop :=
  (∀ (i : RrrI) (s : State), RunsS i.h (i.h.a :: if i.mod.getLsbD 0 then [i.h.b] else []) s → s.self.spinst = 0 →
    let a := rs s i.h.a
    (anyLocal s 5 = true ∨ dispatcherTakes s s.self = false → exec (.launch i) s = .next s) ∧
    (anyLocal s 5 = false → dispatcherTakes s s.self = true →
      (a.toNat % 128 ≠ 0 → Traps s →
        ∃ t, exec (.launch i) s = .next t ∧ Trapped s t .launchRecord s.self.pc a 0 ∧ TrapKept s t) ∧
      (a.toNat % 128 = 0 → fetchUp s a 128 = false → exec (.launch i) s = .next s) ∧
      (a.toNat % 128 = 0 → fetchUp s a 128 = true →
        (∀ c, readRecord s a = .error c → Traps s → ∃ t, exec (.launch i) s = .next t ∧ Trapped s t c s.self.pc a 0 ∧
          t.mem = s.mem ∧ t.launches = s.launches) ∧
        ∀ raw, readRecord s a = .ok raw →
          let bs := if i.mod.getLsbD 0 then putAt raw 8 (bitsLe 8 (rs s i.h.b)) else raw
          (deviceRecOk bs s.self.world s.self.space = false → Traps s →
            ∃ t, exec (.launch i) s = .next t ∧ Trapped s t .launchRecord s.self.pc a 0 ∧ TrapKept s t) ∧
          (deviceRecOk bs s.self.world s.self.space = true →
            ∃ t, exec (.launch i) s = .next t ∧ pcOf t = pcOf s + 12 ∧ t.devCount = s.devCount + 1 ∧
              (let lid := mkLid 0xFF s.self.world s.devCount
               t.launches = s.launches ++ [newLaunch s.nextId lid (recOf bs) false none] ∧
               (isS i.h.d = true → sNum i.h.d ≠ 0 → rs t i.h.d = lid)) ∧
              (∀ (u : State) (c : Carriage), u.devSeen = t.devSeen → u.cyc / 2 = s.cyc / 2 → c.core ≠ s.self.core →
                c.pathix.toNat % 2 ^ 16 < s.self.pathix.toNat % 2 ^ 16 ∨
                  (c.pathix.toNat % 2 ^ 16 = s.self.pathix.toNat % 2 ^ 16 ∧ c.core < s.self.core) → dispatcherTakes u c = false) ∧
              (∀ n, n ≠ sNum i.h.d → rsN t n = rsN s n) ∧ t.mem = s.mem ∧ t.v = s.v)))) ∧
  (∀ (world : Bool) (q : Nat) (s : State) (h : HeldRecord), q < 64 → ready s 161 = true → headHeld s world q = some h →
    h.head = true →
    (recOk h.bytes world = true → h.since.isSome = true →
      ∃ t, exec (.launchAccept world q) s = .next t ∧
        t.launches = s.launches ++ [newLaunch s.nextId (mkLid q world h.num) (recOf h.bytes) true h.since] ∧
        qHead t world q = (qHead s world q + 1) % 2 ^ 48 ∧ t.mem = s.mem) ∧
    (recOk h.bytes world = true → h.since.isSome = false → exec (.launchAccept world q) s = .next s) ∧
    (recOk h.bytes world = false →
      ∃ t, exec (.launchAccept world q) s = .next t ∧ qStopped t world q = true ∧ t.launches = s.launches ∧
        field (rq t world q 0x20) 48 8 = (causeCode .launchRecord).toNat ∧ qHead t world q = qHead s world q)) ∧
  (∀ (s : State) (h : HeldRecord), qEn s h.world h.queue = true → qStopped s h.world h.queue = false →
    h.num = qHead s h.world h.queue →
    let x := watchHead s h
    x.head = true ∧ (h.head = true → x.bytes = h.bytes) ∧
    (h.head = false → ∀ u < 16, (x.bytes.drop (8 * u)).take 8 = (h.bytes.drop (8 * u)).take 8 ∨
      (x.bytes.drop (8 * u)).take 8 = ((queueRecord s h.world h.queue h.num).drop (8 * u)).take 8 ∨ h.bytes.length ≠ 128) ∧
    (recOk x.bytes h.world = true →
      (x.since.isSome = true ↔ (recOf x.bytes).deps.all (depHolds s (recOf x.bytes)) = true))) ∧
  (∀ (s : State) (l : Launch) (rest : List Launch), ready s 161 = true → devWaiting s = l :: rest →
    (l.since.isSome = true → ∃ t, exec (.launchAccept false 255) s = .next t ∧ { l with accepted := true } ∈ t.launches ∧
      t.mem = s.mem) ∧
    (l.since.isSome = false → exec (.launchAccept false 255) s = .next s))

/-- R301, R302, R344: SPAWN adds one child for each active thread to the bin of its entry, or to a free bin whose timer
starts, and waits while neither has room or an earlier access of the carriage is open (log 86); SPAWNF makes the bin fire until all it holds have gone; so does its timer.
R303, R304, R24: a firing that fits becomes one spawned carriage at its entry, each thread with its child's two words in v0
and v1, its queues open where the launch names an access-processor entry; the spawn coach retires once nothing of it is
left. -/
def Obligations.SpawnedWork : Prop :=
  (∀ (i : RrrI) (s : State), rangeBad s [(i.h.b, 1), (i.t.c, 1)] = false → s.self.spinst = 0 → active s i.h = [] →
    exec (.spawn i) s = .next (nextPc s)) ∧
  (∀ (i : RrrI) (s : State), rangeBad s [(i.h.b, 1), (i.t.c, 1)] = false → s.self.spinst = 0 → active s i.h ≠ [] →
    anyOpen s 5 = true → exec (.spawn i) s = .next s) ∧
  (∀ (i : RrrI) (s : State) (b : Bin), RunsV i.h [(i.h.b, 1), (i.t.c, 1)] [(i.h.a, 1), (i.h.b, 1), (i.t.c, 1)] s →
    s.self.spinst = 0 → anyOpen s 5 = false → active s i.h ≠ [] → bin? s s.self.core s.self.launch (rs s i.h.a) = some b →
    (256 < b.children.length + (childrenOf i s).length → exec (.spawn i) s = .next s) ∧
    (b.children.length + (childrenOf i s).length ≤ 256 →
      ∃ t, ∃ x ∈ t.bins, exec (.spawn i) s = .next t ∧ x.core = s.self.core ∧ x.idx = b.idx ∧ x.entry = b.entry ∧
        x.children = b.children ++ childrenOf i s ∧ pcOf t = pcOf s + 12 ∧ t.mem = s.mem ∧ t.v = s.v)) ∧
  (∀ (i : RrrI) (s : State), RunsV i.h [(i.h.b, 1), (i.t.c, 1)] [(i.h.a, 1), (i.h.b, 1), (i.t.c, 1)] s →
    s.self.spinst = 0 → anyOpen s 5 = false → active s i.h ≠ [] → bin? s s.self.core s.self.launch (rs s i.h.a) = none →
    (freeBins s s.self.core = [] → exec (.spawn i) s = .next s) ∧
    (freeBins s s.self.core ≠ [] →
      ∃ t, ∃ x ∈ t.bins, exec (.spawn i) s = .next t ∧ x.core = s.self.core ∧ x.idx ∈ freeBins s s.self.core ∧
        x.launch = s.self.launch ∧ x.entry = rs s i.h.a ∧ x.children = childrenOf i s ∧
        ((childrenOf i s).length < binWidth s s.self.launch → x.pend = 0 ∧ x.deadline = s.cyc + binPeriod s s.self.core) ∧
        pcOf t = pcOf s + 12 ∧ t.mem = s.mem ∧ t.v = s.v)) ∧
  (∀ (i : RrrI) (s : State), RunsS i.h [i.h.a] s → s.self.spinst = 0 →
    (bin? s s.self.core s.self.launch (rs s i.h.a) = none → exec (.spawnf i) s = .next (nextPc s)) ∧
    (∀ b, bin? s s.self.core s.self.launch (rs s i.h.a) = some b →
      ∃ t, ∃ x ∈ t.bins, exec (.spawnf i) s = .next t ∧ x.idx = b.idx ∧ x.children = b.children ∧
        x.force = b.children.length ∧ (b.children ≠ [] → x.pend ≠ 0 ∨ b.pend ≠ 0 ∨ binWidth s b.launch = 0) ∧
        pcOf t = pcOf s + 12)) ∧
  (∀ (core idx : Nat) (s : State) (b : Bin), binAt? s core idx = some b → b.deadline ≤ s.cyc → b.drain = false →
    ∃ t, ∃ x ∈ t.bins, exec (.binTimerExpiry core idx) s = .next t ∧ x.core = core ∧ x.idx = idx ∧ x.drain = true ∧
      x.children = b.children ∧ t.mem = s.mem) ∧
  (∀ (s : State) (b : Bin) (l : Launch), b.idx < 8 → binAt? s b.core b.idx = some b → launch? s b.launch = some l →
    b.pend ≠ 0 → b.pend ≤ l.rcd.width → l.rcd.width ≤ 128 → b.pend ≤ b.children.length →
    spawnFits s l (spawnRec l.rcd b.entry) b.core = true →
    ∃ t, ∃ c ∈ t.rest, exec (.spawnedCarriagePlace (b.core * 8 + b.idx)) s = .next t ∧ c.kind = .spawned ∧ c.core = b.core ∧
      c.pc = b.entry ∧ c.launch = l.id ∧ c.slots.length = l.rcd.width ∧ c.wait = .run ∧
      cget c.s 1 = l.rcd.argp ∧ cget c.s 3 = BitVec.ofNat 64 (firedOf l b.core b.entry % 2 ^ 32) ∧
      (l.rcd.apentry ≠ 0 → c.qClosed = 0 ∧ ∃ a, c.ap = some a ∧ a.pc = l.rcd.apentry ∧ a.running = true) ∧
      (l.rcd.apentry = 0 → c.qClosed = 0xFF#8 ∧ c.ap = none) ∧
      (∀ n < b.pend, ∃ x, b.children[n]? = some x ∧ c.slots[n]? = some (c.id * 128 + n + 1) ∧
        isLive t (c.id * 128 + n) = true ∧ rv t (c.id * 128 + n) 0 = x.1 ∧ rv t (c.id * 128 + n) 1 = x.2) ∧
      t.mem = s.mem) ∧
  (∀ (s : State) (k : Coach), coach? s k.id = some k → k.spawn = true → coachDone s k = true →
    (∀ b ∈ s.bins, b.launch ≠ k.launch) →
    ∃ t, exec (.spawnCoachRetire k.id) s = .next t ∧ (∀ x ∈ t.coaches, x.id ≠ k.id) ∧ (∀ c ∈ t.rest, c.coach ≠ k.id) ∧
      t.mem = s.mem)

/-- R337, R291: EXIT ends its active threads, and a carriage without a live thread has exited; EXIT.S of carriage 0 also
names the successor, whose record is read; that of another carriage is kept until carriage 0's last exit compares it; where
the launch allows none it traps. Stated outside a speculative loop. -/
def Obligations.Exits : Prop :=
  (∀ (i : RrrI) (s : State), s.self.spinst = 0 → active s i.h = [] → exec (.exit i) s = .next (nextPc s)) ∧
  (∀ (i : RrrI) (s : State) (k : Coach), s.apMode = false → s.self.spinst = 0 → active s i.h ≠ [] → ownCoach s = some k →
    loopOf s s.self = none → i.mod.getLsbD 0 = false ∨ k.spawn = true →
    lastOfZero s (active s i.h) = false ∨ namedOther k (k.succ.map (fun x => x.1)) = false →
    ∃ t, exec (.exit i) s = .next t ∧ (∀ tid, isLive t tid = (isLive s tid && !isActive s i.h tid)) ∧
      t.self.pc = s.self.pc + 12 ∧ t.self.wait = (if (liveOf t t.self).isEmpty then .exited else s.self.wait) ∧
      t.self.s = s.self.s ∧ t.mem = s.mem ∧ t.v = s.v ∧ t.coaches = s.coaches) ∧
  (∀ (i : RrrI) (s : State) (k : Coach) (r : LaunchRec), s.apMode = false → s.self.spinst = 0 → ownCoach s = some k →
    loopOf s s.self = none → i.mod.getLsbD 0 = true → k.spawn = false → anyBadS s [i.h.a] = false → k.rcd.sok = true →
    k.succ = none → (homesOfThreads (active s i.h)).any (fun h => indexOfHome s h == 0) = true →
    lastOfZero s (active s i.h) = false ∨ namedOther k (some (rs s i.h.a)) = false →
    fetchUp s (rs s i.h.a) 128 = true → readSuccessor s k (rs s i.h.a) = .ok r →
    ∃ t, ∃ x ∈ t.coaches, exec (.exit i) s = .next t ∧ x.id = k.id ∧ x.succ = some (rs s i.h.a, r) ∧
      (∀ tid, isLive t tid = (isLive s tid && !isActive s i.h tid)) ∧ t.self.pc = s.self.pc + 12 ∧ t.mem = s.mem) ∧
  (∀ (i : RrrI) (s : State) (k : Coach), s.apMode = false → s.self.spinst = 0 → active s i.h ≠ [] → ownCoach s = some k →
    loopOf s s.self = none → i.mod.getLsbD 0 = true → k.spawn = false → anyBadS s [i.h.a] = false → k.rcd.sok = true →
    (homesOfThreads (active s i.h)).any (fun h => indexOfHome s h == 0) = false → liveOfZero s ≠ [] →
    ∃ t, ∃ x ∈ t.coaches, exec (.exit i) s = .next t ∧ x.id = k.id ∧ x.succ = k.succ ∧
      x.succNamed = k.succNamed ++ (homesOfThreads (active s i.h)).map (fun h => (indexOfHome s h, rs s i.h.a)) ∧
      (∀ tid, isLive t tid = (isLive s tid && !isActive s i.h tid)) ∧ t.self.pc = s.self.pc + 12 ∧ t.mem = s.mem) ∧
  (∀ (i : RrrI) (s : State) (k : Coach), Traps s → active s i.h ≠ [] → ownCoach s = some k → k.spawn = false →
    lastOfZero s (active s i.h) = true → namedOther k (k.succ.map (fun x => x.1)) = true → i.mod.getLsbD 0 = false →
    ∃ t, exec (.exit i) s = .next t ∧ Trapped s t .successorMismatch s.self.pc 0 0 ∧ TrapKept s t) ∧
  (∀ (i : RrrI) (s : State) (k : Coach), Traps s → active s i.h ≠ [] → ownCoach s = some k → i.mod.getLsbD 0 = true →
    k.spawn = false → anyBadS s [i.h.a] = false → k.rcd.sok = false →
    ∃ t, exec (.exit i) s = .next t ∧ Trapped s t .successorMismatch s.self.pc (rs s i.h.a) 0 ∧ TrapKept s t)

/-- R285, R286, R310, R24: the coach that fits and goes first starts on its tile, its carriages at ENTRY with ARGP, the coach index and the
carriage index in s1 to s3; a coach whose work has ended retires, R292: its successor starts on the tile at once where it
fits, and otherwise once it does. -/
def Obligations.CoachLife : Prop :=
  (∀ (s : State) (l : Launch), launch? s l.id = some l → ready s 161 = true → unplaced l = true →
    nextFits s l = true →
    (∀ m ∈ s.launches.filter unplaced ++ waitingHeads s, m.id ≠ l.id → nextFits s m = true → placedBefore s m l = false) →
    ∃ t, ∃ k ∈ t.coaches, exec (.coachPlace l.id) s = .next t ∧ k.launch = l.id ∧ k.index = l.nextCoach ∧
      (k.x, k.y) = tileXY l.rcd l.nextCoach ∧ k.spawn = false ∧ k.n7 = false ∧ k.recons = [] ∧
      (∀ core ∈ coachCores k, ∀ j < l.rcd.n, ∃ c ∈ t.rest, c.coach = k.id ∧ c.core = core ∧ c.pc = l.rcd.entry ∧
        c.wait = .run ∧ c.slots.length = l.rcd.width ∧ cget c.s 1 = l.rcd.argp ∧
        cget c.s 2 = BitVec.ofNat 64 l.nextCoach ∧ cget c.s 3 = BitVec.ofNat 64 c.index) ∧
      (∃ x ∈ t.launches, x.id = l.id ∧ x.nextCoach = l.nextCoach + 1 ∧ x.placedAt.isSome = true) ∧ t.mem = s.mem) ∧
  (∀ (s : State) (l : Launch), launch? s l.id = some l →
    unplaced l = false ∨ nextFits s l = false ∨
      (∃ m ∈ s.launches.filter unplaced ++ waitingHeads s, m.id ≠ l.id ∧ nextFits s m = true ∧ placedBefore s m l = true) →
    exec (.coachPlace l.id) s = .next s) ∧
  (∀ (s : State) (k : Coach), coach? s k.id = some k → k.spawn = false → k.waiting = false → coachDone s k = true →
    let u := onCoach (onLaunch (clearCars s k.id) k.launch (fun l => { l with retiredIx := k.index :: l.retiredIx })) k.id
      (fun x => { x with waiting := true })
    (k.succ.isSome = true → exec (.coachRetire k.id) s = exec (.successorStart k.id) u ∧
      (∀ a r, k.succ = some (a, r) →
        tileFits u (succRec k.rcd r) k.launch k.x k.y true = false ∨ successorHeld u { k with waiting := true } = true →
        exec (.coachRetire k.id) s = .next u)) ∧
    (k.succ = none → ∃ t, exec (.coachRetire k.id) s = .next t ∧ (∀ c ∈ t.rest, c.coach ≠ k.id) ∧ t.mem = s.mem ∧
      (∀ x ∈ t.coaches, x.id ≠ k.id) ∧ ∀ l ∈ s.launches, l.id = k.launch →
        ∃ x ∈ t.launches, x.id = l.id ∧ x.retired = l.retired + 1 ∧ k.index ∈ x.retiredIx)) ∧
  (∀ (s : State) (k : Coach) (a : DWord) (r : LaunchRec), coach? s k.id = some k → k.waiting = true → k.succ = some (a, r) →
    tileFits s (succRec k.rcd r) k.launch k.x k.y true = true → successorHeld s k = false →
    ∃ t, ∃ x ∈ t.coaches, exec (.successorStart k.id) s = .next t ∧ x.id = k.id ∧ x.waiting = false ∧ x.succ = none ∧
      x.rcd = succRec k.rcd r ∧ (∀ j < 8, cget t.ctr (ctrKey k.id j) = 0) ∧
      (∀ core ∈ coachCores x, ∀ j < r.n, ∃ c ∈ t.rest, c.coach = k.id ∧ c.core = core ∧ c.pc = r.entry ∧ c.wait = .run) ∧
      t.mem = s.mem)

/-! ## Speculative serial loops (20, 21) -/

/-- R346, R318, R319, R321: SPLOOP takes a well-formed descriptor and waits for its window, or leaves at EXITA when LIMIT is
0; it reads the descriptor with its ORDER, behind what comes first; a descriptor out of place raises SPEC_SETUP. A window of width 1 runs BODY; a wider one first guesses. -/
def Obligations.LoopSetup : Prop :=
  (∀ (i : MemI) (s : State) (k : Coach), s.apMode = false → anyBadS s [i.h.a, i.h.b] = false → inRegion s.self = false →
    s.self.spinst = 0 → loopOf s s.self = none → s.self.kind ≠ .spawned → ownCoach s = some k →
    let x := ((rs s i.h.a).setWidth 32 + (rs s i.h.b).setWidth 32 + memOfs i.t : Word).toNat
    let keys := locKeys s .shm 0 x 128
    let r := ownRead s .shm (attrOf i.t) keys
    let bs := imgBytes s keys
    let l := loopOfDesc bs s.self.id
    let u := readDone s r
    x % 128 = 0 → x + 128 ≤ shmSize s s.self.coach →
    (readHeld s r = true → exec (.sploop i) s = .next s) ∧
    (i.t.order.toNat ≤ 1 → u = s) ∧ (s.stale = [] → bs = accRead s (logOf s (homesOf s.self)) keys) ∧
    (readHeld s r = false → imgBad s keys = false →
      loopDescOk bs s.self.nreg = true → (coachCores k).length * k.rcd.n ≤ 1 → l.w ≤ k.rcd.spec →
      (l.gent = 0 ∨ fetchUp u l.gent 12 = true ∧ ∃ c, fetchAt u l.gent = .ok c ∧ leAt c 0 1 = 0x22) →
      (l.limit = 0 → exec (.sploop i) s = .next (setPc u l.exita)) ∧
      (l.limit ≠ 0 →
        exec (.sploop i) s = .next (onSelf { u with loops := u.loops ++ [l] } (fun c => { c with wait := .window }))))) ∧
  (∀ (i : MemI) (s : State), Traps s → anyBadS s [i.h.a, i.h.b] = false → inRegion s.self = false →
    let x := ((rs s i.h.a).setWidth 32 + (rs s i.h.b).setWidth 32 + memOfs i.t : Word)
    s.self.kind = .spawned ∨ x.toNat % 128 ≠ 0 ∨ shmSize s s.self.coach < x.toNat + 128 →
    ∃ t, exec (.sploop i) s = .next t ∧ Trapped s t .specSetup s.self.pc (x.setWidth 64) 0 ∧ TrapKept s t) ∧
  (∀ (s : State) (l : Loop), l.cid ≠ 0 → loop? s l.cid = some l → (theCar s l.cid).wait = .window → l.insts = [] →
    (coach? s (theCar s l.cid).coach).any (fun k => k.stopped || k.saved) = false →
    (l.serial = true ∨ l.gent = 0 ∨ min l.w (l.limit - l.i) = 1 →
      ∃ t x, exec (.windowStart l.cid) s = .next t ∧ (theCar t l.cid).pc = l.body ∧ (theCar t l.cid).wait = .run ∧
        loop? t l.cid = some x ∧ x.wNow = 1 ∧ x.inGuess = false ∧ x.insts = [newInst 0 l.cid] ∧
        (l.iter ≠ 0 → cget (theCar t l.cid).s l.iter = BitVec.ofNat 64 l.i) ∧ t.mem = s.mem) ∧
    (l.serial = false → l.gent ≠ 0 → min l.w (l.limit - l.i) ≠ 1 →
      l.seqs.all (markReady s (theCar s l.cid).coach) = true →
      ∃ t x, exec (.windowStart l.cid) s = .next t ∧ (theCar t l.cid).pc = l.gent ∧ (theCar t l.cid).wait = .run ∧
        loop? t l.cid = some x ∧ x.wNow = min l.w (l.limit - l.i) ∧ x.inGuess = true ∧ x.insts = [newInst 0 l.cid] ∧
        t.mem = s.mem ∧ t.v = s.v))

/-- R347, R320, R321: GUESS keeps the guessed values of an instance; GUESS.GO forms every instance of the window as a copy
that starts at BODY. R348: ACCEPT declares how an instance's register is compared. R350, R351: marks, and leaving
speculation. R349, R322, R323, R324: SPEND keeps what the instance produced and waits; when it does not match what the
next one began with, every instance above is rejected. Instances commit in order; the last one goes on as the loop's
carriage. -/
def Obligations.LoopProgress : Prop :=
  (∀ (i : RrrI) (s : State) (l : Loop), i.mod.getLsbD 3 = true → RunsS i.h [] s → guessing s = some l →
    inRegion s.self = false → s.self.id ≠ 0 → s.apMode = false → passOn s [s.self.id] (span 0 s.self.accs) = false →
    ∃ t, exec (.guess i) s = .next t ∧ t.self.pc = l.body ∧
      (∀ j, 1 ≤ j → j < l.wNow → ∃ c ∈ t.rest, c.kind = .inst ∧ c.spinst = j ∧ c.pc = l.body ∧ c.wait = .run ∧
        c.coach = s.self.coach ∧ c.lead = s.self.id ∧ c.slots.length = s.self.slots.length) ∧ t.mem = s.mem) ∧
  (∀ (i : RrrI) (s : State) (l : Loop), i.mod.getLsbD 3 = false → rangeBad s [(i.h.d, 1), (i.h.a, 1)] = false →
    RunsS i.h [i.h.a] s → guessing s = some l → carried l i.h.d.toNat = true →
    (∀ st ∈ liveOf s s.self, threadBad s [(i.h.a, 1)] st.2 = false) →
    let n := field i.mod 0 3
    let d := i.h.d.toNat
    (l.wNow ≤ n → exec (.guess i) s = .next (nextPc s)) ∧
    (n < l.wNow →
      ∃ t, ∃ x ∈ t.loops, exec (.guess i) s = .next t ∧ x.cid = l.cid ∧ pcOf t = pcOf s + 12 ∧ t.mem = s.mem ∧ t.v = s.v ∧
        (d < 1536 → ∀ st ∈ liveOf s s.self, (n, ({ code := d, idx := homeIdx st.2
                                                   val := (rv s st.2 i.h.a.toNat).setWidth 64, bad := false } : CarryVal)) ∈ x.guesses) ∧
        (1536 ≤ d → (n, ({ code := d, idx := 0, val := rs s i.h.a, bad := false } : CarryVal)) ∈ x.guesses))) ∧
  (∀ (i : RrrI) (s : State) (l : Loop), rangeBad s [(i.h.d, 1)] = false →
    RunsS i.h (if 2 ≤ field i.mod 0 2 then [i.h.b] else []) s → windowOf s = some l → carried l i.h.d.toNat = true →
    let decl := (i.h.d.toNat, field i.mod 0 2, field i.mod 2 8, if 2 ≤ field i.mod 0 2 then rs s i.h.b else 0)
    ∃ t, ∃ x ∈ t.loops, exec (.accept i) s = .next t ∧ x.cid = l.cid ∧ pcOf t = pcOf s + 12 ∧ t.mem = s.mem ∧
      ∀ y ∈ l.insts, y.j = s.self.spinst →
        { y with accept := decl :: y.accept.filter (fun a => a.1 != i.h.d.toNat) } ∈ x.insts) ∧
  (∀ (i : RrrI) (s : State) (l : Loop), RunsS i.h [i.h.a] s → guessing s = some l →
    let q := (field (rs s i.h.a) 52 4, field (rs s i.h.a) 32 20)
    (markedIn l q.1 q.2 = true → exec (.spmark i) s = .next (nextPc s)) ∧
    (markedIn l q.1 q.2 = false → l.marks.length < 4 → markReady s s.self.coach q = true →
      ∃ t, ∃ x ∈ t.loops, exec (.spmark i) s = .next t ∧ x.cid = l.cid ∧ x.marks = l.marks ++ [markOf s q] ∧
        pcOf t = pcOf s + 12 ∧ t.mem = s.mem)) ∧
  (∀ (i : RrrI) (s : State) (l : Loop), RunsS i.h [] s → windowOf s = some l → s.self.spinst = 0 →
    (l.serial = true → exec (.spquit i) s = .next (nextPc s)) ∧
    (l.serial = false → ∃ t, ∃ x ∈ t.loops, exec (.spquit i) s = .next t ∧ x.cid = l.cid ∧ x.serial = true ∧ t.mem = s.mem)) ∧
  (∀ (i : RrrI) (s : State) (l : Loop) (x : Inst), windowOf s = some l → inRegion s.self = false → l.inGuess = false →
    l.sregs.contains (sNum i.h.d) = false → sNum i.h.d ≠ l.iter ∨ sNum i.h.d = 0 → instOf l s.self.spinst = some x →
    let stop := i.mod.getLsbD 0 && rk s i.t.c.toNat
    let vals := carryOf s l s.self
    (compareHolds l s.self.spinst x.accept vals = true →
      ∃ t, ∃ y ∈ t.loops, exec (.spend i) s = .next t ∧ t.self = { s.self with wait := .spend stop (sNum i.h.d) } ∧ y.cid = l.cid ∧
        { x with produced := vals, stop := stop, reached := true } ∈ y.insts ∧ t.mem = s.mem ∧ t.v = s.v) ∧
    (compareHolds l s.self.spinst x.accept vals = false →
      ∃ t, exec (.spend i) s = .next t ∧ t.mem = s.mem ∧ t.v = s.v ∧ ∀ y, loop? t l.cid = some y →
        ∀ z ∈ y.insts, s.self.spinst < z.j → z.rejected = true ∨ z.committed = true)) ∧
  (∀ (s : State) (l : Loop) (x : Inst), loop? s l.cid = some l →
    l.insts.find? (fun y => !y.committed && !y.rejected && !(l.insts.filter (fun z => z.committed)).any (fun z => z.stop)) = some x →
    l.inGuess = false → (∃ y ∈ l.insts, y.j = 0 ∧ y.reached = true) → canCommit s l x = true →
    ∃ t y, exec (.windowEnd l.cid) s = .next t ∧ loop? t l.cid = some y ∧ ∀ z ∈ y.insts, z.j = x.j → z.committed = true) ∧
  (∀ (s : State) (l : Loop) (x : Inst) (stop : Bool) (dest : Nat), l.cid ≠ 0 → loop? s l.cid = some l → l.insts = [x] →
    l.marks = [] → x.j = 0 → x.cid = l.cid → x.committed = true → x.rejected = false → x.reached = true → l.inGuess = false →
    (theCar s l.cid).wait = .spend stop dest → passesDone s [l.cid] = true →
    (x.stop = true ∨ l.limit ≤ l.i + 1 →
      ∃ t, exec (.windowEnd l.cid) s = .next t ∧ loop? t l.cid = none ∧ (theCar t l.cid).pc = l.exita ∧
        (theCar t l.cid).wait = .run ∧ (dest ≠ 0 → cget (theCar t l.cid).s dest = 1) ∧ t.mem = s.mem) ∧
    (x.stop = false → l.i + 1 < l.limit →
      ∃ t y, exec (.windowEnd l.cid) s = .next t ∧ loop? t l.cid = some y ∧ y.i = l.i + 1 ∧ y.insts = [] ∧
        (theCar t l.cid).wait = .window ∧ t.mem = s.mem))

/-! ## Engine instructions (16) -/

/-- R264, R267, R268, R185, R270: CPY, CPYT, TLD, TST and AMOG issue one operation, with shared lines for the local bytes it
reads and exclusive lines for those it writes; with its lines a CPYT, TLD or TST takes the ranges its descriptor gives then,
or fails with TILE_RANGE or TILE_MISMATCH. A CPY of no byte goes on at once, and its handle is DONE with no fault where
nothing of the carriage comes before. A local range outside its space traps ADDR_RANGE, an address or a block of an AMOG that
is not aligned ADDR_ALIGN, an invalid t register TILE_INVALID, one of another kind TILE_MISMATCH, a transposed FP4 or plain
sparse copy RESERVED_MODIFIER; an AMOG of an instance above 0, and a CPY for which its queue has no room, poison it. The
local addresses are compared as the 64-bit values the s registers hold (log 8), and of a tile copy's two faults the
descriptor's comes first (log 36). -/
def Obligations.CopyIssue : Prop :=
  (∀ (i : EngI) (s : State),
    let a := rs s i.h.a
    let b := rs s i.h.b
    let e := engSelf s
    let kind : OpKind := .copy [cpySrc i a] [cpyDst i b]
    cpyBytes i ≠ 0 → cpyBad s e i a b = none →
    (MayIssue s i [i.h.a, i.h.b] kind →
      ∃ t, exec (.cpy i) s = .next t ∧ Issues s t i kind (rangeLines e [cpySrc i a]) (rangeLines e [cpyDst i b])) ∧
    (s.apMode = false → RunsS i.h [i.h.a, i.h.b] s → holdFull s i kind = true → exec (.cpy i) s = .next (poisonInstance s))) ∧
  (∀ (i : EngI) (s : State) (x : Nat), RunsS i.h [i.h.a, i.h.b] s → cpyBytes i ≠ 0 →
    cpyBad s (engSelf s) i (rs s i.h.a) (rs s i.h.b) = some x → Traps s →
    ∃ t, exec (.cpy i) s = .next t ∧ Trapped s t .addrRange s.self.pc (BitVec.ofNat 64 x) 0 ∧ TrapKept s t) ∧
  (∀ (i : EngI) (s : State), RunsS i.h [i.h.a, i.h.b] s → cpyBytes i = 0 → s.apMode = false → s.waits = [] →
    ∃ t, exec (.cpy i) s = .next t ∧ t.self.pc = s.self.pc + 12 ∧ t.v = s.v ∧ (i.t.ring = 0 → t.mem = s.mem) ∧
      (i.t.scope = 0 ∨ (s.ops = [] ∧ s.stale = []) → s.self.spinst = 0 ∨ (i.t.ring = 0 ∧ i.t.ctr = 0) →
        s.self.id ≠ 0 → i.h.d.toNat < 16 → cget t.self.hTok i.h.d.toNat ≠ 0 →
        t.self.hDone.getLsbD i.h.d.toNat = true ∧ cget t.self.hStat i.h.d.toNat = 0)) ∧
  (∀ (i : EngI) (s : State),
    let x := rt s i.h.a
    let n := i.mod.toNat + 1
    let rb := field i.t.emod 0 12 + 1
    let st := i.t.emod.getLsbD 13
    let loc : Range := (if i.t.emod.getLsbD 12 then 2 else 1, (rs s i.h.b).toNat, n * rb)
    let kind : OpKind := .copyT st (tDaddr x) (tRowo x) (tColb x) n rb loc
    let lines := rangeLines (engSelf s) [loc]
    (tKind x = .tensor → rangeIn s (engSelf s) loc = true → MayIssue s i [i.h.b] kind →
      ∃ t, exec (.cpyt i) s = .next t ∧ Issues s t i kind (if st then lines else []) (if st then [] else lines)) ∧
    (RunsS i.h [i.h.b] s → Traps s →
      (tKind x = .invalid → ∃ t, exec (.cpyt i) s = .next t ∧ Trapped s t .tileInvalid s.self.pc 0 0 ∧ TrapKept s t) ∧
      (tKind x = .tilemem → ∃ t, exec (.cpyt i) s = .next t ∧ Trapped s t .tileMismatch s.self.pc 0 0 ∧ TrapKept s t) ∧
      (tKind x = .tensor → rangeIn s (engSelf s) loc = false →
        ∃ t, exec (.cpyt i) s = .next t ∧ Trapped s t .addrRange s.self.pc (rs s i.h.b) 0 ∧ TrapKept s t))) ∧
  (∀ e ∈ [(Instr.tld, true), (.tst, false)], ∀ (i : EngI) (s : State),
    let a := rt s i.h.a
    let b := rt s i.h.b
    let tp := i.t.emod.getLsbD 0
    let kind : OpKind := .tileT e.2 tp a b ((regionWindow s a).map (fun w => (w.gen, w.quad)))
    let reserved : Prop := (tFmt a = 6 ∧ tp = true) ∨ (tSparse a = true ∧ tp = false)
    (tKind a = .tilemem → tKind b = .tensor → ¬reserved → MayIssue s i [] kind →
      ∃ t, exec (e.1 i) s = .next t ∧ Issues s t i kind [] [] ∧ ∀ o ∈ t.ops, o.id = s.nextId → o ∉ s.ops → o.isTile = true) ∧
    (RunsS i.h [] s → Traps s →
      (tKind a = .invalid ∨ tKind b = .invalid →
        ∃ t, exec (e.1 i) s = .next t ∧ Trapped s t .tileInvalid s.self.pc 0 0 ∧ TrapKept s t) ∧
      (tKind a ≠ .invalid → tKind b ≠ .invalid → tKind a ≠ .tilemem ∨ tKind b ≠ .tensor →
        ∃ t, exec (e.1 i) s = .next t ∧ Trapped s t .tileMismatch s.self.pc 0 0 ∧ TrapKept s t) ∧
      (tKind a = .tilemem → tKind b = .tensor → reserved →
        ∃ t, exec (e.1 i) s = .next t ∧ Trapped s t .reservedModifier s.self.pc 0 0 ∧ TrapKept s t))) ∧
  (∀ (s : State) (o : EngOp) (st : Bool) (daddr rowo colb n rb : Nat) (loc : Range) (d : TensorDesc),
    o.kind = .copyT st daddr rowo colb n rb loc → tensorFor s (engOf o) daddr = .ok d →
    let rows : List Range := (span 0 n).map (fun r => (0, rowAddr d (rowo + r) colb, rb))
    let x := (resolveOp s o).1
    if rowo + n ≤ d.rows ∧ colb + rb ≤ d.rowBytes then x = { o with kind := if st then .copy [loc] rows else .copy rows [loc] }
    else x = { failOp o .tileRange with kind := .failed }) ∧
  (∀ (s : State) (o : EngOp) (toTile tp : Bool) (a b : BitVec 128) (win : Nat × Nat) (d : TensorDesc),
    o.kind = .tileT toTile tp a b (some win) → tensorFor s (engOf o) (tDaddr b) = .ok d →
    let nr := if tp then 128 else tK a
    let rb := if tp then regionBytes (tFmt a) (tK a) (tSparse a) else 128 * elemBits (tFmt a) / 8
    let rows := (span 0 nr).map (fun r => rowAddr d (tRowo b + r) (tColb b))
    let x := (resolveOp s o).1
    if d.fmt ≠ tFmt a then x = { failOp o .tileMismatch with kind := .failed }
    else if tRowo b + nr ≤ d.rows ∧ tColb b + rb ≤ d.rowBytes then
      x = { o with kind := .tileCopy toTile tp (tSparse a) (tFmt a) (tK a) (tOfs a) win.1 win.2 rows rb }
    else x = { failOp o .tileRange with kind := .failed }) ∧
  (∀ (i : EngI) (s : State),
    let a := (rs s i.h.a).toNat
    let b := (rs s i.h.b).toNat
    let wide := i.t.emod.getLsbD 6
    let nr := i.t.emod.getLsbD 5
    let blk : Range := (if i.t.emod.getLsbD 4 then 2 else 1, b, 32)
    let w := if wide then 8 else 4
    let kind : OpKind := .amog a (rangeKey (engSelf s) blk) wide nr (i.t.emod.extractLsb' 0 4) 0 0
    let lines := rangeLines (engSelf s) [blk]
    (s.self.spinst = 0 → rangeIn s (engSelf s) blk = true → a % w = 0 → b % 32 = 0 → MayIssue s i [i.h.a, i.h.b] kind →
      ∃ t, exec (.amog i) s = .next t ∧ Issues s t i kind (if nr then lines else []) (if nr then [] else lines)) ∧
    (s.apMode = false → RunsS i.h [i.h.a, i.h.b] s → s.self.spinst ≠ 0 → exec (.amog i) s = .next (poisonInstance s)) ∧
    (RunsS i.h [i.h.a, i.h.b] s → Traps s →
      (rangeIn s (engSelf s) blk = false →
        ∃ t, exec (.amog i) s = .next t ∧ Trapped s t .addrRange s.self.pc (rs s i.h.b) 0 ∧ TrapKept s t) ∧
      (rangeIn s (engSelf s) blk = true → a % w ≠ 0 →
        ∃ t, exec (.amog i) s = .next t ∧ Trapped s t .addrAlign s.self.pc (rs s i.h.a) 0 ∧ TrapKept s t) ∧
      (rangeIn s (engSelf s) blk = true → a % w = 0 → b % 32 ≠ 0 →
        ∃ t, exec (.amog i) s = .next t ∧ Trapped s t .addrAlign s.self.pc (rs s i.h.b) 0 ∧ TrapKept s t)))

/-- R269, R213: GAT, GATP, SCA and SCAA issue a cart of C positions: rows from s[b][31:0] on, the fault mask at the next
multiple of 64 behind them, indices (and bags) from shared memory or as the v registers hold them; lines that are read are
asked for shared, lines that are written exclusive. The row bytes are those the descriptor holds at the checks; where it
cannot be read the cart asks for no line. With its lines the operation takes the descriptor and the package map as they stand
then (log 6). An invalid t register traps TILE_INVALID, one of another kind TILE_MISMATCH, one with a column TILE_RANGE, index
registers beyond the count REG_RANGE, a range outside shared memory ADDR_RANGE, an array or row area that is not aligned
ADDR_ALIGN, a poisoned index register POISON; SCA and SCAA poison an instance above 0. -/
def Obligations.CartIssue : Prop :=
  (∀ e ∈ [(Instr.gat, 1), (.gatp, 2), (.sca, 3), (.scaa, 4)], ∀ (i : EngI) (s : State),
    let at' := engSelf s
    let h := rt s i.h.a
    let got := tensorFor s at' (tDaddr h)
    let k := newCart s i e.2 got
    let x := field (rs s i.h.b) 0 32
    let ia := field (rs s i.h.b) 32 32
    let c := field i.t.emod 0 9 + 1
    let q := ceilDiv c (max 1 (widthOf s.self))
    let mem := i.t.emod.getLsbD 9
    let named : Prop := tKind h = .tensor ∧ tColb h = 0 ∧ (e.2 ≤ 2 ∨ s.self.spinst = 0) ∧
      (mem = true ∨ ia + (if e.2 = 2 then 2 * q else q) ≤ s.self.nreg)
    let indices : Prop := mem = true → rangeIn s at' (1, ia, 4 * if e.2 = 2 then 2 * c else c) = true
    let rows : Prop := got.toBool = true → cartFits s at' k = true
    let lines := if got.toBool then cartLines at' k else ([], [])
    let traps (y : Cause) (addr : DWord) : Prop := ∃ t, exec (e.1 i) s = .next t ∧ Trapped s t y s.self.pc addr 0 ∧ TrapKept s t
    (k.head.typ = e.2 ∧ k.c = c ∧ k.m = (if e.2 = 2 then i.mod.toNat + 1 else c) ∧ k.x = x ∧ k.daddr = tDaddr h ∧
      k.rowo = tRowo h ∧ k.idxAt = (if mem then some ia else none) ∧
      (mem = false → k.idx = (span 0 c).map (fun p => (slotWord s ia p).toNat)) ∧
      (∀ d, got = .ok d → k.maskAt = x + ceilDiv (k.m * d.rowBytes) 64 * 64)) ∧
    (named → indices → rows → (mem = true → ia % 4 = 0) → x % 64 = 0 → cartPoison s i e.2 = none →
      MayIssue s i [i.h.b] (.cart k) → ∃ t, exec (e.1 i) s = .next t ∧ Issues s t i (.cart k) lines.1 lines.2) ∧
    (s.apMode = false → RunsS i.h [i.h.b] s → tKind h = .tensor → tColb h = 0 → 3 ≤ e.2 → s.self.spinst ≠ 0 →
      exec (e.1 i) s = .next (poisonInstance s)) ∧
    (RunsS i.h [i.h.b] s → Traps s →
      (tKind h = .invalid → traps .tileInvalid 0) ∧
      (tKind h = .tilemem → traps .tileMismatch 0) ∧
      (tKind h = .tensor → tColb h ≠ 0 → traps .tileRange 0) ∧
      (tKind h = .tensor → tColb h = 0 → mem = false → s.self.nreg < ia + (if e.2 = 2 then 2 * q else q) → traps .regRange 0) ∧
      (named → ¬indices → traps .addrRange (BitVec.ofNat 64 ia)) ∧
      (named → indices → ¬rows → traps .addrRange (BitVec.ofNat 64 x)) ∧
      (named → indices → rows → mem = true → ia % 4 ≠ 0 → traps .addrAlign (BitVec.ofNat 64 ia)) ∧
      (named → indices → rows → (mem = true → ia % 4 = 0) → x % 64 ≠ 0 → traps .addrAlign (BitVec.ofNat 64 x)) ∧
      (named → indices → rows → (mem = true → ia % 4 = 0) → x % 64 = 0 → cartPoison s i e.2 ≠ none → traps .poison 0))) ∧
  (∀ (s : State) (o : EngOp) (c : Cart) (d : TensorDesc) (map : List Nat), o.kind = .cart c →
    cartDesc s (engOf o) c.head.typ c.daddr = .ok (d, map) → d.rowBytes = c.head.rowBytes →
    ∃ k, (resolveOp s o).1 = { o with kind := .cart k } ∧ k.desc = d ∧ k.map = map ∧ k.head.base = d.base ∧
      k.head.stride = d.stride ∧ k.head.fmt = d.fmt ∧ k.c = c.c ∧ k.m = c.m ∧ k.x = c.x ∧ k.idx = c.idx) ∧
  (∀ (s : State) (o : EngOp) (c : Cart) (x : Cause × Nat), o.kind = .cart c →
    cartDesc s (engOf o) c.head.typ c.daddr = .error x → (resolveOp s o).1 = { failOp o x.1 with kind := .failed })

/-- R271-R275, R278, R279: SIG, CTRS, COLL and ROUTE issue one operation with their operands as they stand; SIG.N reads s[b]
only when s[a] is not 0; the executing step reads a ROUTE's descriptor (log 6), and a ROUTE whose descriptor lies at no multiple of 128 issues an operation that fails with BADDESC. TRIGA arms
its trigger with the block's terms and embedded instruction, waits while the core holds 32, and traps TRIGGER_BLOCK on a
block that is malformed; EDRN joins the operations under way, armed ones among them (log 35); with none it goes on at once, and its handle is DONE with no
fault where nothing of the carriage comes before. SIG.W traps ADDR_ALIGN; SIG, TRIGA and COLL poison an instance above 0. -/
def Obligations.SignalIssue : Prop :=
  (∀ (i : EngI) (s : State),
    let b := rs s i.h.b
    let kind : OpKind := .sigN (rs s i.h.a) (field b 0 32) (field b 48 16) (field i.t.emod 0 3) (field i.t.emod 3 12)
    s.self.spinst = 0 → MayIssue s i (if rs s i.h.a = 0 then [i.h.a] else [i.h.a, i.h.b]) kind →
    ∃ t, exec (.sigN i) s = .next t ∧ Issues s t i kind [] []) ∧
  (∀ (i : EngI) (s : State),
    let a := (rs s i.h.a).toNat
    let kind : OpKind := .sigW a (rs s i.h.b)
    (s.self.spinst = 0 → a % 8 = 0 → MayIssue s i [i.h.a, i.h.b] kind →
      ∃ t, exec (.sigW i) s = .next t ∧ Issues s t i kind [] []) ∧
    (RunsS i.h [i.h.a, i.h.b] s → Traps s → a % 8 ≠ 0 →
      ∃ t, exec (.sigW i) s = .next t ∧ Trapped s t .addrAlign s.self.pc (rs s i.h.a) 0 ∧ TrapKept s t)) ∧
  (∀ (i : EngI) (s : State),
    let op := field i.t.emod 3 2
    let kind : OpKind := .ctrs op (field i.t.emod 0 3) ((rs s i.h.a).setWidth 32)
    MayIssue s i (if op ≤ 1 then [i.h.a] else []) kind → ∃ t, exec (.ctrs i) s = .next t ∧ Issues s t i kind [] []) ∧
  (∀ (i : EngI) (s : State),
    let kind : OpKind := .coll (rs s i.h.a).toNat (field i.t.emod 0 4)
    s.self.spinst = 0 → MayIssue s i [i.h.a] kind → ∃ t, exec (.coll i) s = .next t ∧ Issues s t i kind [] []) ∧
  (∀ (i : EngI) (s : State), s.apMode = false → s.self.spinst ≠ 0 →
    (RunsS i.h (if rs s i.h.a = 0 then [i.h.a] else [i.h.a, i.h.b]) s → exec (.sigN i) s = .next (poisonInstance s)) ∧
    (RunsS i.h [i.h.a, i.h.b] s → exec (.sigW i) s = .next (poisonInstance s)) ∧
    (RunsS i.h [i.h.a] s → exec (.coll i) s = .next (poisonInstance s) ∧ exec (.triga i) s = .next (poisonInstance s))) ∧
  (∀ (i : EngI) (s : State) (bs : List Byte),
    let e := { engSelf s with eng := engRoute (dieOf s.self.core), blk := mmRoute (dieOf s.self.core) }
    let a := (rs s i.h.a).toNat
    let kind : OpKind := .route (routeOf bs) none
    (a % 128 = 0 → globUp s e [(a, 128)] = true → engRead s e.eng e.world e.space a 128 = .ok (bs, false) →
      routeDescOk s e bs = true → MayIssue s i [i.h.a] kind →
      ∃ t, exec (.route i) s = .next t ∧ Issues s t i kind [] (rangeLines e [listArea (routeOf bs)])) ∧
    (s.apMode = false → RunsS i.h [i.h.a] s → holdFull s i .failed = false →
      a % 128 ≠ 0 ∨ (globUp s e [(a, 128)] = true ∧ engRead s e.eng e.world e.space a 128 = .ok (bs, false) ∧
        routeDescOk s e bs = false) →
      ∃ t, ∃ o ∈ t.ops, exec (.route i) s = .next t ∧ o.id = s.nextId ∧ o.kind = .failed ∧ o.faultBit = true ∧
        o.cause = causeCode .baddesc ∧ t.self.pc = s.self.pc + 12 ∧ t.mem = s.mem)) ∧
  (∀ (i : EngI) (s : State),
    let a := (rs s i.h.a).toNat
    let key := memKey .shm s.self.coach a
    let bs := imgBytes s (span key 64)
    s.apMode = false → RunsS i.h [i.h.a] s → s.self.spinst = 0 → a + 64 ≤ shmSize s s.self.coach → a % 64 = 0 →
    imgBlocked s (span key 64) = false → imgBad s (span key 64) = false →
    (s.stale = [] → logOf s (homesOf s.self) = [] → bs = mread s key 64) ∧
    (blockOk bs = true → armedOn s s.self.core < 32 →
      ∃ t, ∃ g ∈ t.triggers, exec (.triga i) s = .next t ∧ g.coach = s.self.coach ∧ g.core = s.self.core ∧
        g.orJoin = i.t.emod.getLsbD 0 ∧ g.terms = blockTerms bs ∧ g.instr = blockInstr bs ∧
        g.aval = leBits 64 ((bs.drop 0x10).take 8) ∧ g.bval = leBits 64 ((bs.drop 0x18).take 8) ∧ g.due = (if trigHolds s g then some (s.ns, s.tick) else none) ∧
        (∃ o ∈ t.ops, o.id = g.op ∧ o.kind = .armed g.id ∧ o.tok = cget t.self.hTok i.h.d.toNat) ∧
        t.self.hDone.getLsbD i.h.d.toNat = false ∧ t.self.pc = s.self.pc + 12 ∧ t.self.wait = s.self.wait ∧ t.mem = s.mem) ∧
    (blockOk bs = true → 32 ≤ armedOn s s.self.core → exec (.triga i) s = .next s) ∧
    (blockOk bs = false → Traps s →
      ∃ t, exec (.triga i) s = .next t ∧ Trapped s t .triggerBlock s.self.pc (rs s i.h.a) 0 ∧ TrapKept s t)) ∧
  (∀ (i : EngI) (s : State), s.apMode = false → RunsS i.h [] s →
    let joined := (s.ops.filter (fun o =>
      if i.t.emod.getLsbD 0 then o.core == s.self.core else o.homes.any (homesOf s.self).contains)).map (fun o => o.id)
    (joined = [] → s.waits = [] → ∃ t, exec (.edrn i) s = .next t ∧ t.self.pc = s.self.pc + 12 ∧ t.v = s.v ∧
      (i.t.ring = 0 → t.mem = s.mem) ∧
      (i.t.scope = 0 ∨ (s.ops = [] ∧ s.stale = []) → s.self.spinst = 0 ∨ (i.t.ring = 0 ∧ i.t.ctr = 0) →
        s.self.id ≠ 0 → i.h.d.toNat < 16 → cget t.self.hTok i.h.d.toNat ≠ 0 →
        t.self.hDone.getLsbD i.h.d.toNat = true ∧ cget t.self.hStat i.h.d.toNat = 0)) ∧
    (joined ≠ [] → holdFull s i (.edrn joined 0 joined.length) = false →
      ∃ t, ∃ o ∈ t.ops, exec (.edrn i) s = .next t ∧ o.kind = .edrn joined 0 joined.length ∧
      o.tok = cget t.self.hTok i.h.d.toNat ∧ t.self.hDone.getLsbD i.h.d.toNat = false ∧ t.self.pc = s.self.pc + 12 ∧
      t.self.wait = .run ∧ t.mem = s.mem ∧ t.v = s.v))

/-- R276, R277: the sequence-cache and prefix instructions and PGCHK issue one operation with their keys and the lines they
read or write. An image outside shared memory, its address compared with 64 bits (log 8), traps ADDR_RANGE, one that is not
aligned ADDR_ALIGN, a KVMAP whose pair lies
beyond the register count REG_RANGE whatever its guard, one with a poisoned key POISON; in an instance above 0 a PGCHK, and
an append that R327 forbids, poison the instance. -/
def Obligations.SequenceIssue : Prop :=
  (∀ (i : EngI) (s : State),
    let k := rs s i.h.a
    let a := (rs s i.h.b).toNat
    let n := field k 0 24
    let h := field i.t.emod 8 8 + 1
    let d16 := alignUp (poolDim s (keyPool k)) 16
    let len := h * n * (2 * d16 + 16)
    let kind : OpKind := .kvapp (keyPool k) (keySeq k) n h (i.t.emod.getLsbD 0) d16 (memKey .shm s.self.coach a) [] none
    (localBad s (engSelf s) a len 16 = none → appendIllegal s (keyPool k) (keySeq k) = false →
      MayIssue s i [i.h.a, i.h.b] kind →
      ∃ t, exec (.kvapp i) s = .next t ∧ Issues s t i kind (rangeLines (engSelf s) [(1, a, len)]) []) ∧
    (s.apMode = false → RunsS i.h [i.h.a, i.h.b] s → s.self.spinst ≠ 0 → localBad s (engSelf s) a len 16 = none →
      appendIllegal s (keyPool k) (keySeq k) = true → exec (.kvapp i) s = .next (poisonInstance s)) ∧
    (∀ x, RunsS i.h [i.h.a, i.h.b] s → Traps s → localBad s (engSelf s) a len 16 = some x →
      ∃ t, exec (.kvapp i) s = .next t ∧ Trapped s t x.1 s.self.pc (BitVec.ofNat 64 x.2) 0 ∧ TrapKept s t)) ∧
  (∀ (i : EngI) (s : State),
    let k := rs s i.h.a
    let kind : OpKind := .kvfork (keyPool k) (keySeq k) (keySeq (rs s i.h.b)) (i.t.emod.getLsbD 0)
    MayIssue s i [i.h.a, i.h.b] kind → ∃ t, exec (.kvfork i) s = .next t ∧ Issues s t i kind [] []) ∧
  (∀ (i : EngI) (s : State),
    let a := (rs s i.h.b).toNat
    let len := 8 * widthOf s.self
    let kind : OpKind := .kvmap ((liveOf s s.self).map (fun st => (st.1, rv64 s st.2 i.h.a.toNat))) (memKey .shm s.self.coach a)
    let clean : Prop := ∀ st ∈ liveOf s s.self, threadBad s [(i.h.a, 2)] st.2 = false
    (rangeBad s [(i.h.a, 2)] = false → localBad s (engSelf s) a len 8 = none → clean → MayIssue s i [i.h.b] kind →
      ∃ t, exec (.kvmap i) s = .next t ∧ Issues s t i kind [] (rangeLines (engSelf s) [(1, a, len)])) ∧
    (rangeBad s [(i.h.a, 2)] = true → Traps s →
      ∃ t, exec (.kvmap i) s = .next t ∧ Trapped s t .regRange s.self.pc 0 0 ∧ TrapKept s t) ∧
    (rangeBad s [(i.h.a, 2)] = false → RunsS i.h [i.h.b] s → Traps s →
      (∀ x, localBad s (engSelf s) a len 8 = some x →
        ∃ t, exec (.kvmap i) s = .next t ∧ Trapped s t x.1 s.self.pc (BitVec.ofNat 64 x.2) 0 ∧ TrapKept s t) ∧
      (localBad s (engSelf s) a len 8 = none → ¬clean →
        ∃ t, exec (.kvmap i) s = .next t ∧ Trapped s t .poison s.self.pc 0 0 ∧ TrapKept s t))) ∧
  (∀ (i : EngI) (s : State),
    let k := rs s i.h.a
    let pfx := i.t.emod.getLsbD 0
    let kind : OpKind := .kvfree (keyPool k) (keySeq k) (if pfx then some (rs s i.h.b) else none)
    MayIssue s i (i.h.a :: if pfx then [i.h.b] else []) kind → ∃ t, exec (.kvfree i) s = .next t ∧ Issues s t i kind [] []) ∧
  (∀ (i : EngI) (s : State),
    let k := rs s i.h.a
    let a := field k 0 32
    let attach : OpKind := .pfxf (keyPool k) (rs s i.h.b) (some (keySeq k, field k 0 17)) 0
    let find : OpKind := .pfxf (keyPool k) (rs s i.h.b) none (memKey .shm s.self.coach a)
    (i.t.emod.getLsbD 0 = true → MayIssue s i [i.h.a, i.h.b] attach →
      ∃ t, exec (.pfxf i) s = .next t ∧ Issues s t i attach [] []) ∧
    (i.t.emod.getLsbD 0 = false → localBad s (engSelf s) a 1028 4 = none → MayIssue s i [i.h.a, i.h.b] find →
      ∃ t, exec (.pfxf i) s = .next t ∧ Issues s t i find [] (rangeLines (engSelf s) [(1, a, 1028)])) ∧
    (∀ x, i.t.emod.getLsbD 0 = false → RunsS i.h [i.h.a, i.h.b] s → Traps s → localBad s (engSelf s) a 1028 4 = some x →
      ∃ t, exec (.pfxf i) s = .next t ∧ Trapped s t x.1 s.self.pc (BitVec.ofNat 64 x.2) 0 ∧ TrapKept s t)) ∧
  (∀ (i : EngI) (s : State),
    let k := rs s i.h.a
    let a := field k 0 32
    let kind : OpKind := .pfxi (keyPool k) (rs s i.h.b) (memKey .shm s.self.coach a) []
    (localBad s (engSelf s) a 1028 4 = none → MayIssue s i [i.h.a, i.h.b] kind →
      ∃ t, exec (.pfxi i) s = .next t ∧ Issues s t i kind [] (rangeLines (engSelf s) [(1, a, 1028)])) ∧
    (∀ x, RunsS i.h [i.h.a, i.h.b] s → Traps s → localBad s (engSelf s) a 1028 4 = some x →
      ∃ t, exec (.pfxi i) s = .next t ∧ Trapped s t x.1 s.self.pc (BitVec.ofNat 64 x.2) 0 ∧ TrapKept s t)) ∧
  (∀ (i : EngI) (s : State),
    let kind : OpKind := .pgchk (keyPool (rs s i.h.a)) (field (rs s i.h.a) 0 32)
    (s.self.spinst = 0 → MayIssue s i [i.h.a] kind → ∃ t, exec (.pgchk i) s = .next t ∧ Issues s t i kind [] []) ∧
    (s.apMode = false → RunsS i.h [i.h.a] s → s.self.spinst ≠ 0 → exec (.pgchk i) s = .next (poisonInstance s))) ∧
  (∀ (s : State) (e : EngAt) (a n al : Nat), localBad s e a n al =
    if n ≠ 0 ∧ shmSize s e.coach < a + n then some (.addrRange, a) else if a % al ≠ 0 then some (.addrAlign, a) else none)

/-- R192, R193, R195, R198: an operation takes its lines one after another, those that nothing holds up, but none before what
its carriage must have performed first (log 135); with all of them, and with nothing before its reads, it reads its sources and counts as issued, and its carriage goes on. A copy that nothing
comes before lands its bytes and nothing else, then its handle is DONE with the bytes it wrote; where its release still waits
it stands landed, and is DONE later. R196: an operation with a ring then enters its record there, token, outcome and bytes
written, or, where the ring is full or has no size, the record falls and the overflow count rises, saturating (indices count
without wrapping, log 103; what counts as written log 134). A cancelled copy stops at a 4 KiB boundary of its destination or at its end, with FAULT
and CANCELLED. CANH does nothing to a handle that is not PENDING and to an operation that has started and is no copy, marks a
copy that has started, and ends what has not started with CANCELLED; a stale token traps HANDLE_STALE. -/
def Obligations.OperationLife : Prop :=
  (∀ (s : State) (o : EngOp), op? s o.id = some o → o.stage = .requesting →
    let x := grantLines s o
    let r := resolveOp s x
    (x.held < (wantedLines x).length → x.held ≠ o.held → exec (.ownershipGrant o.id) s = .next (onOp s o.id (fun _ => x))) ∧
    (x.held < (wantedLines x).length → x.held = o.held → exec (.ownershipGrant o.id) s = .next s) ∧
    (o.held = 0 → mayRequest s o = false → wantedLines o ≠ [] → exec (.ownershipGrant o.id) s = .next s) ∧
    ((wantedLines x).length ≤ x.held → readsBehind s x = false → (opsBefore s x).all (fun y => y.stage != .requesting) = true →
      readsUp s x = true → (wantedLines r.1).length ≤ r.1.held →
      readsBehind s r.1 = false → readsUp s r.1 = true → s.self.id ≠ 0 →
      ∃ t, exec (.ownershipGrant o.id) s = .next t ∧ (∃ y ∈ t.ops, y.id = o.id ∧ y.stage ≠ .requesting) ∧
        (s.self.wait = .issuing o.id → t.self.wait = .run) ∧ t.mem = s.mem ∧ t.v = s.v)) ∧
  (∀ (s : State) (o : EngOp) (l n : Nat), nextLine o = some l →
    takeLines s (n + 1) o =
      if lineFree s o l then takeLines s n { o with held := o.held + 1, asked := s.tick } else o) ∧
  (∀ (s : State) (o : EngOp) (l : Nat), op? s o.id = some o → opHolds o = true → releasesSources o.kind = true →
    o.shared.contains l = true → s.waits = [] →
    ∃ t, ∃ x ∈ t.ops, exec (.sourceLineRelease o.id l) s = .next t ∧ x.id = o.id ∧ x.started = true ∧
      x.shared = o.shared.filter (fun y => y != l) ∧ x.excl = o.excl ∧ t.mem = s.mem) ∧
  (∀ (s : State) (o : EngOp) (src dst : List Range) (key : Nat) (bs : List Byte), op? s o.id = some o →
    o.kind = .copy src dst → o.stage = .issued → o.preempted = false → o.faultBit = false → o.cause = 0 → o.inst = 0 →
    o.hiBits = 0 → o.midBits = 0 → o.late = false → o.early = [] → canLand s o = true → PlainEnd s o → HasHandle s o →
    o.out = [{ dest := .loc key, bytes := bs }] → isTileKey key = false → isTileKey (key + bs.length) = false →
    key / 2 ^ 48 = (key + bs.length) / 2 ^ 48 →
    ∃ t, exec (.engineCompletion o.id) s = .next t ∧ (∀ n < bs.length, some (mget t (key + n)) = bs[n]?) ∧
      (∀ a, a < key ∨ key + bs.length ≤ a → mget t a = mget s a) ∧ t.v = s.v ∧
      (doneReady s o = true → (∀ x ∈ t.ops, x.id ≠ o.id) ∧
        DoneWith t o (BitVec.ofNat 64 ((if o.cancel then 2 ^ 61 + 0x30 * 2 ^ 48 else 0) + bs.length % 2 ^ 40))) ∧
      (doneReady s o = false → ∃ x ∈ t.ops, x.id = o.id ∧ x.stage = .landed ∧ x.shared = [] ∧ x.excl = [])) ∧
  (∀ (s : State) (o : EngOp), op? s o.id = some o → o.stage = .landed → o.preempted = false → doneReady s o = true →
    PlainEnd s o → HasHandle s o →
    ∃ t, exec (.engineCompletion o.id) s = .next t ∧ DoneWith t o (opStatus o) ∧ (∀ x ∈ t.ops, x.id ≠ o.id) ∧ t.mem = s.mem) ∧
  (∀ (s : State) (o : EngOp), op? s o.id = some o → o.stage = .landed → o.preempted = false → doneReady s o = true →
    s.waits = [] → o.ring ≠ 0 →
    let reg (off : Nat) : DWord := rcore s o.core (ringReg o.ring off)
    let full : Prop := ∀ z, ringSize s o.core o.ring = some z → 2 ^ z ≤ (reg 0x10 - reg 0x18).toNat
    (full → ∃ t, exec (.engineCompletion o.id) s = .next t ∧ (∀ x ∈ t.ops, x.id ≠ o.id) ∧ t.mem = s.mem ∧
      rcore t o.core (ringReg o.ring 0x20) = (if reg 0x20 = BitVec.allOnes 64 then reg 0x20 else reg 0x20 + 1) ∧
      rcore t o.core (ringReg o.ring 0x10) = reg 0x10) ∧
    (∀ z, ringSize s o.core o.ring = some z → (reg 0x10 - reg 0x18).toNat < 2 ^ z →
      let key := ringKey s o.core o.ring ((reg 0x10).toNat % 2 ^ z)
      ∃ t, exec (.engineCompletion o.id) s = .next t ∧ (∀ x ∈ t.ops, x.id ≠ o.id) ∧
        (span key 16).map (mget t) = ringRecord o ∧ (∀ a, a < key ∨ key + 16 ≤ a → mget t a = mget s a) ∧
        rcore t o.core (ringReg o.ring 0x10) = reg 0x10 + 1 ∧ rcore t o.core (ringReg o.ring 0x20) = reg 0x20)) ∧
  (∀ o : EngOp, let r := ringRecord o
    r.length = 16 ∧ leBits 64 (r.take 8) = o.tok ∧ leNat (r.drop 12) = min (writtenBytes o) 0xFFFFFFFF ∧
      let x : Word := leBits 32 ((r.drop 8).take 4)
      x.getLsbD 31 = o.faultBit ∧ x.extractLsb' 24 7 = 0 ∧ x.extractLsb' 16 8 = o.cause ∧
        x.extractLsb' 8 5 = (opStatus o).extractLsb' 56 5 ∧ x.extractLsb' 0 8 = (opStatus o).extractLsb' 40 8) ∧
  (∀ (s : State) (core i : Nat), let z := (rcore s core (ringReg i 8)).toNat
    ringSize s core i = if z = 0 then none else if z < 4 then some 4 else if 16 < z then some 16 else some z) ∧
  (∀ (s : State) (o : EngOp) (src dst : List Range), op? s o.id = some o → o.kind = .copy src dst → o.stage = .issued →
    o.cancel = true → o.preempted = false → o.faultBit = false → o.inst = 0 → o.early = [] → canLand s o = true →
    doneReady s o = true → PlainEnd s o → HasHandle s o →
    let ps := o.out.flatMap (chunkPieces s (engOf o))
    firstFail 0 ps = none → cutsOf 0 ps ≠ [] →
    ∃ t, ∃ n ∈ cutsOf 0 ps, exec (.cancelStop o.id) s = .next t ∧ t.self.hDone.getLsbD (tokH o.tok) = true ∧
      statCause (cget t.self.hStat (tokH o.tok)) = causeCode .cancelled ∧
      statFault (cget t.self.hStat (tokH o.tok)) = true ∧
      (cget t.self.hStat (tokH o.tok)).extractLsb' 0 40 = BitVec.ofNat 40 n ∧ ∀ x ∈ t.ops, x.id ≠ o.id) ∧
  (∀ (i : RrrI) (s : State), RunsS i.h (if i.mod.getLsbD 0 then [i.h.a] else []) s →
    (namedHandle s (i.mod.getLsbD 0) i.h.a = none → Traps s →
      ∃ t, exec (.canh i) s = .next t ∧ Trapped s t .handleStale s.self.pc 0 0 ∧ TrapKept s t) ∧
    (∀ v, namedHandle s (i.mod.getLsbD 0) i.h.a = some v →
      (v.pending = false → exec (.canh i) s = .next (nextPc s)) ∧
      (op? s v.op = none → exec (.canh i) s = .next (nextPc s)) ∧
      (∀ o, v.pending = true → op? s v.op = some o →
        let stands : Bool := o.stage == .issued || o.stage == .held
        let begun : Bool := o.stage != .requesting && !(stands && !o.started)
        (s.apMode = false → PlainEnd s o →
          ∃ t, exec (.canh i) s = .next t ∧ t.self.pc = s.self.pc + 12 ∧ t.mem = s.mem ∧ t.v = s.v) ∧
        (begun = true → isCopy o = true → stands = true →
          exec (.canh i) s = .next (nextPc (onOp s o.id (fun x => { x with cancel := true })))) ∧
        (begun = true → (∀ n, o.kind ≠ .armed n) → isCopy o = false ∨ stands = false → exec (.canh i) s = .next (nextPc s)) ∧
        (o.stage = .requesting ∨ (∃ n, o.kind = .armed n) → s.apMode = false → PlainEnd s o → doneReady s o = true →
          HasHandle s o →
          ∃ t, exec (.canh i) s = .next t ∧ t.self.hDone.getLsbD (tokH o.tok) = true ∧
            statCause (cget t.self.hStat (tokH o.tok)) = causeCode .cancelled ∧ (∀ x ∈ t.ops, x.id ≠ o.id) ∧
            (∀ n, o.kind = .armed n → ∀ g ∈ t.triggers, g.id ≠ n) ∧ t.self.pc = s.self.pc + 12 ∧ t.mem = s.mem))))

/-! ## Carts (13) -/

/-- R214, R216, R217, R218, R226: positions whose index lies below ROWS travel; the local switch folds equal rows and sends one
sub-cart for each package slot, or holds it for a millisecond where no route delivers; the home switch splits it over its
stacks, or answers WORLD; what is held goes on when its hop is ready in time, and else ends with NOTREADY.
R219-R224: a row engine translates its entries in position order, and each row faults or has its bytes; GAT and GATP write
nothing, SCA and SCAA write their rows and no other byte; the partials of a die's engines go on together, dies combine at
the home switch; the copy engine places what returns, and the last reply closes the cart with its mask and fault count.
An event that is not due changes nothing. The model's choices: how much of its rows a row engine writes in a turn
(free s 47, log 123), the flits of a reply and what the fold keeps (log 110), where partials of dies meet (log 106), the
order of a row's causes (log 38), and the reply that waits for its route (log 41). -/
def Obligations.CartPaths : Prop :=
  (∀ (s : State) (o : EngOp) (log : List LogStore) (c : Cart),
    let f := formCart s o log c
    (∀ en ∈ f.entries, en.code = 0 ∧ en.row < c.desc.rows ∧ (en.slot, en.die, en.stack) = rowHome c.desc en.row ∧
      (c.head.typ = 2 → en.bag < c.m)) ∧
    (∀ p < c.c, (∃ en ∈ f.entries, en.pos = p) ∨ ∃ x ∈ f.faults, x.1 = p)) ∧
  (∀ (s : State) (o : EngOp) (c : Cart), op? s o.id = some o → o.kind = .cart c →
    let f := foldAll c.head c.entries.length c.entries
    (o.stage = .issued → c.sent = false → releaseReady s o = true → readsBehind s o = false → writesBehind s o = false →
      ∃ t, ∃ x ∈ t.ops, ∃ k, exec (.cartLocalSwitch o.id) s = .next t ∧ x.id = o.id ∧ x.kind = .cart k ∧ k.sent = true ∧
        k.kept = f.2 ∧ (k.dup = true ↔ f.1.length ≠ c.entries.length) ∧ k.await = awaited f.1 ∧
        (∀ en ∈ f.1, ∃ y ∈ t.subs, y.head = c.head ∧ y.pkg = (c.map[en.slot]?).getD 0 ∧ en ∈ y.entries ∧
          (if y.pkg = Config.ownPackage ∨ (routePort s y.pkg).isSome = true then y.stage = 1
            else y.stage = 0 ∧ y.deadline = s.ns + 1000000)) ∧ t.mem = s.mem) ∧
    (o.stage ≠ .issued ∨ c.sent = true ∨ releaseReady s o = false ∨ readsBehind s o = true ∨ writesBehind s o = true →
      exec (.cartLocalSwitch o.id) s = .next s)) ∧
  (∀ (h : CartHead) (es : List CartEntry),
    let f := foldAll h es.length es
    f.1.Pairwise (fun a b => sameGroup h.typ a b = false) ∧
    (∀ en ∈ es, ∃ k ∈ f.1, sameGroup h.typ en k = true ∧ (en.pos, k.pos) ∈ f.2) ∧
    (h.typ ≠ 2 → (∀ en ∈ es, en.mult = 1) → ∀ k ∈ f.1, k.mult = 1) ∧
    (h.typ = 2 → (∀ en ∈ es, en.mult = 1) → ∀ k ∈ f.1, k.mult = (es.filter (sameGroup 2 k)).length)) ∧
  (∀ (s : State) (x : SubCart), s.subs.find? (fun y => y.id == x.id) = some x →
    (x.stage ≠ 1 → exec (.cartHomeSwitch x.id) s = .next s) ∧
    (x.stage = 1 → x.pkg = Config.ownPackage ∨ arrivalWorld s x = x.head.world →
      ∃ t, exec (.cartHomeSwitch x.id) s = .next t ∧
        (∀ en ∈ x.entries, ∃ p ∈ t.parts, p.sub = x.id ∧ p.stack = en.stack ∧ p.head = x.head ∧ en ∈ p.entries) ∧
        (∃ y ∈ t.subs, y.id = x.id ∧ y.stage = 2 ∧ y.diesLeft = dieCount x.entries) ∧ t.mem = s.mem) ∧
    (x.stage = 1 → x.pkg ≠ Config.ownPackage → arrivalWorld s x ≠ x.head.world →
      ∃ t, ∃ r ∈ t.replies, exec (.cartHomeSwitch x.id) s = .next t ∧ r.sub = x.id ∧ r.entries.length = x.entries.length ∧
        (∀ en ∈ r.entries, en.code = 5 ∧ en.cause = causeCode .world) ∧ (∀ y ∈ t.subs, y.id ≠ x.id) ∧ t.mem = s.mem)) ∧
  (∀ (s : State) (x : SubCart), s.subs.find? (fun y => y.id == x.id) = some x →
    let goes : Prop := x.stage = 0 ∧ s.ns ≤ x.deadline ∧ (routePort s x.pkg).isSome = true
    (goes → ∃ t, ∃ y ∈ t.subs, exec (.subcartHoldRelease x.id) s = .next t ∧ y.id = x.id ∧ y.stage = 1 ∧
      y.entries = x.entries ∧ t.mem = s.mem) ∧
    (¬goes → exec (.subcartHoldRelease x.id) s = .next s) ∧
    (¬goes → x.stage = 0 → x.deadline ≤ s.ns →
      ∃ t, ∃ r ∈ t.replies, exec (.subcartNotreadyTimeout x.id) s = .next t ∧ r.sub = x.id ∧
        r.entries.length = x.entries.length ∧ (∀ en ∈ r.entries, en.code = 6 ∧ en.cause = causeCode .notready) ∧
        (∀ y ∈ t.subs, y.id ≠ x.id) ∧ t.mem = s.mem) ∧
    (goes ∨ x.stage ≠ 0 ∨ s.ns < x.deadline → exec (.subcartNotreadyTimeout x.id) s = .next s)) ∧
  (∀ (s : State) (p : CartPart), s.subs.find? (fun y => y.id == p.id) = none → s.parts.find? (fun y => y.id == p.id) = some p →
    let goes : Prop := p.held = true ∧ s.ns ≤ p.deadline ∧ rowReady s p.pkg p.stack = true
    (goes → ∃ t, ∃ q ∈ t.parts, exec (.subcartHoldRelease p.id) s = .next t ∧ q.id = p.id ∧ q.held = false ∧
      q.entries = p.entries ∧ t.mem = s.mem) ∧
    (¬goes → exec (.subcartHoldRelease p.id) s = .next s) ∧
    (¬goes → p.held = true → p.deadline ≤ s.ns →
      ∃ t, ∃ q ∈ t.parts, exec (.subcartNotreadyTimeout p.id) s = .next t ∧ q.id = p.id ∧ q.held = false ∧ q.replied = true ∧
        q.entries.length = p.entries.length ∧ (∀ en ∈ q.entries, en.code = 6 ∧ en.cause = causeCode .notready) ∧
        t.mem = s.mem) ∧
    (goes ∨ p.held = false ∨ s.ns < p.deadline → exec (.subcartNotreadyTimeout p.id) s = .next s)) ∧
  (∀ (s : State) (p : CartPart), s.parts.find? (fun y => y.id == p.id) = some p →
    let b := if p.begun then (s, p) else beginPart s p
    (p.held = true ∨ p.replied = true ∨ rowReady s p.pkg p.stack = false → exec (.rowEngineCart p.id) s = .next s) ∧
    (p.held = false → p.replied = false → rowReady s p.pkg p.stack = true →
      (p.head.typ ≤ 2 → ∃ t, ∃ q ∈ t.parts, exec (.rowEngineCart p.id) s = .next t ∧ q.id = p.id ∧ q.replied = true ∧
        q.entries.length = p.entries.length ∧ t.mem = s.mem) ∧
      (3 ≤ p.head.typ → ∃ t, ∃ q ∈ t.parts, exec (.rowEngineCart p.id) s = .next t ∧ q.id = p.id ∧
        q.entries.length = p.entries.length ∧
        (rowBusy b.1 b.2 = true → q.replied = false ∧ t.mem = s.mem) ∧
        (rowBusy b.1 b.2 = false → q.replied = (free s 47 % 2 == 0)) ∧
        ∀ a, (∀ en ∈ b.2.entries, en.code = 0 → a ∉ en.keys.flatMap (fun k => span k.1 k.2)) → mget t a = mget s a))) ∧
  (∀ (p : CartPart) (m : Pages) (st : State × List CartEntry) (en : CartEntry),
    (∀ ks, rowWhere st.1 p.head p.pkg p.stack m en.row = .ok ks →
      rowBegin p m st en = (st.1, st.2 ++ [if en.bad = [] then { en with keys := ks } else failEntry 4 .poison en])) ∧
    (∀ c, rowWhere st.1 p.head p.pkg p.stack m en.row = .error c →
      (rowBegin p m st en).2 = st.2 ++ [failEntry (rowCode c) c en] ∧ (rowBegin p m st en).1.mem = st.1.mem)) ∧
  (∀ (s : State) (h : CartHead) (acc : List CartEntry) (en : CartEntry), en.code = 0 →
    let cells : List Nat := en.keys.flatMap (fun k => span k.1 k.2)
    let new : List Byte := if h.typ = 3 then en.data else addRow h.fmt (keyBytes s en.keys) en.data
    let r := writeRow h true (s, acc) en
    (∀ born, pastOf s born en.keys = [] → readRow s born en = { en with data := keyBytes s en.keys }) ∧
    (en.done = [] → cells.Nodup → cells.length = new.length →
      (∀ (j k : Nat), cells[j]? = some k → some (mget r.1 k) = new[j]?) ∧ ∀ a, a ∉ cells → mget r.1 a = mget s a)) ∧
  (∀ (s : State) (x : SubCart) (die : Nat), s.subs.find? (fun y => y.id == x.id) = some x →
    let mine := s.parts.filter (fun p => p.sub == x.id && p.stack / 4 == die)
    (mine ≠ [] → (∀ p ∈ mine, p.replied = true) →
      ∃ t, ∃ r ∈ t.replies, exec (.bridgePoolCombine x.id die) s = .next t ∧ r.sub = x.id ∧ r.op = x.head.op ∧
        (∀ p ∈ mine, ∀ en ∈ p.entries, en ∈ r.entries) ∧ (∀ p ∈ t.parts, p.sub = x.id → p.stack / 4 ≠ die) ∧ t.mem = s.mem) ∧
    (mine = [] ∨ (∃ p ∈ mine, p.replied = false) → exec (.bridgePoolCombine x.id die) s = .next s)) ∧
  (∀ (s : State) (r : CartReply), s.replies.find? (fun y => y.id == r.id) = some r →
    (r.stage = 1 → ∃ t, ∃ y ∈ t.replies, exec (.replySwitchCombine r.id) s = .next t ∧ y.id = r.id ∧ y.stage = 2 ∧
      y.entries = r.entries ∧ t.mem = s.mem ∧
      ∀ o c, op? s r.op = some o → o.kind = .cart c →
        ∃ x ∈ t.ops, ∃ k, x.id = r.op ∧ x.kind = .cart k ∧ k.bagAcc = poolIn c.head.pool c.bagAcc r.bags) ∧
    (2 ≤ r.stage → exec (.replySwitchCombine r.id) s = .next s) ∧
    (∀ x, r.stage = 0 → s.subs.find? (fun y => y.id == r.sub) = some x →
      (2 ≤ x.diesLeft → ∃ t, ∃ y ∈ t.subs, exec (.replySwitchCombine r.id) s = .next t ∧ y.id = x.id ∧
        y.diesLeft = x.diesLeft - 1 ∧ y.got = x.got ++ r.entries ∧ y.bagAcc = poolIn x.head.pool x.bagAcc r.bags ∧
        (∀ y ∈ t.replies, y.id ≠ r.id) ∧ t.mem = s.mem) ∧
      (x.diesLeft ≤ 1 → x.head.op ≠ 0 → ∃ t, ∃ y ∈ t.replies, exec (.replySwitchCombine r.id) s = .next t ∧ y.id = r.id ∧
        y.stage = 1 ∧ y.entries = x.got ++ r.entries ∧ y.bags = poolIn x.head.pool x.bagAcc r.bags ∧
        (∀ y ∈ t.subs, y.id ≠ x.id) ∧ t.mem = s.mem) ∧
      (x.diesLeft ≤ 1 → x.head.op = 0 → (routePort s x.head.reqPkg).isSome = false →
        exec (.replySwitchCombine r.id) s = .next s) ∧
      (x.diesLeft ≤ 1 → x.head.op = 0 → (routePort s x.head.reqPkg).isSome = true → ∃ t, exec (.replySwitchCombine r.id) s = .next t ∧
        t.akbexOut = replyFlits x.head (x.got ++ r.entries) (poolIn x.head.pool x.bagAcc r.bags) ∧
        (∀ y ∈ t.subs, y.id ≠ x.id) ∧ (∀ y ∈ t.replies, y.id ≠ r.id) ∧ t.mem = s.mem))) ∧
  (∀ (s : State) (r : CartReply), s.replies.find? (fun y => y.id == r.id) = some r →
    (r.stage ≠ 2 → exec (.cartReplyPlace r.id) s = .next s) ∧
    (∀ o c, r.stage = 2 → op? s r.op = some o → o.kind = .cart c → c.sent = true →
      ∃ t, ∃ x ∈ t.ops, ∃ k, exec (.cartReplyPlace r.id) s = .next t ∧ x.id = o.id ∧ x.kind = .cart k ∧ k.await = c.await - 1 ∧
        (∀ en ∈ r.entries, en.code = 0 → (en.pos, en.data) ∈ k.rows) ∧
        (∀ en ∈ r.entries, en.code ≠ 0 → (en.pos, en.code, en.cause) ∈ k.faults) ∧
        (c.await ≤ 1 → x.stage = .ready ∧ x.midBits = BitVec.ofNat 8 (min (allFaults k).length 255) ∧
          { dest := .loc (memKey .shm o.coach c.maskAt), bytes := maskBytes ((allFaults k).map (fun f => f.1)) } ∈ x.out) ∧
        (∀ y ∈ t.replies, y.id ≠ r.id) ∧ t.mem = s.mem))

/-! ## Collectives (15) -/

/-- R247, R248, R249: each step of a sequencer's program has its effect once its word is read: END closes the collective,
WAIT and LOOP move the step, SEND stands with its chunk before every addressed rank, RECV and RRS await theirs, COPY moves
its bytes, CMB gives its units to the table. A fault step ends the collective with BADSTEP. A rank takes the chunk or not; a
chunk that has come in is written, or combined and written or sent on, and the step is done. R252, R253: a slotted step begins
at its time; one that waits for another party ends with NOTREADY at its deadline, and so does a start whose port was not
ready in time; what comes after the deadline is not taken. The model's choices: whether a rank takes a chunk in a turn
(free s 11, logs 53 and 59), each unit of a buffer old or new (overWhile, log 119), the units of a contribution (unitBytes,
log 52), and what of a step word is reserved (stepBad, logs 117 and 118). -/
def Obligations.CollectiveSteps : Prop :=
  (∀ e ∈ [(Instr.collEnd, 0), (.collSend, 1), (.collRecv, 2), (.collRrs, 3), (.collCopy, 4), (.collWait, 5), (.collLoop, 6),
      (.collCmb, 7)], ∀ (s : State) (o : EngOp) (c : Coll) (w : DWord), StepReads s o c w →
    (stepBad c w = true → ∃ t, ∃ x ∈ t.ops, exec (e.1 c.id) s = .next t ∧ coll? t c.id = none ∧ x.id = c.id ∧
      x.stage = .ready ∧ x.faultBit = true ∧ x.cause = causeCode .badstep ∧ t.mem = s.mem) ∧
    (stepBad c w = false → stOp w ≠ e.2 → exec (e.1 c.id) s = .next s)) ∧
  (∀ (s : State) (o : EngOp) (c : Coll) (w : DWord), StepAt s o c w → stOp w = 0 →
    ∃ t, ∃ x ∈ t.ops, exec (.collEnd c.id) s = .next t ∧ coll? t c.id = none ∧ x.id = c.id ∧ x.stage = .ready ∧
      x.faultBit = o.faultBit ∧ x.midBits = c.step.setWidth 8 ∧ x.lowBits = BitVec.ofNat 40 c.bytes ∧ t.mem = s.mem) ∧
  (∀ (s : State) (o : EngOp) (c : Coll) (w : DWord), StepAt s o c w → stOp w = 5 →
    ∃ t, exec (.collWait c.id) s = .next t ∧ t.mem = s.mem ∧
      coll? t c.id = some (if stFlag w = true ∧ (rctr s o.coach (stAux w % 8)).toNat < field w 13 26 then c
        else { c with step := c.step + 1, since := s.tick, run := .fresh })) ∧
  (∀ (s : State) (o : EngOp) (c : Coll) (w : DWord), StepAt s o c w → stOp w = 6 →
    ∃ t, exec (.collLoop c.id) s = .next t ∧ t.mem = s.mem ∧
      coll? t c.id = some (if lcOf c (stLc w) + 1 < stLen w then
          { setLc c (stLc w) (lcOf c (stLc w) + 1) with
            step := c.step + BitVec.ofInt 64 (stDist w), since := s.tick, run := .fresh }
        else { setLc c (stLc w) 0 with step := c.step + 1, since := s.tick, run := .fresh })) ∧
  (∀ e ∈ [(Instr.collSend, 1), (.collRecv, 2), (.collRrs, 3), (.collCopy, 4)], ∀ (s : State) (o : EngOp) (c : Coll) (w : DWord),
    StepAt s o c w → stOp w = e.2 → stAux w ≠ 0 → s.ns < slotAt c w 0 →
    ∃ t y, exec (e.1 c.id) s = .next t ∧ coll? t c.id = some y ∧ y.run = .slot ∧ y.word = w ∧ y.step = c.step ∧ t.mem = s.mem) ∧
  (∀ (s : State) (o : EngOp) (c : Coll) (w : DWord), StepAt s o c w → stOp w = 1 → stAux w = 0 ∨ slotAt c w 0 ≤ s.ns →
    let g := readGlob s (engOf o) (piecesOf (chunkAt c w) (chunkLen w))
    let ranks := if stFlag w then (span 0 c.size).filter (fun r => r != c.rank) else [rankAt c (stDist w)]
    g.fault = none →
    ∃ t y, exec (.collSend c.id) s = .next t ∧ coll? t c.id = some y ∧ y.word = w ∧ y.deadline = s.ns + 1000000 ∧
      y.run = .send ranks (clean (overWhile s o c.since (chunkAt c w) g.bytes)) false ∧ t.mem = s.mem) ∧
  (∀ e ∈ [(Instr.collRecv, 2), (.collRrs, 3)], ∀ (s : State) (o : EngOp) (c : Coll) (w : DWord), StepAt s o c w →
    stOp w = e.2 → stAux w = 0 ∨ slotAt c w 0 ≤ s.ns →
    ∃ t y, exec (e.1 c.id) s = .next t ∧ coll? t c.id = some y ∧ y.run = .recv ∧ y.word = w ∧ y.step = c.step ∧
      y.deadline = s.ns + 1000000 ∧ t.mem = s.mem) ∧
  (∀ (s : State) (o : EngOp) (c : Coll) (w : DWord), StepAt s o c w → stOp w = 4 → stAux w = 0 ∨ slotAt c w 0 ≤ s.ns →
    o.inst = 0 →
    let g := readGlob s (engOf o) (piecesOf (chunkAt c w) (chunkLen w))
    let data := overWhile s o c.since (chunkAt c w) g.bytes
    let ps := chunkPieces s (engOf o) { dest := .glob (bufOf c (field w 42 3) + chunkOfs c w), bytes := data }
    g.fault = none → firstFail 0 ps = none →
    ∃ t y, exec (.collCopy c.id) s = .next t ∧ coll? t c.id = some y ∧ y.step = c.step + 1 ∧ y.run = .fresh ∧
      y.bytes = c.bytes + data.length ∧
      ∀ p k, ps = [p] → p.at' = .ok k → p.bytes = data → o.early = [] → isTileKey k = false → k / 2 ^ 48 = (k + data.length) / 2 ^ 48 →
        (∀ n < data.length, some (mget t (k + n)) = data[n]?) ∧ ∀ a, a < k ∨ k + data.length ≤ a → mget t a = mget s a) ∧
  (∀ (s : State) (o : EngOp) (c : Coll) (w : DWord), StepAt s o c w → stOp w = 7 →
    let g := readGlob s (engOf o) (piecesOf (chunkAt c w) (chunkLen w))
    let data := overWhile s o c.since (chunkAt c w) g.bytes
    let peer := rankAt c (stDist w)
    let z := unitBytes (stOper w) c.rd
    let units := span 0 (ceilDiv data.length z)
    g.fault = none →
    ∃ t y, exec (.collCmb c.id) s = .next t ∧ coll? t c.id = some y ∧ y.word = w ∧
      y.run = .cmb units (if stFlag w && peer != c.rank then [] else units) ∧ t.mem = s.mem ∧
      (ownRank c peer = true → ∀ u ∈ units, ∃ m ∈ t.combMsgs, m.key = combKeyOf c u ∧ m.form = combForm c w ∧ m.coll = c.id ∧
        m.src = c.rank ∧ m.toRank = none ∧ m.count = 1 ∧ m.data = clean ((data.drop (z * u)).take z))) ∧
  (∀ (s : State) (o : EngOp) (c : Coll), op? s c.id = some o → coll? s c.id = some c → stOp c.word = 7 →
    stepUp s o c c.word = true → c.run = .cmb [] [] →
    ∃ t, exec (.collCmb c.id) s = .next t ∧ coll? t c.id = some { c with step := c.step + 1, since := s.tick, run := .fresh } ∧
      t.mem = s.mem) ∧
  (∀ e ∈ [(Instr.collSend, 1), (.collRrs, 3)], ∀ (s : State) (o : EngOp) (c : Coll) (left : List Nat) (data : Payload)
      (excess : Bool), op? s c.id = some o → coll? s c.id = some c → stOp c.word = e.2 → c.run = .send left data excess →
    (left = [] → excess = false → ∃ t, exec (e.1 c.id) s = .next t ∧ t.mem = s.mem ∧
      coll? t c.id = some { c with step := c.step + 1, since := s.tick, run := .fresh }) ∧
    (left = [] → excess = true → ∃ t, ∃ x ∈ t.ops, exec (e.1 c.id) s = .next t ∧ coll? t c.id = none ∧ x.id = c.id ∧
      x.cause = causeCode .length ∧ t.mem = s.mem) ∧
    (∀ r rest, left = r :: rest →
      let takes : Bool := (ownRank c r || (routePort s (pkgOfRank c r)).isSome) && s.ns ≤ c.deadline && free s 11 % 2 != 0
      let link : CollLink := { world := c.world, group := c.group, src := c.rank, dst := r }
      (takes = false → exec (e.1 c.id) s = .next s) ∧
      (takes = true → ∃ t, exec (e.1 c.id) s = .next t ∧ coll? t c.id = some { c with run := .send rest data excess } ∧
        t.mem = s.mem ∧ (ownRank c r = true → s.owed.contains link = false → { link := link, data := data, ns := s.ns } ∈ t.msgs)))) ∧
  (∀ (s : State) (c : Coll), coll? s c.id = some c → c.run = .slot →
    (slotAt c c.word 0 ≤ s.ns → ∃ t, exec (.collSlotStart c.id) s = .next t ∧ coll? t c.id = some { c with run := .body } ∧
      t.mem = s.mem) ∧
    (s.ns < slotAt c c.word 0 → exec (.collSlotStart c.id) s = .next s)) ∧
  (∀ (s : State) (o : EngOp) (c : Coll), op? s c.id = some o → coll? s c.id = some c →
    (stepWaits s c = true → c.deadline ≤ s.ns →
      ∃ t, ∃ x ∈ t.ops, exec (.collStepTimeout c.id) s = .next t ∧ coll? t c.id = none ∧ x.id = c.id ∧ x.stage = .ready ∧
        x.faultBit = true ∧ x.cause = causeCode .notready ∧ t.mem = s.mem) ∧
    (stepWaits s c = false ∨ s.ns < c.deadline → exec (.collStepTimeout c.id) s = .next s) ∧
    (o.started = false → portInTime s c = false → c.deadline ≤ s.ns →
      ∃ t, ∃ x ∈ t.ops, exec (.collStartTimeout c.id) s = .next t ∧ coll? t c.id = none ∧ x.id = c.id ∧ x.stage = .ready ∧
        x.faultBit = true ∧ x.cause = causeCode .notready ∧ t.mem = s.mem) ∧
    (o.started = true ∨ portInTime s c = true ∨ s.ns < c.deadline → exec (.collStartTimeout c.id) s = .next s)) ∧
  (∀ e ∈ [(Instr.collRecv, 2), (.collRrs, 3)], ∀ (s : State) (o : EngOp) (c : Coll), op? s c.id = some o →
    coll? s c.id = some c → c.run = .recv → stOp c.word = e.2 → stepUp s o c c.word = true → o.inst = 0 →
    let addr := chunkAt c c.word
    let n := chunkLen c.word
    let oper := stOper c.word
    let g := readGlob s (engOf o) (piecesOf addr n)
    let own := overWhile s o c.since addr g.bytes
    (s.msgs.find? (fun m => m.link == recvLink c) = none → exec (e.1 c.id) s = .next s) ∧
    (∀ m, s.msgs.find? (fun m => m.link == recvLink c) = some m →
      let inc := cutPay m.data 0 n
      let r := combinePay oper c.rk c.rd (clean (own.take inc.bytes.length)) inc
      (c.deadline < m.ns → exec (e.1 c.id) s = .next s) ∧
      (m.ns ≤ c.deadline → e.2 = 2 → m.data.bytes.length ≤ n → oper = 0 ∨ g.fault = none →
        firstFail 0 (chunkPieces s (engOf o) { dest := .glob addr, bytes := (if oper = 0 then inc else r).bytes }) = none →
        ∃ t y, exec (e.1 c.id) s = .next t ∧ coll? t c.id = some y ∧ y.step = c.step + 1 ∧ y.run = .fresh ∧
          y.bytes = c.bytes + (if oper = 0 then inc else r).bytes.length ∧ t.msgs.length + 1 = s.msgs.length) ∧
      (m.ns ≤ c.deadline → e.2 = 3 → oper ≠ 0 → g.fault = none →
        ∃ t y, exec (e.1 c.id) s = .next t ∧ coll? t c.id = some y ∧
          y.run = .send [rankAt c (stDist c.word)] { r with bytes := r.bytes ++ own.drop inc.bytes.length }
            (n < m.data.bytes.length) ∧
          t.msgs.length + 1 = s.msgs.length ∧ t.mem = s.mem)))

/-- R250: a contribution opens an entry or joins its key's, in the order of arrival, or bypasses where no entry may be
opened, which counts an overflow: it leaves for the one destination its key names, or, with FLAG 0, for every contributor, and
the earlier ones for its own. The complete partial leaves for that destination, or for every contributor; a destination
combines what arrives; entries and bypass records end with their time, before a later contribution of their key is taken, and
with them the collectives that await their keys. What leaves is marked where poison reached it (log 137). -/
def Obligations.CombiningTable : Prop :=
  (∀ (s : State) (m : CombMsg), s.combMsgs.find? (fun x => x.id == m.id) = some m →
    (m.toRank ≠ none ∨ ready s 158 = false → exec (.combineContribution m.id) s = .next s) ∧
    (m.toRank = none → exec (.rawContributionArrival m.id) s = .next s)) ∧
  (∀ (s : State) (m : CombMsg), s.combMsgs.find? (fun x => x.id == m.id) = some m → m.toRank = none → ready s 158 = true →
    let u := freeLate { s with combMsgs := s.combMsgs.filter (fun x => x.id != m.id) } m.key
    ((∀ e ∈ s.combs, e.key = m.key → s.ns < e.deadline) → (∀ b ∈ s.bypass, b.key = m.key → s.ns < b.deadline) →
      u = { s with combMsgs := s.combMsgs.filter (fun x => x.id != m.id) }) ∧
    (∀ e ∈ u.combs, e.key = m.key → s.ns < e.deadline) ∧ (∀ b ∈ u.bypass, b.key = m.key → s.ns < b.deadline) ∧
    ∃ t, exec (.combineContribution m.id) s = .next t ∧ t.mem = s.mem ∧
      (∀ c left units, coll? u m.coll = some c → c.run = .cmb left units → ∃ y, coll? t m.coll = some y ∧
        y.run = .cmb (if s.ns ≤ c.deadline then left.filter (fun v => v != m.key.unit) else left) units)) ∧
  (∀ (s : State) (m : CombMsg), s.combMsgs.find? (fun x => x.id == m.id) = some m → m.toRank = none → ready s 158 = true →
    let u := freeLate { s with combMsgs := s.combMsgs.filter (fun x => x.id != m.id) } m.key
    u.combs.find? (fun e => e.key == m.key) = none →
    let opens : Prop := u.bypassHold = false ∧ (∀ b ∈ u.bypass, b.key ≠ m.key) ∧ combUsed u m.key.world < combCap u m.key.world
    let goes (t : State) (r : Nat) (data : Payload) : Prop :=
      ∃ x ∈ t.combMsgs, x.toRank = some r ∧ x.key = m.key ∧ x.data = data ∧ x.count = 1
    (opens → 2 ≤ m.form.expect →
      ∃ t, ∃ e ∈ t.combs, exec (.combineContribution m.id) s = .next t ∧ e.key = m.key ∧ e.form = m.form ∧ e.data = m.data ∧
        e.srcs = [(m.src, m.coll != 0)] ∧ e.deadline = s.ns + 1000000) ∧
    (opens → m.form.expect ≤ 1 → ∃ t, exec (.combineContribution m.id) s = .next t ∧
      (∀ r, m.form.dest = some r → goes t r m.data) ∧ (m.form.dest = none → m.coll ≠ 0 → goes t m.src m.data)) ∧
    (¬opens → ∃ t, exec (.combineContribution m.id) s = .next t ∧ t.combs = u.combs ∧
      t.overflow = (if s.overflow = 0xFFFFFFFF#32 then s.overflow else s.overflow + 1) ∧
      (∀ r, m.form.dest = some r → goes t r m.data) ∧
      (m.form.dest = none → (m.coll ≠ 0 → goes t m.src m.data) ∧
        ∀ b, u.bypass.find? (fun b => b.key == m.key) = some b → ∀ g ∈ b.got,
          (g.2.1 = true → goes t g.1 m.data) ∧ (m.coll ≠ 0 → goes t m.src g.2.2)))) ∧
  (∀ (s : State) (m : CombMsg) (e : CombEntry), s.combMsgs.find? (fun x => x.id == m.id) = some m → m.toRank = none →
    ready s 158 = true →
    let u := freeLate { s with combMsgs := s.combMsgs.filter (fun x => x.id != m.id) } m.key
    u.combs.find? (fun x => x.key == m.key) = some e →
    let data := combinePay e.form.oper e.form.rk e.form.rd e.data m.data
    let goes (t : State) (r : Nat) : Prop :=
      ∃ x ∈ t.combMsgs, x.toRank = some r ∧ x.key = e.key ∧ x.data = data ∧ x.count = e.srcs.length + 1
    (e.srcs.length + 1 < e.form.expect →
      ∃ t, ∃ x ∈ t.combs, exec (.combineContribution m.id) s = .next t ∧ x.id = e.id ∧ x.data = data ∧
        x.srcs = e.srcs ++ [(m.src, m.coll != 0)] ∧ x.deadline = s.ns + 1000000) ∧
    (e.form.expect ≤ e.srcs.length + 1 → ∃ t, exec (.combineContribution m.id) s = .next t ∧ (∀ y ∈ t.combs, y.id ≠ e.id) ∧
      (∀ r, e.form.dest = some r → goes t r) ∧
      (e.form.dest = none → ∀ y ∈ e.srcs ++ [(m.src, m.coll != 0)], y.2 = true → goes t y.1))) ∧
  (∀ (s : State) (m : CombMsg) (r : Nat), s.combMsgs.find? (fun x => x.id == m.id) = some m → m.toRank = some r →
    ∃ t d, exec (.rawContributionArrival m.id) s = .next t ∧ destAcc? t m.key r = some d ∧
      (destAcc? s m.key r = none → d.count = m.count ∧ d.data = m.data) ∧
      (∀ x, destAcc? s m.key r = some x → d.count = x.count + m.count ∧
        d.data = combinePay m.form.oper m.form.rk m.form.rd x.data m.data) ∧
      (∀ x ∈ t.combMsgs, x.id ≠ m.id) ∧ t.mem = s.mem) ∧
  (∀ (s : State) (e : CombEntry), s.combs.find? (fun x => x.id == e.id) = some e →
    (e.deadline ≤ s.ns → ∃ t, exec (.combineEntryTimeout e.id) s = .next t ∧ (∀ x ∈ t.combs, x.id ≠ e.id) ∧ t.mem = s.mem ∧
      ∀ c ∈ s.colls, ∀ left units, c.run = .cmb left units → (∃ u ∈ units, combKeyOf c u = e.key ∧ u ∉ left) → coll? t c.id = none) ∧
    (s.ns < e.deadline → exec (.combineEntryTimeout e.id) s = .next s)) ∧
  (∀ (s : State) (b : Bypass), s.bypass.find? (fun x => x.id == b.id) = some b →
    (b.deadline ≤ s.ns → ∃ t, exec (.bypassRecordTimeout b.id) s = .next t ∧ (∀ x ∈ t.bypass, x.id ≠ b.id) ∧ t.mem = s.mem ∧
      ∀ c ∈ s.colls, ∀ left units, c.run = .cmb left units → (∃ u ∈ units, combKeyOf c u = b.key ∧ u ∉ left) → coll? t c.id = none) ∧
    (s.ns < b.deadline → exec (.bypassRecordTimeout b.id) s = .next s))

/-! ## Triggers and routing (15 R254, R255, 07 R120-R126) -/

/-- R254, R255, R274: the first due trigger fires: its operation is issued now, with the embedded instruction's kind and the
block's values, and the trigger is gone; a tick of a bound timebase makes a trigger whose terms hold due. R121, R123-R126: a
ROUTE that failed, or that takes the lists of EXPERT mode, ends in one turn of its routing engine; in TOKEN mode a turn
presents claims or ends it; a ROUTE whose engine was not ready in time ends with NOTREADY and its list area undefined. The
model's choices: the number a fired operation takes (log 62), what it shows as LATE (log 61), and what a ROUTE owns and reads
(log 64). The first of two due triggers is the one whose predicate held earlier, then the one armed earlier. -/
def Obligations.TriggersAndRoutes : Prop :=
  (∀ (s : State) (g : Trigger) (o : EngOp), s.triggers.find? (fun x => x.id == g.id) = some g → op? s g.op = some o →
    let fires : Prop := g.due.isSome = true ∧ ∀ x ∈ s.triggers, firesBefore x g = false
    (fires → ∃ t, ∃ x ∈ t.ops, exec (.triggerFire g.id) s = .next t ∧ x.id = s.nextId ∧ x.stage = .requesting ∧ x.tok = o.tok ∧
      x.late = g.lateAtArm ∧ (∀ y ∈ t.triggers, y.id ≠ g.id) ∧ t.mem = s.mem) ∧
    (¬fires → exec (.triggerFire g.id) s = .next s)) ∧
  (∀ (s : State) (o : EngOp) (g : Trigger) (i : EngI),
    (g.instr = .cpy i → cpyBytes i ≠ 0 → cpyBad s (engOf o) i g.aval g.bval = none →
      (fireOp s o g).kind = .copy [cpySrc i g.aval] [cpyDst i g.bval]) ∧
    (g.instr = .sigN i → (fireOp s o g).kind =
      .sigN g.aval (field g.bval 0 32) (field g.bval 48 16) (field i.t.emod 0 3) (field i.t.emod 3 12)) ∧
    (g.instr = .sigW i → g.aval.toNat % 8 = 0 → (fireOp s o g).kind = .sigW g.aval.toNat g.bval) ∧
    (g.instr = .coll i → (fireOp s o g).kind = .coll g.aval.toNat (field i.t.emod 0 4))) ∧
  (∀ (s : State) (g : Trigger), s.triggers.find? (fun x => x.id == g.id) = some g → n7Bound s g.coach = true →
    (∃ x ∈ g.terms, x.ctr = 7) → trigHolds s g = true → g.due = none →
    ∃ t, exec (.triggerTimebaseTick g.id) s = .next t ∧ { g with due := some (s.ns, s.tick) } ∈ t.triggers ∧ t.mem = s.mem ∧ t.ops = s.ops) ∧
  (∀ (s : State) (o : EngOp) (d : RouteDesc) (r : RouteRun), op? s o.id = some o → o.kind = .route d (some r) →
    let runs : Prop := o.stage = .issued ∧ (r.begun = true ∨ routeReady s o = true)
    (¬runs → exec (.routeRun o.id) s = .next s) ∧
    (runs → o.faultBit = true → ∃ t, ∃ x ∈ t.ops, exec (.routeRun o.id) s = .next t ∧ x.id = o.id ∧ x.stage = .ready ∧
      x.out = o.out ∧ t.mem = s.mem) ∧
    (runs → o.faultBit = false → d.expert = true →
      ∃ t, ∃ x ∈ t.ops, exec (.routeRun o.id) s = .next t ∧ x.id = o.id ∧ x.stage = .ready ∧ t.mem = s.mem ∧
        { dest := .glob d.idxOut.toNat, bytes := (expertRows d r.scores).flatMap (rowIdx d.k) } ∈ x.out ∧
        { dest := .glob d.wgtOut.toNat, bytes := (expertRows d r.scores).flatMap (rowWgt d.k d.norm) } ∈ x.out) ∧
    (runs → o.faultBit = false → d.expert = false → mayClaim s o = false → exec (.routeRun o.id) s = .next s) ∧
    (runs → o.faultBit = false → d.expert = false → mayClaim s o = true →
      ((withClaims d r).queue = [] → ∃ t, ∃ x ∈ t.ops, exec (.routeRun o.id) s = .next t ∧ x.id = o.id ∧ x.stage = .ready ∧
        t.mem = s.mem ∧
        { dest := .glob d.idxOut.toNat, bytes := (withClaims d r).toks.flatMap (fun k => rowIdx d.k k.got) } ∈ x.out) ∧
      ((withClaims d r).queue ≠ [] → ∃ t, ∃ x ∈ t.ops, ∃ q, exec (.routeRun o.id) s = .next t ∧ x.id = o.id ∧
        x.stage = o.stage ∧ x.kind = .route d (some q) ∧ q.begun = true ∧ q.scores = r.scores ∧
        q.queue.length < (withClaims d r).queue.length)) ∧
    (o.stage = .issued → r.begun = false → routeReady s o = false → o.deadline ≤ s.ns →
      ∃ t, ∃ x ∈ t.ops, exec (.routeNotreadyTimeout o.id) s = .next t ∧ x.id = o.id ∧ x.stage = .ready ∧ x.faultBit = true ∧
        x.cause = causeCode .notready ∧ x.out = areaBytes s o d ∧ t.mem = s.mem) ∧
    (o.stage ≠ .issued ∨ r.begun = true ∨ routeReady s o = true ∨ s.ns < o.deadline →
      exec (.routeNotreadyTimeout o.id) s = .next s))

/-! ## Sequence caches and the prefix index (14) -/

/-- R228: a pool comes into use with every page free where its configuration is valid, and out of use once no append or free
that has arrived is still under way. R385, R396: a page check answers with the page's standing; a page whose CRC differs is
poisoned, logged with its pool and index (the word is the model's, log 47) and counted in the UECNT of its row engine; the
scrubber visits the sealed pages that its row engine reaches in turn, and no free one. Whose world a pool is of is the WORLD
bit of its configuration (log 50). -/
def Obligations.PoolsAndPages : Prop :=
  let ueOf (s : State) (n : Nat) : Nat := field (rsys s 0 2 (errStat (136 + poolMgr s n))) 32 16
  (∀ (s : State) (n : Nat) (cfg : DWord),
    (16 ≤ n ∨ cfg.getLsbD 0 = false ∨ poolEn s n = true → exec (.poolEnable n cfg) s = .next s) ∧
    (n < 16 → cfg.getLsbD 0 = true → poolEn s n = false →
      (poolValid s n (cfg &&& pcfgMask) = true →
        ∃ t, exec (.poolEnable n cfg) s = .next t ∧ poolEn t n = true ∧ pcfg t n = cfg &&& pcfgMask ∧
          poolFree t n = field cfg 32 24 ∧ freeTop t n = some 0 ∧ t.v = s.v) ∧
      (poolValid s n (cfg &&& pcfgMask) = false →
        ∃ t, exec (.poolEnable n cfg) s = .next t ∧ poolEn t n = false ∧ t.mem = s.mem))) ∧
  (∀ (s : State) (n : Nat), n < 16 → poolEn s n = true →
    (poolBusy s n = false → ∃ t, exec (.poolDisable n) s = .next t ∧ poolEn t n = false ∧ t.mem = s.mem) ∧
    (poolBusy s n = true → ∃ t, exec (.poolDisable n) s = .next t ∧ poolEn t n = true ∧ t.poolClosing.contains n = true ∧
      t.mem = s.mem)) ∧
  (∀ (s : State) (o : EngOp) (n i : Nat), op? s o.id = some o → o.kind = .pgchk n i →
    (o.stage ≠ .issued ∨ ready s (136 + poolMgr s n) = false → exec (.pgchkCheck o.id) s = .next s) ∧
    (o.stage = .issued → ready s (136 + poolMgr s n) = true →
      let ok : Prop := poolOk s n o.world = true
      let within : Prop := ok ∧ i < poolPages s n ∧ pagesTaken s n [i] = true
      ∃ t, ∃ x ∈ t.ops, exec (.pgchkCheck o.id) s = .next t ∧ x.id = o.id ∧ x.stage = .ready ∧ x.faultBit = o.faultBit ∧
        (¬ok → x.midBits = 5 ∧ t.mem = s.mem) ∧
        (ok → poolPages s n ≤ i → x.midBits = 4 ∧ t.mem = s.mem) ∧
        (ok → i < poolPages s n → pagesTaken s n [i] = false → x.midBits = 5 ∧ t.mem = s.mem) ∧
        (within → (page s n i).sealed' = false → x.midBits = 2 ∧ t.mem = s.mem) ∧
        (within → (page s n i).sealed' = true → (page s n i).poison = true → x.midBits = 3 ∧ t.mem = s.mem) ∧
        (within → (page s n i).sealed' = true → (page s n i).poison = false → x.lowBits = (pageCrc s n i).setWidth 40 ∧
          (pageGood s n i = true → x.midBits = 0 ∧ t.mem = s.mem) ∧
          (pageGood s n i = false → x.midBits = 1 ∧ (page t n i).poison = true ∧
            poolReg t n 0x48 = BitVec.ofNat 64 (n * 2 ^ 52 + i) ∧ ueOf t n = min (ueOf s n + 1) 65535)))) ∧
  (∀ (s : State) (n : Nat),
    let on : Prop := n < 16 ∧ poolEn s n = true ∧ poolReg s n 0x40 ≠ 0 ∧ ready s (136 + poolMgr s n) = true
    (¬on ∨ scrubPick s n = none → exec (.scrubberTick n) s = .next s) ∧
    (∀ i, on → scrubPick s n = some i → i < 2 ^ 32 - 1 →
      ∃ t, exec (.scrubberTick n) s = .next t ∧ (cget t.scrubNext n).toNat = i + 1 ∧ (pageGood s n i = true → t.mem = s.mem) ∧
        (pageGood s n i = false → (page t n i).poison = true ∧ poolReg t n 0x48 = BitVec.ofNat 64 (n * 2 ^ 52 + i) ∧
          ueOf t n = min (ueOf s n + 1) 65535))) ∧
  (∀ (s : State) (n i : Nat), scrubPick s n = some i →
    i < poolPages s n ∧ (page s n i).sealed' = true ∧ pagesTaken s n [i] = true ∧ pageFree s n i = false)

/-- R230, R233, R276: an append that passes its tests reserves the positions from RES on; refused, its status says why and
nothing is written; a reserved range lands once its ORDER lets it, CURSOR then moves to the end of the ranges that have landed
before any other, and a published range is forgotten; one that was rolled back before it landed still completes. R327: an
instance's append is released once every lower instance has gone past the sequence. Whose world a pool is of is the WORLD bit
of its configuration (log 50). -/
def Obligations.Appends : Prop :=
  (∀ (s : State) (o : EngOp) (n q cnt h d16 src : Nat) (rsv : Bool) (data : List Byte), op? s o.id = some o →
    o.kind = .kvapp n q cnt h rsv d16 src data none →
    let e := seqE s n q
    let c := if e.opened then e.res else 0
    let j0 := ceilDiv c 128
    let j1 := ceilDiv (c + cnt) 128
    let due : Prop := o.stage = .issued ∧ ready s (136 + poolMgr s n) = true ∧ kvTurn s o n = true
    let ok : Prop := poolOk s n o.world = true ∧ seqReach s o.world e = true
    let fits : Prop := cnt ≠ 0 ∧ c + cnt ≤ 2 ^ 24 ∧ j1 ≤ e.cap ∧ h = e.h
    let room : Prop := canTake s n (h * (j1 - j0)) rsv = true
    let reached : Prop :=
      pagesTaken s n (freeList s n (h * (j1 - j0)) ++ if e.opened then pagesIn s e (c / 128) j0 else []) = true
    (¬due → exec (.kvReserve o.id) s = .next s) ∧
    (due → ok → fits → room → reached → ∃ t, ∃ x ∈ t.ops, exec (.kvReserve o.id) s = .next t ∧ x.id = o.id ∧
      x.kind = .kvapp n q cnt h rsv d16 src data (some c) ∧ x.lowBits = BitVec.ofNat 40 c ∧ x.stage = .issued ∧
      (seqE t n q).res = (c + cnt) % 2 ^ 24 ∧
      t.ranges = (if e.opened then s.ranges else s.ranges.filter (fun r => !(r.pool == n && r.seq == q && r.landed))) ++
        [{ op := o.id, pool := n, seq := q, first := c, n := cnt, landed := false, inst := o.inst
           unpub := o.win, counted := 2 ^ 24, coach := o.coach }]) ∧
    (∀ st, due → (¬ok ∧ st = 7 ∨ ok ∧ ¬fits ∧ st = 5 ∨ ok ∧ fits ∧ ¬room ∧ st = 3 ∨ ok ∧ fits ∧ room ∧ ¬reached ∧ st = 7) →
      ∃ t, ∃ x ∈ t.ops, exec (.kvReserve o.id) s = .next t ∧ x.id = o.id ∧ x.stage = .ready ∧ x.midBits = BitVec.ofNat 8 st ∧
        x.faultBit = o.faultBit ∧ t.ranges = s.ranges ∧ t.mem = s.mem)) ∧
  (∀ (s : State) (o : EngOp) (r : KvRange) (n q cnt h d16 src : Nat) (rsv : Bool) (data : List Byte) (first : Option Nat),
    op? s r.op = some o → s.ranges.find? (fun x => x.op == r.op) = some r → r.landed = false →
    o.kind = .kvapp n q cnt h rsv d16 src data first →
    (releaseReady s o = false ∨ writesBehind s o = true → exec (.appendLand r.op) s = .next s) ∧
    (releaseReady s o = true → writesBehind s o = false →
      ∃ t, ∃ x ∈ t.ops, exec (.appendLand r.op) s = .next t ∧ x.id = o.id ∧ x.stage = .ready ∧
        { r with landed := true } ∈ t.ranges)) ∧
  (∀ (s : State) (r : KvRange), s.ranges.find? (fun x => x.op == r.op) = some r → r.landed = true →
    let cur := (seqE (publish s r.pool r.seq) r.pool r.seq).cur
    ∃ t, exec (.appendLand r.op) s = .next t ∧
      (r.unpub = false → r.first + r.n ≤ cur → ∀ x ∈ t.ranges, x.op ≠ r.op) ∧
      (r.unpub = true ∨ cur < r.first + r.n → t.ranges = s.ranges)) ∧
  (∀ (s : State) (n q : Nat),
    let e := seqE s n q
    let x := publishEnd e.cur (seqRanges s n q)
    (e.opened = false ∨ x ≤ e.cur → publish s n q = s) ∧
    (e.opened = true → rowsTake s (poolWorld s n) e.at' 64 = true → e.cur < x → x < 2 ^ 24 →
      (seqE (publish s n q) n q).cur = x)) ∧
  (∀ (s : State) (o : EngOp) (n q cnt h d16 src c : Nat) (rsv : Bool) (data : List Byte), op? s o.id = some o →
    s.ranges.find? (fun x => x.op == o.id) = none → o.kind = .kvapp n q cnt h rsv d16 src data (some c) → o.stage = .issued →
    ∃ t, ∃ x ∈ t.ops, exec (.appendLand o.id) s = .next t ∧ x.id = o.id ∧ x.stage = .ready ∧ t.mem = s.mem) ∧
  (∀ (s : State) (o : EngOp) (l : Loop) (n q cnt h d16 src : Nat) (rsv : Bool) (data : List Byte) (first : Option Nat),
    op? s o.id = some o → s.loops.find? (fun l => (car s l.cid).coach == o.coach) = some l →
    o.kind = .kvapp n q cnt h rsv d16 src data first →
    let past (x : Inst) : Prop := x.rejected = true ∨ x.committed = true ∨
      (∃ a ∈ x.appended, a.1 = n ∧ a.2.1 = q ∧ a.2.2 ≠ 0) ∨
      (x.reached = true ∧ ∀ y ∈ s.ops, x.cid ∈ y.homes → ∀ cnt h rsv d16 src data,
        y.kind ≠ .kvapp n q cnt h rsv d16 src data none)
    let due : Prop := o.stage = .held ∧ ∀ x ∈ l.insts, x.j < o.inst → past x
    (due → ∃ t, ∃ x ∈ t.ops, exec (.specKvappRelease o.id) s = .next t ∧ x.id = o.id ∧ x.stage = .issued ∧ t.mem = s.mem) ∧
    (¬due → exec (.specKvappRelease o.id) s = .next s))

/-- R236-R240, R276, R277: forks, frees, prefix lookups, attaches, inserts and removals end with the status of the test that
decided them; refused, they write nothing; a free waits until every append of its sequence has landed. What arrives after
a free that waits comes after it (R230), and an operation writes once its ORDER lets it (R208). That a page which a request
enters several times counts each time is log 108, that an attach opens a FREE sequence log 44, that a pool whose PPFX is 0 has
no entry, so that an insert answers FULL, log 46, and that a pool's world is the WORLD bit of its configuration log 50. -/
def Obligations.SequenceRequests : Prop :=
  (∀ (s : State) (o : EngOp) (n q d : Nat) (rsv : Bool), op? s o.id = some o → o.kind = .kvfork n q d rsv →
    let due : Prop := o.stage = .issued ∧ ready s (136 + poolMgr s n) = true ∧ kvTurn s o n = true
    let e := seqE s n q
    let f := seqE s n d
    let shared := pagesIn s e 0 (e.cur / 128)
    let copied := pagesIn s e (e.cur / 128) (ceilDiv e.cur 128)
    let sat := fullPages s n [] shared
    let need := sat.length + copied.length
    let ok : Prop := poolOk s n o.world = true ∧ seqReach s o.world e = true ∧ seqReach s o.world f = true
    let opens : Prop := e.opened = true ∧ f.opened = false
    let fits : Prop := ceilDiv e.cur 128 ≤ f.cap ∧ e.h = f.h
    let room : Prop := canTake s n need rsv = true
    let reached : Prop := metasTaken s n shared = true ∧ pagesTaken s n (sat ++ copied ++ freeList s n need) = true
    let ends (st : BitVec 8) (v : Nat) (same : Bool) : Prop := ∃ t, ∃ x ∈ t.ops, exec (.kvforkArrive o.id) s = .next t ∧
      x.id = o.id ∧ x.stage = .ready ∧ x.faultBit = o.faultBit ∧ x.midBits = st ∧ x.lowBits = BitVec.ofNat 40 v ∧
      (same = true → t.mem = s.mem)
    (¬due → exec (.kvforkArrive o.id) s = .next s) ∧
    (due → (¬ok → ends 7 0 true) ∧ (ok → ¬opens → ends 6 0 true) ∧ (ok → opens → ¬fits → ends 5 0 true) ∧
      (ok → opens → fits → ¬room → ends (if sat = [] then 3 else 4) 0 true) ∧
      (ok → opens → fits → room → ¬reached → ends 7 0 true) ∧
      (ok → opens → fits → room → reached → ends 0 e.cur false))) ∧
  (∀ (s : State) (o : EngOp) (n q : Nat), op? s o.id = some o → o.kind = .kvfree n q none →
    let due : Prop := o.stage = .issued ∧ ready s (136 + poolMgr s n) = true ∧ kvTurn s o n = true
    let e := seqE s n q
    let ok : Prop := o.started = true ∨ (poolOk s n o.world = true ∧ seqReach s o.world e = true)
    let ends (st : BitVec 8) (t : State) : Prop := exec (.kvfreeArrive o.id) s = .next t ∧
      ∃ x ∈ t.ops, x.id = o.id ∧ x.stage = .ready ∧ x.faultBit = o.faultBit ∧ x.midBits = st ∧
        (st = 7 ∨ e.opened = false → x.lowBits = 0 ∧ t.mem = s.mem)
    (¬due → exec (.kvfreeArrive o.id) s = .next s) ∧
    (due → (¬ok → ∃ t, ends 7 t) ∧
      (ok → freeReady s n q = false →
        exec (.kvfreeArrive o.id) s = .next (onOp s o.id (fun x => { x with started := true }))) ∧
      (ok → freeReady s n q = true → metasTaken s n (openPages s n q) = false → ∃ t, ends 7 t) ∧
      (ok → freeReady s n q = true → metasTaken s n (openPages s n q) = true →
        ∃ t, ends 0 t ∧ (e.opened = true → ∀ r ∈ t.ranges, r.pool ≠ n ∨ r.seq ≠ q)))) ∧
  (∀ (s : State) (o : EngOp) (n q : Nat) (k : DWord), op? s o.id = some o → o.kind = .kvfree n q (some k) →
    let due : Prop := o.stage = .issued ∧ pfxReady s n k = true ∧ ready s (136 + poolMgr s n) = true ∧ kvTurn s o n = true
    let ok : Prop := poolOk s n o.world = true ∧ pfxReach s o.world n k = true
    let ends (st : BitVec 8) (same : Bool) : Prop := ∃ t, ∃ x ∈ t.ops, exec (.kvfreeArrive o.id) s = .next t ∧
      x.id = o.id ∧ x.stage = .ready ∧ x.midBits = st ∧ (same = true → x.lowBits = 0 ∧ t.mem = s.mem)
    (¬due → exec (.kvfreeArrive o.id) s = .next s) ∧
    (due → (¬ok → ends 7 true) ∧ (ok → pfxFind s n k = none → ends 2 true) ∧
      (∀ y, ok → pfxFind s n k = some y →
        let reached := metasTaken s n (entryPages s n (bucketOf s n k) y)
        (reached = false → ends 7 true) ∧ (reached = true → ends 0 false)))) ∧
  (∀ (s : State) (o : EngOp) (n : Nat) (k : DWord) (dst : Nat), op? s o.id = some o → o.kind = .pfxf n k none dst →
    let ok : Prop := poolOk s n o.world = true ∧ pfxReach s o.world n k = true
    (o.stage ≠ .issued ∨ pfxReady s n k = false → exec (.pfxLookupArrive o.id) s = .next s) ∧
    (o.stage = .issued → pfxReady s n k = true →
      ∃ t, ∃ x ∈ t.ops, exec (.pfxLookupArrive o.id) s = .next t ∧ x.id = o.id ∧ x.stage = .ready ∧ t.mem = s.mem ∧
        (¬ok → x.midBits = 7) ∧ (ok → pfxFind s n k = none → x.midBits = 2 ∧ x.lowBits = 0 ∧ x.out = o.out) ∧
        (∀ y, ok → pfxFind s n k = some y →
          let ps := entryPages s n (bucketOf s n k) y
          x.midBits = 1 ∧ x.lowBits = BitVec.ofNat 40 ps.length ∧ x.out = [{ dest := .loc dst, bytes := listBytes ps }]))) ∧
  (∀ (s : State) (o : EngOp) (n q j : Nat) (k : DWord) (dst : Nat), op? s o.id = some o →
    o.kind = .pfxf n k (some (q, j)) dst →
    let due : Prop := o.stage = .issued ∧ pfxReady s n k = true ∧ ready s (136 + poolMgr s n) = true ∧ kvTurn s o n = true
    let ok : Prop := poolOk s n o.world = true ∧ pfxReach s o.world n k = true
    let e := seqE s n q
    let ends (st : BitVec 8) (v : Nat) (same : Bool) : Prop := ∃ t, ∃ x ∈ t.ops, exec (.pfxLookupArrive o.id) s = .next t ∧
      x.id = o.id ∧ x.stage = .ready ∧ x.midBits = st ∧ x.lowBits = BitVec.ofNat 40 v ∧ (same = true → t.mem = s.mem)
    (¬due → exec (.pfxLookupArrive o.id) s = .next s) ∧
    (due → (¬ok → ends 7 0 true) ∧ (ok → pfxFind s n k = none → ends 2 0 true) ∧
      (∀ y, ok → pfxFind s n k = some y → seqReach s o.world e = false → ends 7 0 true) ∧
      (∀ y, ok → pfxFind s n k = some y → seqReach s o.world e = true →
        let ps := entryPages s n (bucketOf s n k) y
        let sat := fullPages s n [] ps
        let old := if e.opened then pagesIn s e j (j + 1) else []
        let cur := if e.opened then e.cur else 0
        let fits : Prop := (j < cur / 128 ∨ (j = cur / 128 ∧ cur % 128 = 0)) ∧ j < e.cap ∧ ps.length = e.h
        let room : Prop := sat = [] ∨ canTake s n sat.length false = true
        let reached : Prop := metasTaken s n (ps ++ old) = true ∧ pagesTaken s n (sat ++ freeList s n sat.length) = true
        (¬fits → ends 5 ps.length true) ∧ (fits → ¬room → ends 4 ps.length true) ∧
          (fits → room → ¬reached → ends 7 0 true) ∧ (fits → room → reached → ends 1 ps.length false)))) ∧
  (∀ (s : State) (o : EngOp) (n : Nat) (k : DWord) (dst : Nat) (words : List Nat), op? s o.id = some o →
    o.kind = .pfxi n k dst words →
    let due : Prop := o.stage = .issued ∧ pfxReady s n k = true ∧ ready s (136 + poolMgr s n) = true ∧ kvTurn s o n = true
    let h := words.headD 0
    let ps := (words.drop 1).take h
    let ok : Prop := poolOk s n o.world = true ∧ pfxReach s o.world n k = true
    let listed : Prop := 1 ≤ h ∧ h ≤ 256 ∧ ∀ i ∈ ps, i < poolPages s n
    let ends (st : BitVec 8) (v : Nat) (out : List Chunk) (same : Bool) : Prop := ∃ t, ∃ x ∈ t.ops,
      exec (.pfxInsertArrive o.id) s = .next t ∧ x.id = o.id ∧ x.stage = .ready ∧ x.midBits = st ∧
        x.lowBits = BitVec.ofNat 40 v ∧ x.out = out ∧ (same = true → t.mem = s.mem)
    let room : Prop := pfxBase s n ≠ 0 ∧ ∃ y < 4, entryValid s n (bucketOf s n k) y = false
    (¬due → exec (.pfxInsertArrive o.id) s = .next s) ∧
    (due → (¬ok → ends 7 h o.out true) ∧ (ok → ¬listed → ends 11 h o.out true) ∧
      (∀ y, ok → listed → pfxFind s n k = some y →
        let win := entryPages s n (bucketOf s n k) y
        ends 8 win.length [{ dest := .loc dst, bytes := listBytes win }] true) ∧
      (ok → listed → pfxFind s n k = none → metasTaken s n ps = false → ends 7 h o.out true) ∧
      (ok → listed → pfxFind s n k = none → metasTaken s n ps = true →
        let sealed : Prop := ∀ i ∈ ps, (page s n i).sealed' = true
        (¬sealed → ends 9 h o.out true) ∧ (sealed → fullPages s n [] ps ≠ [] → ends 4 h o.out true) ∧
          (sealed → fullPages s n [] ps = [] → ¬room → ends 10 h o.out true) ∧
          (sealed → fullPages s n [] ps = [] → room → ends 0 h o.out false))))

/-! ## Conversions (09) -/

/-- A conversion of every active thread: the element at its place in v[d], or a pair for 64 bits; flags go to AST. -/
def CvtResult (mk : CvtI → Instr) (extra : CvtI → List Use) (f : CvtI → State → Nat → Nat × Flags) : Prop :=
  ∀ (i : CvtI) (s : State),
    let srcs := (i.h.a, elemRegs i.srcf) :: extra i ++ keepsOld i
    RunsV i.h ((i.h.d, elemRegs i.dstf) :: srcs) srcs s → MayWrite s i.h (elemRegs i.dstf) →
    (elemBits i.dstf.toNat ≠ 64 → ∃ t, exec (mk i) s = .next t ∧ pcOf t = pcOf s + 12 ∧ FpKept s t ∧
      WritesV s t i.h (fun tid => insElem i.dstf.toNat (dpos i.t) i.zx (rv s tid i.h.d.toNat) (f i s tid).1) ∧
      CollectsFlags s t i.h (fun tid => (f i s tid).2)) ∧
    (elemBits i.dstf.toNat = 64 → i.h.d.toNat < 1536 → ∃ t, exec (mk i) s = .next t ∧ pcOf t = pcOf s + 12 ∧ FpKept s t ∧
      WritesV64 s t i.h (fun tid => BitVec.ofNat 64 (f i s tid).1) ∧ CollectsFlags s t i.h (fun tid => (f i s tid).2))

/-- R160, R161, R163, R164: conversions between the formats, quantising and dequantising by a block word; a narrow result
fills its own bits and keeps the others, or clears them with ZX. -/
def Obligations.ConversionResults : Prop :=
  CvtResult .vcvtFf (fun _ => []) (fun i s tid =>
    convToCode i.dstf.toNat (rndMode s i.t.rnd) i.sat (decodeCode i.srcf.toNat (srcElem i s tid))) ∧
  CvtResult .vcvtFi (fun _ => []) (fun i s tid =>
    convToI (intFmt i.dstf.toNat).1 (intFmt i.dstf.toNat).2 (rndMode s i.t.rnd) i.sat
      (decodeCode i.srcf.toNat (srcElem i s tid))) ∧
  CvtResult .vcvtIf (fun _ => []) (fun i s tid =>
    convToCode i.dstf.toNat (rndMode s i.t.rnd) i.sat (intElem i.srcf.toNat (srcElem i s tid))) ∧
  CvtResult .vqnt (fun i => [(i.h.b, 1)]) (fun i s tid =>
    vqntOp i.dstf.toNat (rndMode s i.t.rnd) i.sat ((opV s i.h.b tid).extractLsb' 0 8).toNat
      ((opV s i.h.b tid).extractLsb' 8 8).toNat (decodeCode i.srcf.toNat (srcElem i s tid))) ∧
  CvtResult .vdqnt (fun i => [(i.h.b, 1)]) (fun i s tid =>
    vdqntOp i.srcf.toNat i.dstf.toNat (rndMode s i.t.rnd) i.sat ((opV s i.h.b tid).extractLsb' 0 8).toNat
      ((opV s i.h.b tid).extractLsb' 8 8).toNat (srcElem i s tid)) ∧
  (∀ (f pos code : Nat) (zx : Bool) (old : Word), elemBits f < 32 → elemBits f * (pos + 1) ≤ 32 → code < 2 ^ elemBits f →
    let x := insElem f pos zx old code
    (x.extractLsb' (elemBits f * pos) (elemBits f)).toNat = code ∧
    ∀ n < 32, n < elemBits f * pos ∨ elemBits f * (pos + 1) ≤ n → x.getLsbD n = (!zx && old.getLsbD n)) ∧
  (∀ (src dst : Nat) (mode : RMode) (sat : Bool) (sp code : Nat) (F : Fmt), src ≠ 6 → floatFmt dst = some F →
    vdqntOp src dst mode sat 0xFF sp code = (F.nanCode, 0))

/-! ## Matrix passes (06, 10) -/

/-- A pass instruction whose checks hold posts one pass with its tile, k length, region and the rows of its active
threads, and goes on at once: no s or v register, no tile and no byte changes; MMSS's handle is pending. Without active
threads nothing is posted, and MMRK counts as dropped. An idle quad grants the first of its waiting passes, at a held
priority: the one of highest effective priority, which rises by one in 4,096 cycles that the pass waits (R309); among equals
a pass over the B just granted to another instance of its window (20 R321; that it comes after the priority is the model's
reading, log 128), then the one posted first. A running pass with two k-steps or more to go leaves the array at a boundary
for a waiting one of higher priority, and otherwise runs on. A pass that has run its k-steps leaves the table, and MMSS's
handle is DONE. Where among the checks POISON stands is the model's choice (log 129). -/
def Obligations.MatrixPasses : Prop :=
  (∀ e ∈ [(Instr.mmaE4, fun _ => PassOp.e4), (.mmaE5, fun _ => .e5), (.mmaNx4, fun _ => .nx4), (.mmaBf16, fun _ => .bf16),
      (.mmaF16, fun _ => .f16), (.mmaF32, fun _ => .f32), (.mmaF64, fun _ => .f64),
      (.mmaI8, fun i : PassI => .i8 (i.low.getLsbD 1) (i.low.getLsbD 0)), (.mmspE4, fun _ => .spE4),
      (.mmspBf16, fun _ => .spBf16), (.mmssBf16, fun _ => .ssBf16), (.mmrkBf16, fun _ => .rk)],
    ∀ (i : PassI) (s : State) (w : TileWin) (ks : List (Nat × List (Nat × Nat))), s.apMode = false →
    PassReady s (e.2 i) i w ks →
    ∃ t, ∃ p ∈ t.passes, exec (e.1 i) s = .next t ∧ p.id = s.nextId ∧ p.op = e.2 i ∧ p.acc = i.h.d.toNat ∧
      p.kLen = tK (rt s i.h.b) ∧ p.gen = w.gen ∧ p.bOfs = tOfs (rt s i.h.b) ∧ p.zero = i.low.getLsbD 4 ∧ p.done = 0 ∧
      p.running = false ∧ p.posted = s.cyc ∧ p.prio = s.self.prio ∧ p.homes = homesActive (active s i.h) ∧
      p.rows.map (fun r => (r.home, r.row)) = (passRows s (active s i.h)).map (fun r => (r.2.2.1, r.2.2.2)) ∧
      t.self.pc = s.self.pc + 12 ∧ t.self.s = s.self.s ∧ t.mem = s.mem ∧ t.v = s.v ∧ t.accData = s.accData ∧
      (e.2 i = .ssBf16 → let h := (i.t.xmod.extractLsb' 0 4).toNat
        t.self.hDone.getLsbD h = false ∧ cget t.self.hTok h = p.tok)) ∧
  (∀ e ∈ [(Instr.mmaE4, PassOp.e4), (.mmaE5, .e5), (.mmaNx4, .nx4), (.mmaBf16, .bf16), (.mmaF16, .f16), (.mmaF32, .f32),
      (.mmaF64, .f64), (.mmspE4, .spE4), (.mmspBf16, .spBf16), (.mmssBf16, .ssBf16)],
    ∀ (i : PassI) (s : State), active s i.h = [] →
    rangeBad s ((if i.asrc = 0 then [(i.h.a, 1)] else []) ++ if passScaled e.2 then [(i.t.c, 1)] else []) = false →
    exec (e.1 i) s = .next (nextPc s)) ∧
  (∀ (i : PassI) (s : State), active s i.h = [] → rangeBad s (if i.asrc = 0 then [(i.h.a, 1)] else []) = false →
    exec (.mmaI8 i) s = .next (nextPc s)) ∧
  (∀ (i : PassI) (s : State), s.apMode = false → active s i.h = [] →
    rangeBad s (if i.asrc = 0 then [(i.h.a, 1)] else []) = false →
    ∃ t, exec (.mmrkBf16 i) s = .next t ∧ t.self = { s.self with pc := s.self.pc + 12 } ∧ t.passes = s.passes ∧ t.mem = s.mem ∧
      rsys t 0 1 (rkDropReg (quadOf s.self.core)) = rsys s 0 1 (rkDropReg (quadOf s.self.core)) + 1) ∧
  (∀ (s : State) (quad : Nat) (p : Pass) (rest : List Pass), runningPass s quad = none → waitingPasses s quad = p :: rest →
    ∃ t, ∃ q ∈ t.passes, exec (.passGrant quad) s = .next t ∧ q.id = p.id ∧ q.running = true ∧ q.held = passPrio s p ∧
      t.mem = s.mem ∧ t.accData = s.accData ∧
      (∀ x ∈ s.passes, x.id ≠ p.id → x.running = false → sameB s p x = true → { x with follow := true } ∈ t.passes)) ∧
  (∀ (s : State) (quad : Nat), runningPass s quad ≠ none ∨ waitingPasses s quad = [] → exec (.passGrant quad) s = .next s) ∧
  (∀ (s : State) (quad : Nat), runningPass s quad = none ∨ waitingPasses s quad = [] →
    exec (.passOvertake quad) s = .next s) ∧
  (∀ (s : State) (quad : Nat) (p w : Pass) (rest : List Pass), runningPass s quad = some p → waitingPasses s quad = w :: rest →
    let held := if guaranteed s p.coach then 8 else p.held
    (held < passPrio s w → p.done + 2 ≤ stepCount p →
      ∃ t, exec (.passOvertake quad) s = .next t ∧ (∀ q ∈ t.passes, q.id = p.id → q.running = false) ∧ t.mem = s.mem ∧
        (p.op ≠ .ssBf16 → (∀ q ∈ s.passes, q.id = p.id → q = p) →
          ∃ q ∈ t.passes, q.id = p.id ∧ p.done < q.done ∧ q.done < stepCount p)) ∧
    (passPrio s w ≤ held ∨ stepCount p < p.done + 2 → exec (.passOvertake quad) s = .next s)) ∧
  (∀ (s : State) (quad : Nat), runningPass s quad = none → exec (.passWriteback quad) s = .next s) ∧
  (∀ (s : State) (quad : Nat) (p : Pass), runningPass s quad = some p → (∀ q ∈ s.passes, q.id = p.id → q = p) →
    ∃ t, exec (.passWriteback quad) s = .next t ∧ (∀ q ∈ t.passes, q.id ≠ p.id) ∧ t.mem = s.mem ∧ t.v = s.v ∧
      (p.op = .ssBf16 → s.self.id ≠ 0 → p.tok ≠ 0 → cget s.self.hTok (tokH p.tok) = p.tok →
        cget s.self.hOp (tokH p.tok) = BitVec.ofNat 64 p.id → t.self.hDone.getLsbD (tokH p.tok) = true)) ∧
  (∀ (s : State) (p : Pass), passPrio s p =
    if guaranteed s p.coach then 8 else min 7 (p.prio + (s.cyc - p.posted - p.ran) / 4096)) ∧
  (∀ (s : State) (a b : Pass),
    (passPrio s a ≠ passPrio s b → (passFirst s a b = true ↔ passPrio s b < passPrio s a)) ∧
    (passPrio s a = passPrio s b → a.follow ≠ b.follow → passFirst s a b = a.follow) ∧
    (passPrio s a = passPrio s b → a.follow = b.follow → a.posted ≠ b.posted →
      (passFirst s a b = true ↔ a.posted < b.posted))) ∧
  (∀ (s : State) (quad : Nat) (p : Pass), p ∈ s.passes → p.quad = quad → p.running = false →
    ∃ w rest, waitingPasses s quad = w :: rest ∧ passPrio s p ≤ passPrio s w)

/-! ## Accumulators and ranked lists (02, 07, 10) -/

/-- ACCDEF lays a bound tile out as its immediate says, every element 0 and every list empty; ACCSTAT reads the state
word or a length and can clear the flags; TDESC makes the tile handles and reads their halves, and raises TILE_RANGE for
a field out of range and TILE_INVALID where it reads an invalid one. ACCLD goes on with the rows of the active threads
filled from the image, or with an outstanding load that will fill them where an access stands before it; ACCST goes on
as one outstanding store that changes no byte outside its image, and where no access stands before it the image holds every
row it moves, drained in the image's format, or every list with its length. Which home carriage ACCDEF and ACCSTAT of a path
mean is log 20; that an image moves as one where nothing stands before it is log 19. -/
def Obligations.AccumulatorsAndImages : Prop :=
  (∀ (i : RriI) (s : State),
    let a := i.h.d.toNat
    let h := accHome s
    let f64 := !i.imm.getLsbD 0 && field i.imm 1 2 == 2
    RunsS i.h [] s → inRegion s.self = false → accUnbound s h a = false → (f64 = true → pairFits s h a = true) →
    passOn s [h] (accSpan s h a ++ if f64 then [a + 1] else []) = false →
    ∃ t, exec (.accdef i) s = .next t ∧ pcOf t = pcOf s + 12 ∧
      (accWord t h a).extractLsb' 0 11 = i.imm.extractLsb' 0 11 ∧ (accWord t h a).extractLsb' 16 5 = 0 ∧
      (accWord t h a).extractLsb' 24 6 = (accWord s h a).extractLsb' 24 6 ∧
      (f64 = true → accPaired (accWord t h (a + 1)) = true) ∧
      (∀ m < 128, ∀ n < 128, sumGet t h a f64 m n = 0 ∧ lenOf t h a m = 0) ∧
      (∀ h' a', accKey h' a' ≠ accKey h a → accKey h' a' ≠ accKey h (a + 1) → accWord t h' a' = accWord s h' a') ∧
      t.mem = s.mem ∧ t.v = s.v ∧ (∀ n, rsN t n = rsN s n)) ∧
  (∀ (i : RrrI) (s : State),
    let a := i.h.a.toNat
    let h := accHome s
    let w := accWord s h a
    RunsS i.h (if i.mod.getLsbD 1 then [i.h.b] else []) s → accUnbound s h a = false →
    (i.mod.getLsbD 1 = true → accRank w = true) → passOn s [h] (accSpan s h a) = false →
    ∃ t, exec (.accstat i) s = .next t ∧ pcOf t = pcOf s + 12 ∧
      (∀ n, rsN t n = if n = sNum i.h.d ∧ n ≠ 0 then
        (if i.mod.getLsbD 1 then BitVec.ofNat 64 (lenOf s h a ((rs s i.h.b).extractLsb' 0 7).toNat) else w) else rsN s n) ∧
      accWord t h a = (if i.mod.getLsbD 0 then w &&& ~~~aFlags else w) ∧ t.accData = s.accData ∧ t.mem = s.mem) ∧
  (∀ (i : RrrI) (s : State) (x : BitVec 128),
    (field i.mod 0 2 = 0 → RunsS i.h [i.h.a, i.h.b] s → mkTilemem (rs s i.h.a) (rs s i.h.b) = some x →
      exec (.tdesc i) s = .next (nextPc (wt s i.h.d x))) ∧
    (field i.mod 0 2 = 1 → RunsS i.h [i.h.a, i.h.b] s → mkTensorT (rs s i.h.a) (rs s i.h.b) = some x →
      exec (.tdesc i) s = .next (nextPc (wt s i.h.d x))) ∧
    (field i.mod 0 2 = 2 → RunsS i.h [] s → exec (.tdesc i) s = .next (nextPc (wt s i.h.d 0))) ∧
    (field i.mod 0 2 = 3 → RunsS i.h [] s → tKind (rt s i.h.a) ≠ .invalid → exec (.tdesc i) s =
      .next (nextPc (ws s i.h.d ((rt s i.h.a).extractLsb' (if i.mod.getLsbD 2 then 64 else 0) 64)))) ∧
    (Traps s →
      (field i.mod 0 2 = 3 → RunsS i.h [] s → tKind (rt s i.h.a) = .invalid →
        ∃ t, exec (.tdesc i) s = .next t ∧ Trapped s t .tileInvalid s.self.pc 0 0 ∧ TrapKept s t) ∧
      (RunsS i.h [i.h.a, i.h.b] s → (field i.mod 0 2 = 0 ∧ mkTilemem (rs s i.h.a) (rs s i.h.b) = none) ∨
          (field i.mod 0 2 = 1 ∧ mkTensorT (rs s i.h.a) (rs s i.h.b) = none) →
        ∃ t, exec (.tdesc i) s = .next t ∧ Trapped s t .tileRange s.self.pc 0 0 ∧ TrapKept s t))) ∧
  (∀ (a b : DWord) (x : BitVec 128), mkTilemem a b = some x → tKind x = .tilemem ∧ tOfs x = (a.extractLsb' 0 16).toNat ∧
    tK x = (a.extractLsb' 16 32).toNat ∧ tFmt x = (b.extractLsb' 0 4).toNat ∧ tLayout x = (b.extractLsb' 4 2).toNat) ∧
  (∀ (a b : DWord) (x : BitVec 128), mkTensorT a b = some x → tKind x = .tensor ∧ tDaddr x = a.toNat ∧
    tRowo x = (b.extractLsb' 0 32).toNat ∧ tColb x = (b.extractLsb' 32 12).toNat) ∧
  (∀ (i : MemI) (s : State), ImageReady s i false →
    let rows := movedRows s (active s i.h) i.h.d.toNat
    ∃ t, exec (.accld i) s = .next t ∧ pcOf t = pcOf s + 12 ∧ (∀ a, mget t a = mget s a) ∧ t.v = s.v ∧
      (∀ n, rsN t n = rsN s n) ∧ t.stores = s.stores ∧
      (¬ImageNow s i (.load .img true) → t.accData = s.accData ∧ ∃ l ∈ t.loads, l.id = s.nextId ∧ l.homes = homesOf s.self ∧
        l.img = some { merge := false, acc := i.h.d.toNat, rows := rows, key := locKey s (imgSpace i) 0 (imgAddr s i) }) ∧
      (ImageNow s i (.load .img true) → t.loads = s.loads ∧
        ((∀ h ∈ homesActive (active s i.h), accRank (accWord s h i.h.d.toNat) = false ∧ accF64 (accWord s h i.h.d.toNat) = false) →
          ∀ r ∈ rows, r.2 < 128 → ∀ n < 128, sumGet t r.1 i.h.d.toNat false r.2 n =
            leAt (imgBytes s (locKeys s (imgSpace i) 0 (imgAddr s i + 512 * r.2) 512)) (4 * n) 4))) ∧
  (∀ (i : MemI) (s : State), ImageReady s i true →
    ∃ t, exec (.accst i) s = .next t ∧ pcOf t = pcOf s + 12 ∧ t.v = s.v ∧ t.accData = s.accData ∧ t.loads = s.loads ∧
      (∀ n, rsN t n = rsN s n) ∧ (∀ a, a ∉ imageKeys s i → mget t a = mget s a) ∧
      (∃ n, t.stores = s.stores ++ [{ id := n, homes := homesOf s.self }]) ∧
      (ImageNow s i (.store [] false) → isInstance s (homesOf s.self) = false →
        (∀ r ∈ movedRows s (active s i.h) i.h.d.toNat, r.2 < 128) →
        ∀ r ∈ movedRows s (active s i.h) i.h.d.toNat, ∀ f, drainFmt (accWord s r.1 i.h.d.toNat) (field i.mod 7 3) = some f →
          ∀ p ∈ (drainRow s i.h.d.toNat f (i.mod.getLsbD 6) r).1,
            (locKeys s (imgSpace i) 0 (imgAddr s i + p.1) p.2.length).map (mget t) = p.2)) ∧
  (∀ (s : State) (a h m : Nat) (f : DrainFmt) (sat : Bool),
    (accRank (accWord s h a) = false → (drainRow s a f sat (h, m)).1 = [(128 * f.elem * m, (span 0 128).flatMap (fun n =>
      leBytes f.elem (drainElem (accWord s h a) f sat (sumGet s h a (accF64 (accWord s h a)) m n)).1))]) ∧
    (accRank (accWord s h a) = true → (drainRow s a f sat (h, m)).1 =
      [(512 * m, (span 0 64).flatMap (fun j =>
        let e := if j < lenOf s h a m then entryAt s h a m j else (0xFF800000#32, 0xFFFFFFFF#32)
        bitsLe 4 e.1 ++ bitsLe 4 e.2)), (65536 + m, [BitVec.ofNat 8 (lenOf s h a m)])])) ∧
  (∀ (w : DWord) (f : DrainFmt) (sat : Bool) (x : Nat), (f.code = none → drainElem w f sat x = (x, 0)) ∧
    (f.code = some 8 → (drainElem w f sat x).1 = if -128 ≤ (BitVec.ofNat 32 x).toInt ∧ (BitVec.ofNat 32 x).toInt ≤ 127 then x % 256
      else if sat then (clampI false 8 (BitVec.ofNat 32 x).toInt).toNat else x % 256))

/-- RKINS and RKMRG.REG offer each thread's values to its list under the tile's bound; RKMRG.ACC goes on with another tile's
lists offered; RKMRG.SHM and .SCR go on with the lists of an image offered, or with an outstanding load that will offer
them where an access stands before it. RKTHR reads the threshold or the length, RKOUT the entries and with its CLR bit
empties the list; none of them changes a byte of memory. An offer puts an entry, its value −0 as +0, before the first that
ranks below it and drops what stands beyond the bound: an entry that ranks above the last of a full list is in it after. A NaN
is discarded and raises DISC; a list that was in order stays in order. A poisoned list raises POISON (R367, R383). -/
def Obligations.RankedLists : Prop :=
  (∀ (i : PassI) (s : State), SlotsDistinct s → RankReady s i i.h.d.toNat (rkJ i) [(i.h.a, 1), (i.h.b, 1), (i.t.c, 1)]
      ([(i.h.a, 1), (i.h.b, 1)] ++ rkinsC i s) →
    (∀ h ∈ homesActive (active s i.h), accCol (accWord s h i.h.d.toNat) = false) → i.t.c = 0 →
    (∀ st ∈ active s i.h, ownList s st.2 (rkJ i) < 128 ∧ listBad s (homeCar st.2) i.h.d.toNat (ownList s st.2 (rkJ i)) = false) →
    ∃ t, exec (.rkins i) s = .next t ∧ pcOf t = pcOf s + 12 ∧ t.mem = s.mem ∧ t.v = s.v ∧ (∀ n, rsN t n = rsN s n) ∧
      ∀ st ∈ active s i.h,
        let h := homeCar st.2
        let li := ownList s st.2 (rkJ i)
        let k := accK (accWord s h i.h.d.toNat)
        i.h.d.toNat < 32 → k ≤ 64 → lenOf s h i.h.d.toNat li ≤ k → listOf t h i.h.d.toNat li =
          offerTo k (listOf s h i.h.d.toNat li) (opV s i.h.a st.2, opV s i.h.b st.2)) ∧
  (∀ (i : PassI) (s : State), RankReady s i i.h.d.toNat (rkJ i) [(i.h.a, 1), (i.h.b, 1), (i.t.c, 1)]
      ([(i.h.a, 1), (i.h.b, 1)] ++ rkinsC i s) →
    ((∃ h ∈ homesActive (active s i.h), accCol (accWord s h i.h.d.toNat) = false) → i.t.c = 0) →
    ((∃ h ∈ homesActive (active s i.h), accCol (accWord s h i.h.d.toNat) = true) → rkJ i = 0) →
    let list (tid : Nat) : Nat := if accCol (accWord s (homeCar tid) i.h.d.toNat) then ((opV s i.t.c tid).extractLsb' 0 7).toNat
      else ownList s tid (rkJ i)
    ((∀ st ∈ active s i.h, listBad s (homeCar st.2) i.h.d.toNat (list st.2) = false) →
      ∃ t, exec (.rkins i) s = .next t ∧ pcOf t = pcOf s + 12 ∧ t.mem = s.mem ∧ t.v = s.v ∧ (∀ n, rsN t n = rsN s n) ∧
        (i.h.d.toNat < 32 → (∀ st ∈ active s i.h, list st.2 < 128) → ∀ h li, li < 128 →
          let k := accK (accWord s h i.h.d.toNat)
          let es := ((active s i.h).filter (fun st => homeCar st.2 == h && list st.2 == li)).map (fun st =>
            (opV s i.h.a st.2, opV s i.h.b st.2))
          k ≤ 64 → lenOf s h i.h.d.toNat li ≤ k →
          listOf t h i.h.d.toNat li = es.foldl (offerTo k) (listOf s h i.h.d.toNat li) ∧
          ((∃ e ∈ es, isNanW e.1 = true) → (accWord t h i.h.d.toNat).getLsbD 20 = true))) ∧
    (Traps s → (∃ st ∈ active s i.h, listBad s (homeCar st.2) i.h.d.toNat (list st.2) = true) →
      ∃ t, exec (.rkins i) s = .next t ∧ Trapped s t .poison s.self.pc 0 0 ∧ TrapKept s t)) ∧
  (∀ (i : PassI) (s : State), SlotsDistinct s → mrgSrc i = 0 → RankReady s i i.h.d.toNat (mrgJ i) [(i.h.a, 1)] [] →
    (∀ st ∈ active s i.h, i.h.a.toNat + 2 * regLen s i st.2 < s.self.nreg ∧
      (∀ n ∈ span i.h.a.toNat (1 + 2 * regLen s i st.2), vBad s st.2 n = false) ∧ ownList s st.2 (mrgJ i) < 128 ∧
      listBad s (homeCar st.2) i.h.d.toNat (ownList s st.2 (mrgJ i)) = false) →
    ∃ t, exec (.rkmrg i) s = .next t ∧ pcOf t = pcOf s + 12 ∧ t.mem = s.mem ∧ t.v = s.v ∧ ∀ st ∈ active s i.h,
      let h := homeCar st.2
      let li := ownList s st.2 (mrgJ i)
      let k := accK (accWord s h i.h.d.toNat)
      i.h.d.toNat < 32 → k ≤ 64 → lenOf s h i.h.d.toNat li ≤ k →
        listOf t h i.h.d.toNat li = (regEntries s i st.2).foldl (offerTo k) (listOf s h i.h.d.toNat li)) ∧
  (∀ (i : PassI) (s : State), mrgSrc i = 3 → RankReady s i i.h.d.toNat 0 [] [] →
    rankNames s (active s i.h) i.h.a.toNat = none → passOn s (homesActive (active s i.h)) [i.h.a.toNat] = false →
    let rows := movedRows s (active s i.h) i.h.d.toNat
    (∀ r ∈ rows, listBad s r.1 i.h.a.toNat r.2 = false ∧ listBad s r.1 i.h.d.toNat r.2 = false) →
    ∃ t, exec (.rkmrg i) s = .next t ∧ pcOf t = pcOf s + 12 ∧ t.mem = s.mem ∧ t.v = s.v ∧
      (i.h.d.toNat < 32 → rows.Nodup → (∀ r ∈ rows, r.2 < 128) → ∀ r ∈ rows,
        let k := accK (accWord s r.1 i.h.d.toNat)
        k ≤ 64 → lenOf s r.1 i.h.d.toNat r.2 ≤ k → listOf t r.1 i.h.d.toNat r.2 =
          (listOf s r.1 i.h.a.toNat r.2).foldl (offerTo k) (listOf s r.1 i.h.d.toNat r.2))) ∧
  (∀ (i : PassI) (s : State), mrgSrc i = 1 ∨ mrgSrc i = 2 → RankReady s i i.h.d.toNat 0 [] [(i.h.a, 1)] →
    let sp : LocSpace := if mrgSrc i = 2 then .scr else .shm
    let x := (rs s i.h.a).toNat
    let rows := movedRows s (active s i.h) i.h.d.toNat
    let places := rows.flatMap (fun r => [(512 * r.2, 512), (65536 + r.2, 1)])
    let all := newAcc s sp s.nextId { order := 0, scope := 0, evict := 0 } 0
      (places.flatMap (fun p => locKeys s sp 0 (x + p.1) p.2)) (.load .img true)
    placesOk s sp x places = true → x % 64 = 0 → (∀ r ∈ rows, listBad s r.1 i.h.d.toNat r.2 = false) →
    ∃ t, exec (.rkmrg i) s = .next t ∧ pcOf t = pcOf s + 12 ∧ (∀ a, mget t a = mget s a) ∧ t.v = s.v ∧
      (imgPrompt s all = true → t.loads = s.loads ∧
        (i.h.d.toNat < 32 → rows.Nodup → (∀ r ∈ rows, r.2 < 128) → ∀ r ∈ rows,
          let k := accK (accWord s r.1 i.h.d.toNat)
          let at' (o n : Nat) : List Byte := imgBytes s (locKeys s sp 0 (x + o) n)
          k ≤ 64 → lenOf s r.1 i.h.d.toNat r.2 ≤ k → listOf t r.1 i.h.d.toNat r.2 =
            (entriesOf (at' (512 * r.2) 512) (leNat (at' (65536 + r.2) 1))).foldl (offerTo k) (listOf s r.1 i.h.d.toNat r.2))) ∧
      (imgPrompt s all = false → t.accData = s.accData ∧ ∃ l ∈ t.loads, l.id = s.nextId ∧ l.homes = homesOf s.self ∧
        l.img = some { merge := true, acc := i.h.d.toNat, rows := rows, key := locKey s sp 0 x })) ∧
  (∀ (i : PassI) (s : State),
    let li (tid : Nat) : Nat := ownList s tid (rkJ i)
    RankReady s i i.h.a.toNat (rkJ i) [(i.h.d, 1)] [] → MayWrite s i.h 1 →
    (i.low.getLsbD 2 = false → ∀ st ∈ active s i.h, listBad s (homeCar st.2) i.h.a.toNat (li st.2) = false) →
    ∃ t, exec (.rkthr i) s = .next t ∧ pcOf t = pcOf s + 12 ∧ VecKept s t ∧ WritesV s t i.h (fun tid =>
      if i.low.getLsbD 2 then BitVec.ofNat 32 (lenOf s (homeCar tid) i.h.a.toNat (li tid))
      else (thresholdOf s (homeCar tid) i.h.a.toNat (li tid)).1.1)) ∧
  (∀ (i : PassI) (s : State),
    let r := outRange (rs s i.h.b)
    let a := i.h.a.toNat
    RankReady s i a (rkJ i) [(i.h.d, 1)] [(i.h.b, 1)] →
    (r.2 = 0 → exec (.rkout i) s = .next (nextPc s)) ∧
    (r.2 ≠ 0 → i.h.d.toNat + 2 * r.2 ≤ s.self.nreg → s.self.nreg ≤ 1536 → MayWrite s i.h (2 * r.2) →
      (∀ st ∈ active s i.h, listBad s (homeCar st.2) a (ownList s st.2 (rkJ i)) = false) →
      ∃ t, exec (.rkout i) s = .next t ∧ pcOf t = pcOf s + 12 ∧ t.mem = s.mem ∧ ∀ st ∈ active s i.h, ∀ n < r.2,
        let e := outEntry s (homeCar st.2) a (ownList s st.2 (rkJ i)) (r.1 + n)
        rv t st.2 (i.h.d.toNat + 2 * n) = e.1 ∧ rv t st.2 (i.h.d.toNat + 2 * n + 1) = e.2 ∧
        (i.low.getLsbD 2 = true → lenOf t (homeCar st.2) a (ownList s st.2 (rkJ i)) = 0))) ∧
  (∀ (k : Nat) (l : List Entry) (e : Entry), isNanW e.1 = true → offerTo k l e = l) ∧
  (∀ (bs : List Byte) (n j : Nat), j < min n 64 → (entriesOf bs n)[j]? =
    some (BitVec.ofNat 32 (leAt bs (8 * j) 4), BitVec.ofNat 32 (leAt bs (8 * j + 4) 4))) ∧
  (∀ (k : Nat) (l : List Entry) (e : Entry), isNanW e.1 = false →
    let e' : Entry := (if e.1 = 0x80000000#32 then 0 else e.1, e.2)
    (∀ x ∈ offerTo k l e, x = e' ∨ x ∈ l) ∧
    (l.length < k ∨ (∃ x, (l.take k)[k - 1]? = some x ∧ rankLess x e' = true) → e' ∈ offerTo k l e) ∧
    (offerTo k l e).length = min k (l.length + 1) ∧
    ((∀ x ∈ l, isNanW x.1 = false) → l.Pairwise (fun x y => rankLess x y = false) →
      (offerTo k l e).Pairwise (fun x y => rankLess x y = false)))

/-! ## System registers, the monitor, TLBI and HALTC (25) -/

/-- SYSRD reads and SYSWR writes the register of X = (s[a] + IMM) mod 2^32 where the mode reaches it, once every earlier
access of the carriage is performed, its operations' included, as by a FENCE.SC at PKG (R390, R204); a misaligned or
unassigned X, whose TADDR is X (log 81), and a register out of reach trap. User mode reads its own core's
registers and READY and writes RCONS alone; a handler reaches no other core; nobody writes the isolation block, and only
the S world reads it. TRES, TVEC, PRLID, PRBASE, RBASE, RSIZE and RCONS take what is written; QBASE of an enabled queue,
QHEAD, READY and SPTB keep their values. -/
def Obligations.SystemRegisterAccess : Prop :=
  (∀ (i : RriI) (s : State), sysAddr s i = ((rs s i.h.a).setWidth 32 + i.imm : Word).toNat) ∧
  (∀ (i : RriI) (s : State) (r : RegRef), RunsS i.h [i.h.a] s → sysAddr s i % 8 = 0 → regRef (sysAddr s i) = some r →
    mayReach s (selfAccessor s) false r = true → anyOpen s 5 = false →
    ∃ t, exec (.sysrd i) s = .next t ∧ pcOf t = pcOf s + 12 ∧ t.sysr = s.sysr ∧ t.mem = s.mem ∧ t.v = s.v ∧ SelfKept s t ∧
      (∀ n, rsN t n = if n = sNum i.h.d ∧ n ≠ 0 then readReg s s.self s.self.world r else rsN s n) ∧ ∀ n, rk t n = rk s n) ∧
  (∀ (i : RriI) (s : State) (r : RegRef), RunsS i.h [i.h.a, i.h.b] s → sysAddr s i % 8 = 0 → regRef (sysAddr s i) = some r →
    mayReach s (selfAccessor s) true r = true → anyOpen s 5 = false →
    exec (.syswr i) s = .next (nextPc (writeReg s (selfAccessor s) r (rs s i.h.b)))) ∧
  (∀ mw ∈ [(Instr.sysrd, false), (.syswr, true)], ∀ (i : RriI) (s : State) (r : RegRef), RunsS i.h [i.h.a, i.h.b] s →
    sysAddr s i % 8 = 0 → regRef (sysAddr s i) = some r → mayReach s (selfAccessor s) mw.2 r = true → anyOpen s 5 = true →
    exec (mw.1 i) s = .next s) ∧
  (∀ mw ∈ [(Instr.sysrd, false), (.syswr, true)], ∀ (i : RriI) (s : State), RunsS i.h [i.h.a, i.h.b] s → Traps s →
    (sysAddr s i % 8 ≠ 0 → ∃ t, exec (mw.1 i) s = .next t ∧
      Trapped s t .addrAlign s.self.pc (BitVec.ofNat 64 (sysAddr s i)) 0 ∧ TrapKept s t) ∧
    (sysAddr s i % 8 = 0 → regRef (sysAddr s i) = none → ∃ t, exec (mw.1 i) s = .next t ∧
      Trapped s t .illegalOperand s.self.pc (BitVec.ofNat 64 (sysAddr s i)) 0 ∧ TrapKept s t) ∧
    (sysAddr s i % 8 = 0 → ∀ r, regRef (sysAddr s i) = some r → mayReach s (selfAccessor s) mw.2 r = false →
      ∃ t, exec (mw.1 i) s = .next t ∧ Trapped s t .privilege s.self.pc 0 0 ∧ TrapKept s t)) ∧
  (∀ (s : State) (a : Accessor) (w : Bool) (r : RegRef), a.who = .user → (mayReach s a w r = true ↔
    (∃ o, r = .core a.core o ∧ (w = false ∨ (o < 0x400 ∧ o % 0x40 = 0x18))) ∨ ∃ o, r = .pkg o ∧ w = false ∧ o < 0x20)) ∧
  (∀ (s : State) (a : Accessor) (o : Nat), mayReach s a true (.iso o) = false ∧
    (a.world = false → mayReach s a false (.iso o) = false)) ∧
  (∀ (s : State) (a : Accessor) (k o : Nat), a.who = .handler →
    ∀ w, (mayReach s a w (.core k o) = true ↔ k = a.core)) ∧
  (∀ (s : State) (a : Accessor) (x : DWord),
    (writeReg s a (.trap 2) x).self = { s.self with trap := { s.self.trap with tres := x } } ∧
    (∀ o, o = 0 ∨ o = 0x2010 ∨ o = 0x2018 → rsys (writeReg s a (.world o) x) (wIdx a.world) 4 o = x) ∧
    (∀ k o, o < 0x400 → o % 0x40 = 0 ∨ o % 0x40 = 8 ∨ o % 0x40 = 0x18 → rcore (writeReg s a (.core k o) x) k o = x) ∧
    (∀ k o, o < 0x400 → o % 0x40 = 0x10 ∨ o % 0x40 = 0x20 → writeReg s a (.core k o) x = s) ∧
    (∀ q, qEn s a.world q = true → writeReg s a (.queue q 0) x = s) ∧ (∀ q, writeReg s a (.queue q 0x10) x = s) ∧
    (∀ o, o < 0x20 → writeReg s a (.pkg o) x = s) ∧ writeReg s a (.world 8) x = s)

/-- In handler mode MONC waits for the earlier accesses of its carriage, its operations' included, and for the monitor (R392),
and then takes its reply and effect: the version, a quad's world, the splits, the region register that its block names, SPTB.
TLBI goes on once those accesses are performed, in two turns: the entries of its kind go, and it completes when every
operation that may have used one has finished (R361): a cart or a collective of the world and space, and a copy whose bytes
meet the page. HALTC halts or releases a carriage of its coach, or reads DBGSTAT. Outside handler mode all
three raise PRIVILEGE. -/
def Obligations.MonitorTlbiHalt : Prop :=
  (∀ (i : RriI) (s : State), RunsS i.h [i.h.a] s → s.self.handler = true →
    (anyOpen s 5 = true ∨ ready s 160 = false → exec (.monc i) s = .next s) ∧
    (anyOpen s 5 = false → ready s 160 = true →
      (field i.imm 0 16 = 3 → (rs s i.h.a).toNat % 16 = 0 → (rs s i.h.a).toNat + 16 ≤ shmSize s s.self.coach →
        imgBlocked s (locKeys s .shm 0 (rs s i.h.a).toNat 16) = false) →
      let r := moncRun s (field i.imm 0 16) (rs s i.h.a)
      exec (.monc i) s = .next (nextPc (ws r.2 i.h.d r.1)))) ∧
  (∀ (s : State) (fn : Nat) (a : DWord),
    (fn = 0 → (moncRun s fn a).1.extractLsb' 0 32 = 0 ∧ (moncRun s fn a).2 = s) ∧
    (4 < fn → moncRun s fn a = (4, s)) ∧
    (0 < fn → fn ≤ 4 → Config.monitorGrants fn a = false → moncRun s fn a = (1, s)) ∧
    (fn = 1 → Config.monitorGrants fn a = true →
      let q := (a.extractLsb' 0 5).toNat
      (quadIdle s q = false → moncRun s fn a = (2, s)) ∧
      (quadIdle s q = true → (moncRun s fn a).1 = 0 ∧ (∀ n, (rsys (moncRun s fn a).2 0 5 0).getLsbD n =
        if n = q then a.getLsbD 8 else (rsys s 0 5 0).getLsbD n) ∧ (moncRun s fn a).2.self = s.self ∧
        ∀ x, x / 2 ^ 48 % 8 ≠ spaceTag .shm → x / 2 ^ 48 % 8 ≠ spaceTag .tile → mget (moncRun s fn a).2 x = mget s x)) ∧
    (fn = 2 → Config.monitorGrants fn a = true →
      let s0 := (a.extractLsb' 4 8).toNat
      let s1 := (a.extractLsb' 12 8).toNat
      let busy := scsBusy s 0 s0 || scsBusy s 1 s1 || ctsBusy s (a.extractLsb' 0 4).toNat
      (24 < s0 ∨ 24 < s1 → moncRun s fn a = (3, s)) ∧
      (s0 ≤ 24 → s1 ≤ 24 → busy = true → moncRun s fn a = (2, s)) ∧
      (s0 ≤ 24 → s1 ≤ 24 → busy = false → (moncRun s fn a).1 = 0 ∧
        rsys (moncRun s fn a).2 0 5 0x018 = BitVec.ofNat 64 ((a.extractLsb' 0 4).toNat + s0 * 2 ^ 4 + s1 * 2 ^ 12) ∧
        (moncRun s fn a).2.self = s.self)) ∧
    (fn = 3 → Config.monitorGrants fn a = true → a.toNat % 16 ≠ 0 ∨ shmSize s s.self.coach < a.toNat + 16 →
      moncRun s fn a = (3, s)) ∧
    (fn = 3 → Config.monitorGrants fn a = true → a.toNat % 16 = 0 → a.toNat + 16 ≤ shmSize s s.self.coach →
      let bs := imgBytes s (locKeys s .shm 0 a.toNat 16)
      let w := leAt bs 0 8
      let reg := 0x1000 + 0x200 * (w % 8) + 8 * (w / 256 % 64)
      (moncRun s fn a).1 = 0 ∧ (moncRun s fn a).2.mem = s.mem ∧ (s.self.world = false → (moncRun s fn a).2 = s) ∧
        (s.self.world = true →
          rsys (moncRun s fn a).2 0 5 reg = BitVec.ofNat 64 (leAt bs 8 8) &&& 0xC00FFFFF000FFFFF#64 ∧
          ∀ o < 2 ^ 24, o ≠ reg → rsys (moncRun s fn a).2 0 5 o = rsys s 0 5 o)) ∧
    (fn = 4 → Config.monitorGrants fn a = true → (moncRun s fn a).1 = 0 ∧
      rsys (moncRun s fn a).2 (wIdx s.self.world) 4 8 = a ∧
      rsys (moncRun s fn a).2 (wIdx (!s.self.world)) 4 8 = rsys s (wIdx (!s.self.world)) 4 8)) ∧
  (∀ (i : RrrI) (s : State), RunsS i.h (tlbiSrcs i) s → s.self.handler = true →
    (anyOpen s 5 = true → exec (.tlbi i) s = .next s) ∧
    (anyOpen s 5 = false → exec (.tlbi i) s = .next { s with self := { s.self with
      wait := .tlbi none (field i.mod 0 3) (i.mod.getLsbD 3) (rs s i.h.a) ((rs s i.h.b).setWidth 16) } })) ∧
  (∀ (s : State) (kind : Nat) (fab : Bool) (va : DWord) (space : BitVec 16), s.self.id ≠ 0 →
    s.self.wait = .tlbi none kind fab va space →
    ∃ t, exec (.tlbiComplete s.self.id) s = .next t ∧ t.mem = s.mem ∧ t.v = s.v ∧
      t.tlb = s.tlb.filter (fun e => !tlbiHits fab kind s.self.world space va e) ∧
      t.self = { s.self with wait := .tlbi (some (tlbiUsers s fab kind s.self.world space va)) kind fab va space }) ∧
  (∀ (s : State) (fab : Bool) (kind : Nat) (world : Bool) (space : BitVec 16) (va : DWord) (o : EngOp), o ∈ s.ops →
    o.world = world → kind = 2 ∨ o.space = space → o.stage = .issued ∨ o.stage = .ready →
    (∃ c, o.kind = .cart c) ∨ (∃ a n, o.kind = .coll a n) ∨ (∃ src dst, o.kind = .copy src dst ∧
      (kind ≠ 0 ∨ ∃ r ∈ globReads o ++ globWrites o, r.1 ≤ field va 0 48 ∧ field va 0 48 < r.1 + r.2)) →
    o.id ∈ tlbiUsers s fab kind world space va) ∧
  (∀ (s : State) (fab : Bool) (kind : Nat) (world : Bool) (space : BitVec 16) (va : DWord) (p : CartPart), p ∈ s.parts →
    fab = true ∨ p.pkg = Config.ownPackage → p.head.world = world → kind = 2 ∨ p.head.space = space →
    p.id ∈ tlbiUsers s fab kind world space va) ∧
  (∀ (s : State) (users : List Nat) (kind : Nat) (fab : Bool) (va : DWord) (space : BitVec 16), s.self.id ≠ 0 →
    s.self.wait = .tlbi (some users) kind fab va space →
    ((∀ u ∈ users, (∀ o ∈ s.ops, o.id ≠ u) ∧ ∀ p ∈ s.parts, p.id ≠ u) →
      ∃ t, exec (.tlbiComplete s.self.id) s = .next t ∧ t.self = { s.self with wait := .run, pc := s.self.pc + 12 } ∧
        (∀ e ∈ t.tlb, tlbiHits fab kind s.self.world space va e = false) ∧ t.mem = s.mem) ∧
    (∀ u ∈ users, ∀ o ∈ s.ops, o.id = u → exec (.tlbiComplete s.self.id) s = .next s)) ∧
  (∀ (fab : Bool) (kind : Nat) (world : Bool) (space : BitVec 16) (va : DWord) (e : TlbEntry),
    tlbiHits fab kind world space va e = true ↔ (fab = true ∨ e.pkg = Config.ownPackage) ∧
      e.world = world ∧ (kind ≤ 1 → e.space = space) ∧ (kind = 0 → e.page = (va.extractLsb' 0 48).toNat / 2 ^ e.bits)) ∧
  (∀ (i : RriI) (s : State), RunsS i.h [i.h.a] s → s.apMode = false → s.self.handler = true → s.self.id ≠ 0 →
    rs s i.h.a = 0xFFFFFFFFFFFFFFFF#64 →
    (field i.imm 0 2 = 0 → ∃ t, exec (.haltc i) s = .next t ∧ t.mem = s.mem ∧ t.v = s.v ∧
      t.self = { s.self with pc := s.self.pc + 12, halted := true }) ∧
    (field i.imm 0 2 = 1 → ∃ t, exec (.haltc i) s = .next t ∧ t.mem = s.mem ∧ t.v = s.v ∧
      t.self = { s.self with pc := s.self.pc + 12, halted := false })) ∧
  (∀ (i : RriI) (s : State), RunsS i.h [] s → s.self.handler = true → field i.imm 0 2 = 2 →
    exec (.haltc i) s = .next (nextPc (ws s i.h.d (dbgStat s s.self.core)))) ∧
  (∀ (i : RriI) (s : State), RunsS i.h [i.h.a] s → s.self.handler = true → field i.imm 0 2 < 2 →
    rs s i.h.a ≠ 0xFFFFFFFFFFFFFFFF#64 →
    (∀ c, slotTarget s ((rs s i.h.a).extractLsb' 0 4).toNat = some c → c.id ≠ s.self.id → c ∈ s.rest →
      ∃ t, exec (.haltc i) s = .next t ∧ pcOf t = pcOf s + 12 ∧ t.mem = s.mem ∧
        { c with halted := field i.imm 0 2 == 0 } ∈ cars t) ∧
    (slotTarget s ((rs s i.h.a).extractLsb' 0 4).toNat = none → exec (.haltc i) s = .next (trapC s .illegalOperand))) ∧
  (∀ (i : RriI) (s : State), RunsS i.h [i.h.a] s → Traps s →
    ∃ t, exec (.monc i) s = .next t ∧ Trapped s t .privilege s.self.pc 0 0 ∧ TrapKept s t) ∧
  (∀ (i : RriI) (s : State), RunsS i.h (if field i.imm 0 2 = 2 then [] else [i.h.a]) s → Traps s →
    ∃ t, exec (.haltc i) s = .next t ∧ Trapped s t .privilege s.self.pc 0 0 ∧ TrapKept s t) ∧
  (∀ (i : RrrI) (s : State), RunsS i.h (tlbiSrcs i) s → Traps s →
    ∃ t, exec (.tlbi i) s = .next t ∧ Trapped s t .privilege s.self.pc 0 0 ∧ TrapKept s t)

/-! ## Contexts and pre-emption (23, 25) -/

/-- In handler mode CTXSV writes the target's save area and no other byte, and goes on; the area carries the pc and the s
registers in their places. CTXLD naming its own carriage takes the saved pc, AST, MDEF and s registers, reserved bits 0, and
goes on there; naming another of its coach it goes on at PC + 12, and that carriage has taken the saved values and is halted;
an area that fails its checks is SAVE_CORRUPT, which in handler mode is a double fault. Outside handler mode both raise
PRIVILEGE. -/
def Obligations.ContextSaveAndLoad : Prop :=
  (∀ (i : MemI) (s : State) (c : Carriage) (rs' : List Run), RunsS i.h [i.h.d, i.h.a, i.h.b] s → s.self.handler = true →
    slotTarget s ((rs s i.h.d).extractLsb' 0 4).toNat = some c → (ctxAddr s i).toNat % 4096 = 0 → c.kind ≠ .path →
    (∀ k, ownCoach s = some k → k.recons = []) → (c.id = s.self.id → inLoop s = false) →
    globRuns s (engSelf s) .write (piecesOf (ctxAddr s i).toNat (carArea c)) = .ok rs' → settled s c.id = true →
    let e := engSelf s
    let o := ctxEng s i.t true (ctxAddr s i).toNat (carArea c)
    let u := engNote (haltOther s c) e.eng e.world e.space (ctxAddr s i).toNat (carArea c)
    releaseReady s o = true → writesBehind s o = false → globUp s e [((ctxAddr s i).toNat, carArea c)] = true →
    ∃ t, exec (.ctxsv i) s = .next t ∧ pcOf t = pcOf s + 12 ∧ t.v = s.v ∧ t.accData = s.accData ∧
      (∀ n, rsN t n = rsN s n) ∧ (∀ a, (∀ r ∈ rs', a < r.1 ∨ r.1 + r.2 ≤ a) → mget t a = mget s a) ∧
      (rs'.Pairwise (fun a b => a.1 + a.2 ≤ b.1 ∨ b.1 + b.2 ≤ a.1) → readRuns t rs' =
        (areaOf u c (if c.id = s.self.id then c.pc + 12 else c.pc) noImages false).take (carArea c))) ∧
  (∀ (s : State) (k : Nat) (c : Carriage) (pc : DWord) (im : Images) (d : Bool),
    mread (putArea s [(k, carArea c)] c pc im d) k (carArea c) = (areaOf s c pc im d).take (carArea c)) ∧
  (∀ (s : State) (c : Carriage) (pc : DWord) (im : Images) (d : Bool), carArea c ≤ (areaOf s c pc im d).length ∧
    (((areaOf s c pc im d).drop 0xA00).take 8 = bitsLe 8 pc) ∧
    ∀ n, 0 < n → n < 256 → ((areaOf s c pc im d).drop (0x200 + 8 * n)).take 8 = bitsLe 8 (cget c.s n)) ∧
  (∀ (i : MemI) (s : State) (hs rs' : List Run), RunsS i.h [i.h.d, i.h.a, i.h.b] s → s.apMode = false →
    s.self.handler = true → s.self.id ≠ 0 →
    slotTarget s ((rs s i.h.d).extractLsb' 0 4).toNat = some s.self → (ctxAddr s i).toNat % 4096 = 0 →
    globRuns s (engSelf s) .read (piecesOf (ctxAddr s i).toNat 512) = .ok hs → sizeOk (readRuns s hs) = true →
    let n := leAt (readRuns s hs) 4 4
    globRuns s (engSelf s) .read (piecesOf (ctxAddr s i).toNat n) = .ok rs' →
    readsBehind s (ctxEng s i.t false (ctxAddr s i).toNat n) = false →
    globUp s (engSelf s) [((ctxAddr s i).toNat, n)] = true →
    let bs := readRuns s rs'
    (areaOk bs = true → areaWorldOk bs s.self.world s.self.space = true → shapeOk bs s.self = true →
      demandFits s s.self bs = true →
      ∃ t, exec (.ctxld i) s = .next t ∧ t.mem = s.mem ∧ t.self.id = s.self.id ∧
        t.self.pc = leBits 64 ((bs.drop 0xA00).take 8) ∧ t.self.ast = leBits 64 ((bs.drop 0xA10).take 8) &&& 0x7F#64 ∧
        t.self.mdef = mdefWrite (leBits 64 ((bs.drop 0xA18).take 8)) ∧
        ∀ n, 0 < n → n < 256 → cget t.self.s n = leBits 64 ((bs.drop (0x200 + 8 * n)).take 8)) ∧
    (areaOk bs = false → s.self.spinst = 0 → loopOf s s.self = none →
      ∃ t, exec (.ctxld i) s = .next t ∧ t.self.halted = true ∧ t.self.trap.cause.extractLsb' 0 8 = causeCode .doubleFault ∧
        t.self.trap.tinfo.extractLsb' 0 8 = causeCode .saveCorrupt ∧ t.self.s = s.self.s ∧ t.mem = s.mem)) ∧
  (∀ (i : MemI) (s : State) (c : Carriage) (hs rs' : List Run), RunsS i.h [i.h.d, i.h.a, i.h.b] s → s.apMode = false →
    s.self.handler = true → s.self.id ≠ 0 → c.id ≠ s.self.id → c ∈ s.rest →
    slotTarget s ((rs s i.h.d).extractLsb' 0 4).toNat = some c → (ctxAddr s i).toNat % 4096 = 0 →
    globRuns s (engSelf s) .read (piecesOf (ctxAddr s i).toNat 512) = .ok hs → sizeOk (readRuns s hs) = true →
    let n := leAt (readRuns s hs) 4 4
    globRuns s (engSelf s) .read (piecesOf (ctxAddr s i).toNat n) = .ok rs' →
    readsBehind s (ctxEng s i.t false (ctxAddr s i).toNat n) = false →
    globUp s (engSelf s) [((ctxAddr s i).toNat, n)] = true →
    let bs := readRuns s rs'
    areaOk bs = true → areaWorldOk bs s.self.world s.self.space = true → shapeOk bs c = true → demandFits s c bs = true →
    ∃ t, ∃ d ∈ cars t, exec (.ctxld i) s = .next t ∧ pcOf t = pcOf s + 12 ∧ t.mem = s.mem ∧ t.self.s = s.self.s ∧
      d.id = c.id ∧ d.halted = true ∧ d.pc = leBits 64 ((bs.drop 0xA00).take 8) ∧
      ∀ n, 0 < n → n < 256 → cget d.s n = leBits 64 ((bs.drop (0x200 + 8 * n)).take 8)) ∧
  (∀ mk ∈ [Instr.ctxsv, .ctxld], ∀ (i : MemI) (s : State), RunsS i.h [i.h.d, i.h.a, i.h.b] s → Traps s →
    ∃ t, exec (mk i) s = .next t ∧ Trapped s t .privilege s.self.pc 0 0 ∧ TrapKept s t)

/-- A GO that finds PRS not busy starts the request, and one that names no coach reads FAULT; a coach stops once it is
eligible (R373 steps 1 to 5): its waiting carriages will execute their instruction again, its window is left with instance 0
alone, its armed triggers end with PREEMPTED, so does a copy of more than 1 MiB that has not started, one that has started is
cancelled where it has more than that left (how much it has written is not given: a free choice), every other operation goes
on, and its running passes leave the array. Drained, it is saved: where a row engine of its world does not take the image PRS
reads FAULT with WORLD, and else done, with each carriage's area and the shared memory in the image. A deadline that passes
before the coach is eligible reads REGIONS and leaves it alone. A restore reads its image and places the coach, waits while no
tile takes it or the areas are of another shape (log 140), and reads FAULT or NOFIT where it cannot. A carriage takes its pc
and s registers from its area. -/
def Obligations.Preemption : Prop :=
  (∀ (world : Bool) (prq : DWord) (s : State), prq.getLsbD 0 = true → prsState s world ≠ 1 →
    (∀ k, prq.getLsbD 1 = false → coachNamed s world (rsys s (wIdx world) 4 0x2010) (field prq 40 24) = some k →
      k.saved = false →
      ∃ t, ∃ p ∈ t.preempt, exec (.preemptSaveRequest world prq) s = .next t ∧ prsState t world = 1 ∧ p.world = world ∧
        p.restore = false ∧ p.coach = k.id ∧ p.base = (rsys s (wIdx world) 4 0x2018).toNat ∧
        (p.limit = if field prq 8 32 = 0 then 0 else s.ns + 1000 * field prq 8 32) ∧ t.mem = s.mem ∧ t.self = s.self ∧
        t.coaches = s.coaches) ∧
    (prq.getLsbD 1 = false → coachNamed s world (rsys s (wIdx world) 4 0x2010) (field prq 40 24) = none →
      ∃ t, exec (.preemptSaveRequest world prq) s = .next t ∧ prsState t world = 5 ∧ t.coaches = s.coaches ∧ t.mem = s.mem) ∧
    (prq.getLsbD 1 = true →
      ∃ t, ∃ p ∈ t.preempt, exec (.preemptRestoreRequest world prq) s = .next t ∧ prsState t world = 1 ∧ p.world = world ∧
        p.restore = true ∧ p.base = (rsys s (wIdx world) 4 0x2018).toNat ∧ t.mem = s.mem ∧ t.self = s.self)) ∧
  (∀ (world : Bool) (prq : DWord) (s : State), prsState s world = 1 →
    exec (.preemptSaveRequest world prq) s = .next s ∧ exec (.preemptRestoreRequest world prq) s = .next s) ∧
  (∀ (world : Bool) (s : State) (p : Preempt) (k : Coach), preemptOf s world false = some p → coach? s p.coach = some k →
    (k.stopped = false → eligible s k = false → exec (.preemptEligible world) s = .next s) ∧
    (k.stopped = false → eligible s k = true → exec (.preemptEligible world) s = .next (stopCoach s k)) ∧
    (k.stopped = false → eligible s k = true → s.loops = [] → coachOps s k.id = [] →
      ∃ t, exec (.preemptEligible world) s = .next t ∧ (∃ k', coach? t k.id = some k' ∧ k'.stopped = true) ∧
        (∀ q ∈ t.passes, q.coach = k.id → q.running = false) ∧ t.mem = s.mem ∧ t.v = s.v ∧
        ((∀ q ∈ s.passes, q.coach ≠ k.id) → ∀ c ∈ s.rest, c.coach = k.id → withdraw c ∈ t.rest)) ∧
    (k.stopped = true → drained s k = false → exec (.preemptEligible world) s = .next s) ∧
    (k.stopped = true → drained s k = true →
      exec (.preemptEligible world) s = .next (saveCoach s k p)) ∧
    (p.limit ≠ 0 → p.limit ≤ s.ns → k.stopped = false → eligible s k = false →
      ∃ t, exec (.preemptDeadline world) s = .next t ∧ prsState t world = 3 ∧ preemptOf t world false = none ∧
        t.coaches = s.coaches ∧ t.self = s.self ∧ t.rest = s.rest ∧ t.mem = s.mem) ∧
    (p.limit = 0 ∨ s.ns < p.limit ∨ k.stopped = true ∨ eligible s k = true → exec (.preemptDeadline world) s = .next s)) ∧
  (∀ (s : State) (k : Coach), stopCoach s k =
    let u := discardWindow s k
    stopOps (onCoach (stopPasses (mapCars u (fun c => if c.coach = k.id then withdraw c else c)) k.id) k.id
      (fun x => { x with stopped := true })) k.id) ∧
  (∀ (s : State) (k : Coach) (l : Loop), s.loops.find? (fun l => (theCar s l.cid).coach == k.id) = some l →
    (l.insts = [] → discardWindow s k = s) ∧
    (l.insts ≠ [] → ∃ x ∈ (discardWindow s k).loops, x.cid = l.cid ∧ x.wNow = 1 ∧ x.marks = [] ∧
      ∀ y ∈ x.insts, y.j = 0 ∧ y.reached = false)) ∧
  (∀ (s : State) (k : Nat), stopOps s k = (coachOps s k).foldl stopOp s) ∧
  (∀ (s : State) (o : EngOp),
    (∀ t, o.kind = .armed t → stopOp s o = cancelPreempted { s with triggers := s.triggers.filter (fun x => x.id != t) } o) ∧
    ((∀ t, o.kind ≠ .armed t) → copyTotal o ≤ 2 ^ 20 → stopOp s o = s) ∧
    ((∀ t, o.kind ≠ .armed t) → 2 ^ 20 < copyTotal o →
      (o.stage = .requesting → stopOp s o = cancelPreempted s o) ∧
      (o.stage ≠ .requesting → stopOp s o = s ∨ stopOp s o = onOp s o.id (fun x => { x with preempted := true }))) ∧
    (PlainEnd s o → HasHandle s o → o.inst = 0 → o.scope = 0 → ∃ st, DoneWith (cancelPreempted s o) o st ∧
      st.getLsbD 61 = true ∧ st.extractLsb' 48 8 = causeCode .preempted ∧ ∀ x ∈ (cancelPreempted s o).ops, x.id ≠ o.id)) ∧
  (∀ (s : State) (k : Coach) (p : Preempt), coach? s k.id = some k →
    let taken := rowsTake s p.world p.base (imageEnd s k p - p.base)
    let t := saveCoach s k p
    (taken = false → prsState t p.world = 5 ∧ ((rsys t (wIdx p.world) 4 0x2008).extractLsb' 40 8) = causeCode .world ∧
      t.coaches = s.coaches ∧ t.mem = s.mem) ∧
    (taken = true → prsState t p.world = 2 ∧ (∃ k', coach? t k.id = some k' ∧ k'.saved = true) ∧
      (∀ c ∈ t.rest, c.coach = k.id → c.wait = .saved) ∧
      (imageEnd s k p ≤ 2 ^ 39 →
        (∀ x ∈ imageCars s k p, ∃ im, im.shm = imageShmAt s k p ∧
          mread t (hk x.2) (carArea x.1) = (areaOf s x.1 x.1.pc im
            (s.loops.any (fun l => (theCar s l.cid).coach == k.id))).take (carArea x.1)) ∧
        mread t (hk (imageShmAt s k p)) (imageShm s k) = mread s (memKey .shm k.id 0) (imageShm s k)))) ∧
  (∀ (world : Bool) (s : State) (p : Preempt), preemptOf s world true = some p →
    (imageArea s p.base = none → ∃ t, exec (.restorePlace world) s = .next t ∧ prsState t world = 5 ∧
      ((rsys t (wIdx world) 4 0x2008).extractLsb' 40 8) = causeCode .saveCorrupt ∧ t.mem = s.mem ∧ t.self = s.self) ∧
    (∀ (bs : List Byte) (k : Coach) (areas : List (Nat × List Byte)), imageArea s p.base = some bs → areaOk bs = true →
      savedCoach s world bs = some k → imageAreas s (homesOfCoach s k.id).length p.base = some areas →
      areas.all (fun a => areaOk a.2) = true → areas.all (fun a => areaWorldOk a.2 world k.rcd.space) = true →
      let fits : Prop := ((homesOfCoach s k.id).zip areas).all (fun x => shapeOk x.2.2 x.1) = true
      (neverFits s k bs world = true → ∃ t, exec (.restorePlace world) s = .next t ∧ prsState t world = 4 ∧
        t.coaches = s.coaches ∧ t.mem = s.mem ∧ t.self = s.self) ∧
      (neverFits s k bs world = false → ¬fits ∨ restoreTiles s k bs = [] → exec (.restorePlace world) s = .next s) ∧
      (neverFits s k bs world = false → fits → restoreTiles s k bs ≠ [] → ∃ t, ∃ x ∈ restoreTiles s k bs,
        exec (.restorePlace world) s = .next t ∧ t = restoreOn s k areas world x ∧ prsState t world = 2 ∧
        preemptOf t world true = none ∧
        ∃ k', coach? t k.id = some k' ∧ k'.saved = false ∧ k'.stopped = false ∧ k'.x = x.1 ∧ k'.y = x.2))) ∧
  (∀ (bs : List Byte) (bad : Nat → Bool) (c : Carriage), let d := loadUniform bs bad c
    d.pc = leBits 64 ((bs.drop 0xA00).take 8) ∧ d.id = c.id ∧ d.index = c.index ∧ d.coach = c.coach ∧
      ∀ n, 0 < n → n < 256 → cget d.s n = leBits 64 ((bs.drop (0x200 + 8 * n)).take 8))

/-! ## The host, resets, readiness, errors and power (19, 22, 24, 33) -/

/-- The host writes and reads what its column opens and nothing else; a tail is kept at or above the head, and beyond the
ring it stops an enabled queue (when that is tested is log 83); clearing STOP discards a malformed head record and leaves any
other; a queue whose ring holds its records then runs. What a write or a read elsewhere does is log 94. -/
def Obligations.HostRegisters : Prop :=
  (∀ (world : Bool) (reg : Word) (data : DWord) (s : State) (r : RegRef), hostReg s world true reg.toNat = some r →
    exec (.mgmtRegisterWrite world reg data) s = .next (writeReg s (hostAcc world) r data)) ∧
  (∀ (world : Bool) (reg : Word) (data : DWord) (s : State), hostReg s world true reg.toNat = none →
    exec (.mgmtRegisterWrite world reg data) s = .next s) ∧
  (∀ (world : Bool) (reg : Word) (s : State) (r : RegRef), hostReg s world false reg.toNat = some r →
    ∃ t, exec (.mgmtRegisterRead world reg) s = .next t ∧ t.cxlOut = bitsLe 8 (readReg s Carriage.none world r) ∧
      t.sysr = s.sysr ∧ t.mem = s.mem ∧ t.self = s.self) ∧
  (∀ (world : Bool) (reg : Word) (s : State), hostReg s world false reg.toNat = none →
    ∃ t, exec (.mgmtRegisterRead world reg) s = .next t ∧ t.sysr = s.sysr ∧ t.mem = s.mem ∧ t.self = s.self) ∧
  (∀ (s : State) (w world : Bool) (x : Nat) (r : RegRef), hostReg s world w x = some r →
    x % 8 = 0 ∧ (∀ n, r ≠ .trap n) ∧ ∀ o, r = .iso o → w = false ∧ world = true) ∧
  (∀ (world : Bool) (data : DWord) (s : State), ∃ t, exec (.mgmtRegisterWrite world 0x04000000 data) s = .next t ∧
    tvec t world = data ∧ tvec t (!world) = tvec s (!world) ∧ t.mem = s.mem ∧ t.self = s.self) ∧
  (∀ (world : Bool) (q : Nat) (tail : DWord) (s : State), q < 64 → ∃ t, exec (.hostQtailWrite world q tail) s = .next t ∧
    qTail t world q = max (tail.extractLsb' 0 48).toNat (qHead s world q) ∧ qHead t world q = qHead s world q ∧
    (qEn s world q = true → 2 ^ qSz s world q + qHead s world q < (tail.extractLsb' 0 48).toNat →
      qStopped t world q = true) ∧
    (qEn s world q = false → qStopped t world q = qStopped s world q) ∧ t.mem = s.mem ∧ t.self = s.self) ∧
  (∀ (world : Bool) (q : Nat) (s : State), q < 64 →
    (qStopped s world q = false → exec (.qstatStopClear world q) s = .next s) ∧
    (qStopped s world q = true → field (rq s world q 0x20) 48 8 = (causeCode .launchRecord).toNat →
      ∃ t, exec (.qstatStopClear world q) s = .next t ∧ qHead t world q = (qHead s world q + 1) % 2 ^ 48 ∧ t.mem = s.mem ∧
        (qTail s world q ≤ 2 ^ qSz s world q + (qHead s world q + 1) % 2 ^ 48 → qStopped t world q = false)) ∧
    (qStopped s world q = true → field (rq s world q 0x20) 48 8 ≠ (causeCode .launchRecord).toNat →
      ∃ t, exec (.qstatStopClear world q) s = .next t ∧ qHead t world q = qHead s world q ∧ t.mem = s.mem ∧
        (qTail s world q ≤ 2 ^ qSz s world q + qHead s world q → qStopped t world q = false)))

/-- A reset sets every register of the package but UNCLOG to its reset value, clears every SRAM, ends every carriage,
coach, launch and operation, and leaves host memory and the peers' memory and registers alone; it follows the key, an
uncontained error with its log, 115 °C, and an input below 40 V for more than 1 ms, and nothing less. -/
def Obligations.PackageResets : Prop :=
  (∀ (s : State), exec .packageReset s = .next (resetPackage s)) ∧
  (∀ (s : State), (∀ w < 2, ∀ blk < 256, ∀ off < 2 ^ 24, (w, blk, off) ≠ (0, 2, 0x20) →
      rsys (resetPackage s) w blk off = sysReset blk off) ∧ rsys (resetPackage s) 0 2 0x20 = rsys s 0 2 0x20 ∧
    (∀ pkg, pkg ≠ Config.ownPackage → ∀ w < 2, ∀ blk < 256, ∀ off < 2 ^ 24,
      rsysP (resetPackage s) pkg w blk off = rsysP s pkg w blk off) ∧
    (∀ a, ofHost a = true ∨ ofPeers a = true → mget (resetPackage s) a = mget s a) ∧
    (∀ a, ofHost a = false → ofPeers a = false → ofOwnHbm a = false → mget (resetPackage s) a = 0) ∧
    (resetPackage s).self = State.reset.self ∧ (resetPackage s).rest = [] ∧ (resetPackage s).coaches = [] ∧
    (resetPackage s).launches = [] ∧ (resetPackage s).ops = [] ∧ (resetPackage s).v = [] ∧ (resetPackage s).vPoison = [] ∧
    (resetPackage s).boot = .pending ∧ (∀ fn < 256, ready (resetPackage s) fn = false) ∧
    (∀ n < 64, ∀ w, qEn (resetPackage s) w n = false)) ∧
  (∀ (key : DWord) (s : State), exec (.resetKeyWrite key) s = .next (if key = Config.resetKey then resetPackage s else s)) ∧
  (∀ (fn : Nat) (cls loc : BitVec 24) (s : State), ∃ t, exec (.uncontainedError fn cls loc) s = .next t ∧
    rsys t 0 2 0x20 = Config.unclogWord fn cls.toNat loc.toNat ∧ t.boot = .pending ∧ t.rest = [] ∧
    (∀ n < 256, ready t n = false)) ∧
  (∀ (celsius : Nat) (s : State), (celsius < 115 → exec (.thermalTrip celsius) s = .next s) ∧
    (115 ≤ celsius → ∃ t, exec (.thermalTrip celsius) s = .next t ∧ rsys t 0 2 0x20 = Config.unclogThermal ∧
      t.boot = .pending ∧ ∀ n < 256, ready t n = false)) ∧
  (∀ (mv us : Nat) (s : State), exec (.inputUndervoltage mv us) s =
    .next (if mv < 40000 ∧ 1000 < us then resetPackage s else s))

/-- A record that verifies sets the quad and port worlds, SERVE, the splits, the region registers it names, SPTB and the
routes of at most four ports, and one that does not leaves them; it is read once. A function's bit is set when its own test
and what it requires have passed: a core's own and those of its quad's matrix engine, accumulator store and tile memory
(R386; their numbers 162 to 257 are the model's), a row engine's stack, a port's link; after a failed verification only the
CXL link and the monitor come up. A port sends its identity record and comes up when its peer's verifies; a link lost
clears its bit, and so does the eighth failed replay of a flit. -/
def Obligations.ReadinessAndLinks : Prop :=
  (∀ (r : BootRecord) (s : State), s.boot = .pending →
    (Config.configVerifies r.bytes r.signature = true → ∃ t, exec (.bootConfigVerify r) s = .next t ∧ t.boot = .verified ∧
      t.routes = r.routes.map (fun x => (x.1, (x.2.filter (fun p => p < 12)).take 4)) ∧ t.record = r.bytes ∧
      rsys t 0 5 8 = r.serve.setWidth 64 ∧
      ((r.mrgn.map (fun m => m.1)).Nodup → ∀ m ∈ r.mrgn, m.1 < 512 → rsys t 0 5 (0x1000 + 8 * m.1) = m.2 &&& 0xC00FFFFF000FFFFF#64) ∧
      rsys t 0 5 0 = r.quadWorlds.setWidth 64 ∧ rsys t 0 5 0x010 = r.portWorlds.setWidth 64 ∧
      rsys t 0 5 0x018 = r.split.setWidth 64 ∧ rsys t 0 4 8 = r.sptbN ∧ rsys t 1 4 8 = r.sptbS ∧ t.mem = s.mem) ∧
    (Config.configVerifies r.bytes r.signature = false →
      ∃ t, exec (.bootConfigVerify r) s = .next t ∧ t.boot = .failed ∧ t.sysr = s.sysr ∧ t.routes = s.routes)) ∧
  (∀ (r : BootRecord) (s : State), s.boot ≠ .pending → exec (.bootConfigVerify r) s = .next s) ∧
  (∀ (fn v : Nat) (s : State), fn < 162 → s.boot = .verified →
    (fn < 128 → 512 ≤ v → ∃ t, exec (.selfTestPass fn v) s = .next t ∧
      ready t fn = (ready s fn || (span (162 + 3 * quadOf fn) 3).all (passed s)) ∧
      vrcap t fn = min v 768 / 32 * 32 * 1024 ∧ t.mem = s.mem) ∧
    (fn < 128 → v < 512 → ∃ t, exec (.selfTestPass fn v) s = .next t ∧ ready t fn = ready s fn ∧ t.mem = s.mem) ∧
    (128 ≤ fn → (fn < 136 ∨ (144 ≤ fn ∧ fn < 146) ∨ 158 ≤ fn) → ∃ t, exec (.selfTestPass fn v) s = .next t ∧
      ready t fn = true ∧ t.mem = s.mem) ∧
    (136 ≤ fn → fn < 144 → ∃ t, exec (.selfTestPass fn v) s = .next t ∧
      ready t fn = (ready s fn || passed s (fn - 8))) ∧
    (146 ≤ fn → fn < 158 → ∃ t, exec (.selfTestPass fn v) s = .next t ∧
      ready t fn = (ready s fn || cget s.linked (fn - 146) == 1))) ∧
  (∀ (quad j v : Nat) (s : State), quad < 32 → j < 3 → s.boot = .verified →
    ∃ t, exec (.selfTestPass (162 + 3 * quad + j) v) s = .next t ∧ t.mem = s.mem ∧
      (∀ c < 128, ready t c = (ready s c || (decide (quadOf c = quad) && passed s c &&
        (span 0 3).all (fun n => n == j || passed s (162 + 3 * quad + n))))) ∧
      ∀ fn, 128 ≤ fn → fn < 162 → ready t fn = ready s fn) ∧
  (∀ (fn v : Nat) (s : State), 258 ≤ fn ∨ s.boot = .pending ∨ (s.boot = .failed ∧ fn ≠ 159 ∧ fn ≠ 160) →
    exec (.selfTestPass fn v) s = .next s) ∧
  (∀ (v : Nat) (s : State), s.boot = .failed → ∀ fn ∈ [159, 160], ∃ t, exec (.selfTestPass fn v) s = .next t ∧
    ready t fn = true ∧ t.mem = s.mem) ∧
  (∀ (port : Nat) (rec' : List Byte) (good : Bool) (s : State), 12 ≤ port → exec (.akbexLinkTraining port rec') s = .next s ∧
    exec (.peerLinkDown port) s = .next s ∧ exec (.linkCrcReplay port good) s = .next s) ∧
  (∀ (port : Nat) (rec' : List Byte) (s : State), port < 12 →
    (s.boot = .verified → Config.recordVerifies rec' = true → ∃ t, exec (.akbexLinkTraining port rec') s = .next t ∧
      cget t.linked port = 1 ∧ t.akbexOut = identityRecord s ∧
      ready t (146 + port) = (ready s (146 + port) || passed s (146 + port)) ∧ t.mem = s.mem) ∧
    (s.boot = .verified → Config.recordVerifies rec' = false →
      exec (.akbexLinkTraining port rec') s = .next { s with akbexOut := identityRecord s, akbexBad := [] }) ∧
    (s.boot ≠ .verified → exec (.akbexLinkTraining port rec') s = .next s) ∧
    (∃ t, exec (.peerLinkDown port) s = .next t ∧ ready t (146 + port) = false ∧
      (∀ fn < 256, fn ≠ 146 + port → ready t fn = ready s fn) ∧ t.mem = s.mem ∧ t.self = s.self) ∧
    (ready s (146 + port) = true → (cget s.crcFails port).toNat < 255 →
      ∃ t, exec (.linkCrcReplay port false) s = .next t ∧ t.mem = s.mem ∧
        ready t (146 + port) = decide ((cget s.crcFails port).toNat + 1 < 8) ∧
        ((cget s.crcFails port).toNat + 1 < 8 → (cget t.crcFails port).toNat = (cget s.crcFails port).toNat + 1)) ∧
    (ready s (146 + port) = true → ∃ t, exec (.linkCrcReplay port true) s = .next t ∧ cget t.crcFails port = 0 ∧
      field (rsys t 0 2 (errStat (146 + port))) 0 32 = min (field (rsys s 0 2 (errStat (146 + port))) 0 32 + 1) (2 ^ 32 - 1) ∧
      t.mem = s.mem) ∧
    (ready s (146 + port) = false → ∀ good, exec (.linkCrcReplay port good) s = .next s)) ∧
  (∀ (s : State), ∃ t, exec .cxlLinkDown s = .next t ∧ ready t 159 = false ∧
    (∀ fn < 256, fn ≠ 159 → ready t fn = ready s fn) ∧ t.mem = s.mem ∧ t.self = s.self)

/-- A corrected error adds to CECNT, saturating, and LCLASS reads 1; a contained one poisons every unit it hits, adds one to
UECNT, saturating, LCLASS reads 2, and ERRADDR keeps the first address until it is read (which word it takes where the place
has no physical address is log 91); an error of no function does nothing. A power sample lowers the clock a step for a
junction above 105 °C or for an average above 2,400 W; the clock rises one after a millisecond below 2,300 W (the average
over the last ten samples, and the time counted by samples, is log 93). -/
def Obligations.ErrorsAndPower : Prop :=
  (∀ (fn : Nat) (s : State), fn < 162 → ∃ t, exec (.correctedError fn) s = .next t ∧
    field (rsys t 0 2 (errStat fn)) 0 32 = min (field (rsys s 0 2 (errStat fn)) 0 32 + 1) (2 ^ 32 - 1) ∧
    field (rsys t 0 2 (errStat fn)) 62 2 = 1 ∧
    field (rsys t 0 2 (errStat fn)) 32 16 = field (rsys s 0 2 (errStat fn)) 32 16 ∧ t.mem = s.mem ∧ t.self = s.self) ∧
  (∀ (fn : Nat) (places : List PoisonPlace) (s : State), fn < 162 → ∃ t, exec (.containedError fn places) s = .next t ∧
    field (rsys t 0 2 (errStat fn)) 32 16 = min (field (rsys s 0 2 (errStat fn)) 32 16 + 1) 65535 ∧
    field (rsys t 0 2 (errStat fn)) 62 2 = 2 ∧
    field (rsys t 0 2 (errStat fn)) 0 32 = field (rsys s 0 2 (errStat fn)) 0 32 ∧ cget t.unread fn = 1 ∧
    (cget s.unread fn = 1 → rsys t 0 2 (errStat fn + 8) = rsys s 0 2 (errStat fn + 8)) ∧
    (cget s.unread fn = 0 → ∀ p ps, places = p :: ps → rsys t 0 2 (errStat fn + 8) = placeAddr s p) ∧
    (∀ p ∈ places, (∀ key, p = .unit key → cget t.mPoison key = 1) ∧ (∀ tid n, p = .vreg tid n → vBad t tid n = true) ∧
      (∀ key, p = .acc key → aBad t key = true) ∧
      (∀ n, 0 < n → n < 256 → s.self.id ≠ 0 → p = .sreg s.self.id n → t.self.sPoison.getLsbD n = true)) ∧
    t.mem = s.mem ∧ t.v = s.v ∧ t.self.s = s.self.s) ∧
  (∀ (s : State) (key : Nat), ofOwnHbm (8 * key) = true → placeAddr s (.unit key) = BitVec.ofNat 64 (8 * key % 2 ^ 48)) ∧
  (∀ (fn : Nat) (places : List PoisonPlace) (s : State), 162 ≤ fn → exec (.correctedError fn) s = .next s ∧
    exec (.containedError fn places) s = .next s) ∧
  (∀ (mw : Nat) (temps : List Nat) (s : State), ∃ t, exec (.powerSample mw temps) s = .next t ∧
    t.power = (mw :: s.power).take 10 ∧
    (2400000 * t.power.length < sumNat t.power ∨ (∃ x ∈ temps, 105000 < x) → t.clockStep = min 12 (s.clockStep + 1)) ∧
    (sumNat t.power ≤ 2400000 * t.power.length → (∀ x ∈ temps, x ≤ 105000) → t.clockStep = s.clockStep) ∧
    t.coolUs = (if mw < 2300000 then s.coolUs + 10 else 0) ∧ t.mem = s.mem ∧ t.self = s.self ∧ t.sysr = s.sysr) ∧
  (∀ (s : State), (1000 ≤ s.coolUs → 0 < s.clockStep →
      exec .clockStepUp s = .next { s with clockStep := s.clockStep - 1, coolUs := 0 }) ∧
    (s.coolUs < 1000 ∨ s.clockStep = 0 → exec .clockStepUp s = .next s))

/-- CXL.mem reaches HBM by the decoders, and only units that its world's row engine takes; SPDM replies over a ready link,
and a reply holds the measurements it was asked for, the digest of slot 0's chain, the part of the chain asked for, or the one
selection of algorithms, whose numbers are SPDM's (log 133); a debugger halts a carriage whose world allows it and reads and
writes local stores. What arrives at a port that is down does nothing; a port drops what is not of its world. A peer's 8-byte
write and atomic are done at units that its world's row engine takes, and so is its read once the answer has a route; its
sub-cart enters the home switch, which answers one of the other world with code 5 at every position (R218); its TLBI removes
the entries it names. -/
def Obligations.OutsideRequests : Prop :=
  (∀ (world : Bool) (hpa pa : Nat) (s : State), hdmPa s hpa 64 = some pa → ready s 159 = true → pa + 64 ≤ 2 ^ 39 →
    ∃ t, exec (.cxlMemRequest world hpa none) s = .next t ∧ t.mem = s.mem ∧ t.self = s.self ∧
      (unitsOk s world pa 64 = true → t.cxlOut = mread s (hk pa) 64) ∧
      (unitsOk s world pa 64 = false → t.cxlOut = List.replicate 64 0 ∧ ∀ b ∈ t.cxlBad, b = true)) ∧
  (∀ (world : Bool) (hpa pa : Nat) (bs : List Byte) (s : State), hdmPa s hpa bs.length = some pa → ready s 159 = true →
    bs ≠ [] → pa + bs.length ≤ 2 ^ 39 →
    ∃ t, exec (.cxlMemRequest world hpa (some bs)) s = .next t ∧ t.self = s.self ∧
      (unitsOk s world pa bs.length = true → mread t (hk pa) bs.length = bs ∧
        ∀ a, a < hk pa ∨ hk pa + bs.length ≤ a → mget t a = mget s a) ∧
      (unitsOk s world pa bs.length = false → t.mem = s.mem)) ∧
  (∀ (world : Bool) (hpa : Nat) (data : Option (List Byte)) (s : State), ready s 159 = false ∨
      hdmPa s hpa (match data with | some bs => bs.length | none => 64) = none →
    exec (.cxlMemRequest world hpa data) s = .next s) ∧
  (∀ mc ∈ [(Instr.getVersion, 0), (.getCapabilities, 1), (.negotiateAlgorithms, 2), (.getDigests, 3), (.getCertificate, 4),
      (.challenge, 5), (.getMeasurements, 6)], ∀ (request : List Byte) (s : State),
    exec (mc.1 request) s = .next (if ready s 159 then { s with spdmOut := spdmReply s mc.2 request } else s)) ∧
  (∀ (request : List Byte) (s : State),
    (∀ n x, [sha512 Config.firmware, sha512 Config.monitor, sha512 s.record, identityRecord s][n]? = some x →
      Config.measurementAsked request (n + 1) = true → x <:+: spdmReply s 6 request) ∧
    sha512 Config.certChain <:+: spdmReply s 3 request ∧
    (Config.certChain.drop (Config.chainAsked request).1).take (Config.chainAsked request).2 <:+: spdmReply s 4 request ∧
    [0x00, 0x01, 0x00, 0x00] <:+: spdmReply s 2 request ∧ [0x04, 0x00, 0x00, 0x00] <:+: spdmReply s 2 request) ∧
  (∀ (s : State), s.self.id ≠ 0 → ∃ t, exec (.debuggerHalt s.self.id) s = .next t ∧
    t.self = (if Config.debugOn s.self.world then { s.self with halted := true } else s.self) ∧ t.mem = s.mem) ∧
  (∀ (s : State) (c : Carriage), c ∈ s.rest → ∃ t, exec (.debuggerHalt c.id) s = .next t ∧ t.mem = s.mem ∧
    (if Config.debugOn c.world then { c with halted := true } else c) ∈ t.rest) ∧
  (∀ (core addr : Nat) (s : State), dbgBlocked s false (((span addr 8).map (localKey s core)).filterMap id) = false →
    ∃ t, exec (.debuggerAccess core addr none) s = .next t ∧ t.mem = s.mem ∧ t.self = s.self ∧ t.dbgOut.length = 8 ∧
      ∀ n < 8, ∀ k, localKey s core (addr + n) = some k → t.dbgOut[n]? = some (mget s k)) ∧
  (∀ (core addr : Nat) (b : Byte) (s : State) (k : Nat), localKey s core addr = some k →
    dbgBlocked s true [k] = false → ∃ t, exec (.debuggerAccess core addr (some [b])) s = .next t ∧
      (∀ a, mget t a = if a = k then b else mget s a) ∧ t.self = s.self) ∧
  (∀ (port : Nat) (req : PeerRequest) (s : State), 12 ≤ port ∨ ready s (146 + port) = false →
    exec (.peerRequestArrival port req) s = .next s) ∧
  (∀ (port : Nat) (s : State), port < 12 → ready s (146 + port) = true →
    (∀ req p, peerPlain s req = some p → portWorld s port ≠ p.1 → ∃ t, exec (.peerRequestArrival port req) s = .next t ∧
      t.mem = s.mem ∧ t.self = s.self ∧ t.tlb = s.tlb ∧ t.coaches = s.coaches) ∧
    (∀ world space reqPkg pa data, portWorld s port = world → inHbm pa 8 = true →
      ∃ t, exec (.peerRequestArrival port (.sigW world space reqPkg pa data)) s = .next t ∧ t.self = s.self ∧
        (rowsTake s world pa 8 = true → mread t (hk pa) 8 = bitsLe 8 data ∧
          ∀ a, a < hk pa ∨ hk pa + 8 ≤ a → mget t a = mget s a) ∧
        (rowsTake s world pa 8 = false → t.mem = s.mem)) ∧
    (∀ world space reqPkg pa aop wide b cmp, let n := if wide then 8 else 4
      portWorld s port = world → inHbm pa n = true →
      ∃ t, exec (.peerRequestArrival port (.amog world space reqPkg pa aop wide b cmp)) s = .next t ∧ t.self = s.self ∧
        (rowsTake s world pa n = true → mBad s (hk pa) n = false →
          t = mwrite s (hk pa) (amogBytes wide aop (mread s (hk pa) n) b cmp)) ∧
        (rowsTake s world pa n = false → t.mem = s.mem)) ∧
    (∀ world space reqPkg pa len, portWorld s port = world → inHbm pa len = true →
      ∃ t, exec (.peerRequestArrival port (.copyRead world space reqPkg pa len)) s = .next t ∧ t.mem = s.mem ∧
        t.self = s.self ∧ (routePort s reqPkg = none → t.akbexOut = s.akbexOut) ∧
        (routePort s reqPkg ≠ none → rowsTake s world pa len = true → t.akbexOut = mread s (hk pa) len ∧
          t.akbexBad = (unitsTouched (hk pa) len).map (fun u => cget s.mPoison u == 1))) ∧
    (∀ world space reqPkg core token typ pool fmt rowBytes base stride entries, portWorld s port = world →
      ∃ t, ∃ x ∈ t.subs, exec (.peerRequestArrival port
          (.subcart world space reqPkg core token typ pool fmt rowBytes base stride entries)) s = .next t ∧
        x.id = s.nextId ∧ x.stage = 1 ∧ x.pkg = Config.ownPackage ∧ x.entries = entries.map peerEntry ∧
        x.head.reqPkg = reqPkg ∧ x.head.base = base ∧ t.mem = s.mem ∧ t.self = s.self) ∧
    (∀ world space reqPkg core token typ pool fmt rowBytes base stride entries, portWorld s port ≠ world →
      ∃ t, ∃ x ∈ t.replies, exec (.peerRequestArrival port
          (.subcart world space reqPkg core token typ pool fmt rowBytes base stride entries)) s = .next t ∧
        x.entries.map (fun e => (e.pos, e.code)) = entries.map (fun e => (e.pos, 5)) ∧ t.mem = s.mem ∧ t.self = s.self) ∧
    (∀ e : PeerEntry, (peerEntry e).row = e.row ∧ (peerEntry e).slot = e.slot ∧
      (peerEntry e).stack = 4 * (e.die % 2) + e.stack % 4 ∧ (peerEntry e).data = e.data.bytes ∧ (peerEntry e).bad = e.data.bad) ∧
    (∀ world kind space va, portWorld s port = world →
      ∃ t, exec (.peerRequestArrival port (.tlbi world kind space va)) s = .next t ∧
        t.tlb = s.tlb.filter (fun e => !tlbiHits false kind.toNat world space va e) ∧ t.mem = s.mem))

/-! ## Decoding, steps and the whole machine (00, 03) -/

/-- R44, R47, R48: words written out from the manual's encodings and worked examples decode to the instructions they stand
for; ILL and the unassigned opcodes decode to the instructions that trap, and of SADD's words those with a reserved modifier
and those with an operand outside its class are refused by their names, the modifier first (R63, R64). -/
def Obligations.DecodeOfWrittenWords : Prop :=
  let w3 (a b c : Word) : InstrBits := c ++ (b ++ a)
  (∃ i, decode (w3 0xDF400001 0x800006FA 0x0000000C) = .ok (.sadd i) ∧ i.h.d.toNat = 1536 + 250 ∧ i.h.a.toNat = 1536 + 250 ∧
    i.t = .rri 12 ∧ i.sat = false ∧ i.u = false ∧ i.h.guard = 0 ∧ i.h.gneg = false) ∧
  (∃ i, decode (w3 0xDF4000E0 0x00000600 0x00000008) = .ok (.sysrd i) ∧ i.h.d.toNat = 1536 + 250 ∧ i.h.a.toNat = 1536 ∧
    i.imm = 8) ∧
  (∃ i, decode (w3 0x000000E1 0x0037D600 0x00000010) = .ok (.syswr i) ∧ i.h.a.toNat = 1536 ∧ i.h.b.toNat = 1536 + 250 ∧
    i.imm = 16) ∧
  (∃ i, decode (w3 0x000000E2 0 0) = .ok (.eret i)) ∧
  (∃ i, decode (w3 0x0060000F 0xA4000604 0x00000064) = .ok (.scmp i) ∧ i.h.d.toNat = 3 ∧ i.h.a.toNat = 1536 + 4 ∧
    i.t = .rri 100) ∧
  (∃ i, decode (w3 0x02884064 0x00303815 0x00000816) = .ok (.vfmaF32 i) ∧ i.h.d.toNat = 20 ∧ i.h.a.toNat = 21 ∧
    i.h.b.toNat = 1536 + 7 ∧ i.h.hints.reuseB = true ∧ i.h.hints.stall.toNat = 2) ∧
  (∃ i, decode (w3 0x004000B0 0x60000840 0x00000140) = .ok (.mmaE4 i)) ∧
  (∃ i, decode (w3 0x00600092 0x0030A002 0x020F0375) = .ok (.gat i)) ∧
  (∃ i, decode (w3 0x00000026 0x0000C003 0x00000008) = .ok (.dbr i) ∧ i.h.a.toNat = 3 ∧ i.bofs = 8) ∧
  (∃ i, decode (w3 0x05001380 0x40006604 0x000040AD) = .ok (.lds i) ∧ i.h.d.toNat = 40 ∧ i.h.guard.toNat = 3 ∧ i.h.gneg = true ∧
    i.h.a.toNat = 1536 + 4 ∧ i.h.b.toNat = 12 ∧ i.t.ofs.toNat = 64) ∧
  (∃ i, decode (w3 0x0180007B 0x0B00580A 0x000A0000) = .ok (.vqnt i) ∧ i.h.d.toNat = 12 ∧ i.h.a.toNat = 10 ∧ i.h.b.toNat = 11) ∧
  (∀ a b c : Word, a.extractLsb' 0 8 = 0 → ∃ x, decode (w3 a b c) = .ok (.ill x)) ∧
  (∀ a b c : Word, ∀ o ∈ [0x1A#8, 0x36#8, 0x7E#8, 0xFF#8], a.extractLsb' 0 8 = o →
    ∃ x, decode (w3 a b c) = .ok (.reservedOpcode o x)) ∧
  decode (w3 0xDF400001 0x804006FA 0x0000000C) = .error .reservedModifier ∧
  decode (w3 0x00A00001 0x800006FA 0x0000000C) = .error .illegalOperand ∧
  decode (w3 0x00A00001 0x804006FA 0x0000000C) = .error .reservedModifier ∧
  (∀ w : InstrBits, bitsOfBytes (bytesOfBits 12 w) = w)

/-- R47-R63: an instruction that passes the decode checks encodes to words that decode to it again, no bit dropped; and a
word that decodes is the one its instruction encodes to. -/
def Obligations.DecodeOfEncode : Prop :=
  (∀ i : Instr, WellFormed i → (∀ x, i ≠ .apSld x) → (∀ x, i ≠ .apQpop x) → (∀ x, i ≠ .apQpush x) → (∀ x, i ≠ .apExit x) →
    decode (encode i) = .ok i) ∧
  (∀ x, WellFormed (.apSld x) → decodeAp (encode (.apSld x)) = .ok (.apSld x)) ∧
  (∀ x, WellFormed (.apQpop x) → decodeAp (encode (.apQpop x)) = .ok (.apQpop x)) ∧
  (∀ x, WellFormed (.apQpush x) → decodeAp (encode (.apQpush x)) = .ok (.apQpush x)) ∧
  (∀ x, WellFormed (.apExit x) → decodeAp (encode (.apExit x)) = .ok (.apExit x)) ∧
  (∀ (w : InstrBits) (i : Instr), decode w = .ok i → WellFormed i ∧ encode i = w)

/-- Where the bytes at the pc can be reached and decode, a step runs that instruction, the issue stage takes note of it, and
the step ends; so for an access processor with its own forms, and for an event. A misaligned pc, a fetch that fails and a
word that is refused take the trap of their name; with no link to the page the carriage waits (log 41). Twelve bytes are
fetched. -/
def Obligations.StepRunsDecoded : Prop :=
  (∀ (s : State) (bs : List Byte) (i : Instr), s.turn = .fetch → s.apMode = false → s.self.id ≠ 0 →
    s.self.pc.toNat % 4 = 0 → fetchUp s s.self.pc 12 = true → fetchAt s s.self.pc = .ok bs →
    decode (bitsOfBytes bs) = .ok i → step s = endStep s.self.id (issued s (exec i s))) ∧
  (∀ (s : State) (bs : List Byte) (i : Instr), s.turn = .ap → s.self.id ≠ 0 → (apOf s).pc.toNat % 4 = 0 →
    fetchUp s (apOf s).pc 12 = true → fetchAt s (apOf s).pc = .ok bs → decodeAp (bitsOfBytes bs) = .ok i →
    step s = endStep 0 (exec i { s with apMode := true })) ∧
  (∀ (s : State) (e : Instr), s.turn = .event e → step s = endStep 0 (exec e s)) ∧
  (∀ (mover : Nat) (t : State), endStep mover (.next t) = .next (advance { t with apMode := false } mover)) ∧
  (∀ s : State, s.turn = .fetch → s.apMode = false → s.self.id ≠ 0 →
    let goes (t : State) : Prop := step s = endStep s.self.id (issued s (.next t))
    (s.self.pc.toNat % 4 ≠ 0 → goes (trapAt s .pcAlign s.self.pc)) ∧
    (s.self.pc.toNat % 4 = 0 → fetchUp s s.self.pc 12 = false → goes s) ∧
    (s.self.pc.toNat % 4 = 0 → fetchUp s s.self.pc 12 = true → ∀ c, fetchAt s s.self.pc = .error c →
      goes (trapAt (noteFetch s c s.self.pc) .fetchFault s.self.pc)) ∧
    (s.self.pc.toNat % 4 = 0 → fetchUp s s.self.pc 12 = true → ∀ bs c, fetchAt s s.self.pc = .ok bs →
      decodeFor s bs = .error c → goes (trapC s c))) ∧
  (∀ (s : State) (va : DWord) (bs : List Byte), fetchAt s va = .ok bs → bs.length = 12)

/-! ## What every step keeps -/

/-- R387, R302, R306, R385, R386: what reset leaves: nothing is ready, no queue is enabled, and the registers whose reset
value is not 0. The same state is between steps, and its memory is canonical. -/
def Obligations.ResetState : Prop :=
  (∀ fn < 256, ready State.reset fn = false) ∧ (∀ c < 128, rcore State.reset c 0x400 = 2048) ∧
  (∀ w, ∀ q < 64, qEn State.reset w q = false ∧ qSz State.reset w q = 4 ∧ qAge State.reset w q = 0 ∧
    qStopped State.reset w q = false ∧ qHead State.reset w q = 0) ∧
  (∀ n < 16, rsys State.reset 0 3 (0x100 * n + 0x40) = 100 ∧ poolEn State.reset n = false) ∧
  (∀ w, tvec State.reset w = 0) ∧ (∀ w, prsState State.reset w = 0) ∧ State.reset.self.halted = false ∧
  State.reset.coaches = [] ∧ State.reset.ops = [] ∧ cars State.reset = [] ∧
  State.reset.between = true ∧ Memory.wf State.reset.mem = true

/-- The model's own invariant: after any step the state is between steps: no access processor stands in a carriage's place,
the spin detectors have seen every write, and a fetch belongs to a carriage that may issue. -/
def Obligations.BetweenIsKept : Prop :=
  ∀ s t : State, s.between = true → step s = .next t → t.between = true

/-- Every instruction and event answers a next state in every state: none is refused and none faults; so a step from a state
between steps goes on. -/
def Obligations.EveryStepGoesOn : Prop :=
  (∀ (i : Instr) (s : State), ∃ t, exec i s = .next t) ∧ ∀ s : State, s.between = true → SafeStep s

/-- Memory keeps its one canonical form: addresses rise, and no listed byte is what an unlisted one reads as. -/
def Obligations.MemoryStaysCanonical : Prop :=
  (∀ (i : Instr) (s t : State), Memory.wf s.mem = true → exec i s = .next t → Memory.wf t.mem = true) ∧
  ∀ s t : State, Memory.wf s.mem = true → step s = .next t → Memory.wf t.mem = true
end

