-- ==== Sys2Proof/Laws/Cells.lean ====
section
/-! SUPPORT. The sparse store: what a read gives after a write, and that every write keeps the canonical form. -/
namespace Sys2Proof.Machine

@[simp] theorem cget_nil {w : Nat} (k : Nat) : cget ([] : Cells w) k = 0 := rfl

theorem cget_cins {w : Nat} (c : Cells w) (k j : Nat) (v : BitVec w) :
    cget (cins k v c) j = if k = j then v else cget c j := by
  induction c with
  | nil => simp [cins, cget]
  | cons e r ih =>
    obtain ⟨k', v'⟩ := e
    simp only [cins]
    split
    · simp [cget]
    · split
      · subst_vars; simp only [cget]; split <;> simp_all
      · simp only [cget, ih]; split <;> split <;> simp_all

theorem cget_filter {w : Nat} (p : Nat → Bool) (c : Cells w) (j : Nat) :
    cget (c.filter (fun e => p e.1)) j = if p j then cget c j else 0 := by
  induction c with
  | nil => simp
  | cons e r ih =>
    obtain ⟨k', v'⟩ := e
    simp only [List.filter_cons]
    split
    · simp only [cget, ih]; split <;> simp_all
    · rw [ih]
      by_cases hj : k' = j
      · subst hj; simp_all
      · simp [cget, hj]

theorem cget_cdel {w : Nat} (c : Cells w) (k j : Nat) : cget (cdel k c) j = if k = j then 0 else cget c j := by
  rw [cdel, cget_filter (fun a => a != k)]
  by_cases h : k = j
  · simp [h]
  · simp [h, Ne.symm h]

/-- A read after a write. -/
theorem cget_cset {w : Nat} (c : Cells w) (k j : Nat) (v : BitVec w) :
    cget (cset c k v) j = if k = j then v else cget c j := by
  unfold cset
  split
  · simp_all [cget_cdel]
  · exact cget_cins c k j v

@[simp] theorem cget_cset_same {w : Nat} (c : Cells w) (k : Nat) (v : BitVec w) : cget (cset c k v) k = v := by
  simp [cget_cset]

theorem cget_cset_other {w : Nat} (c : Cells w) {k j : Nat} (v : BitVec w) (h : k ≠ j) :
    cget (cset c k v) j = cget c j := by
  simp [cget_cset, h]

/-- A read after many writes, where none of them writes the key. -/
theorem cget_csetAll_other {w : Nat} (es : List (Nat × BitVec w)) (c : Cells w) (j : Nat)
    (h : ∀ e ∈ es, e.1 ≠ j) : cget (csetAll c es) j = cget c j := by
  induction es generalizing c with
  | nil => rfl
  | cons e r ih =>
    simp only [List.mem_cons, forall_eq_or_imp] at h
    rw [csetAll, List.foldl_cons, ← csetAll, ih _ h.2, cget_cset_other _ _ h.1]

/-- A read outside the range written. -/
theorem cget_csetN_other {w : Nat} (vs : List (BitVec w)) (c : Cells w) (k j : Nat)
    (h : j < k ∨ k + vs.length ≤ j) : cget (csetN c k vs) j = cget c j := by
  induction vs generalizing c k with
  | nil => rfl
  | cons v r ih =>
    simp only [List.length_cons] at h
    rw [csetN, ih _ _ (by omega), cget_cset_other _ _ (by omega)]

/-- A range read back as it was written. -/
theorem cgetN_csetN {w : Nat} (vs : List (BitVec w)) (c : Cells w) (k : Nat) :
    cgetN (csetN c k vs) k vs.length = vs := by
  induction vs generalizing c k with
  | nil => rfl
  | cons v r ih =>
    simp only [csetN, List.length_cons, cgetN, ih]
    rw [cget_csetN_other _ _ _ _ (by omega), cget_cset_same]

/-! ## The canonical form -/

theorem cwfFrom_mono {w : Nat} {lo lo' : Nat} (c : Cells w) (h : lo' ≤ lo) (hc : cwfFrom lo c = true) :
    cwfFrom lo' c = true := by
  cases c with
  | nil => rfl
  | cons e r =>
    simp only [cwfFrom, Bool.and_eq_true, decide_eq_true_eq] at *
    exact ⟨⟨by omega, hc.1.2⟩, hc.2⟩

theorem cwfFrom_filter {w : Nat} (p : Nat × BitVec w → Bool) (c : Cells w) (lo : Nat) (hc : cwfFrom lo c = true) :
    cwfFrom lo (c.filter p) = true := by
  induction c generalizing lo with
  | nil => rfl
  | cons e r ih =>
    obtain ⟨k, v⟩ := e
    simp only [cwfFrom, Bool.and_eq_true, decide_eq_true_eq] at hc
    simp only [List.filter_cons]
    split
    · simp only [cwfFrom, Bool.and_eq_true, decide_eq_true_eq]
      exact ⟨hc.1, ih _ hc.2⟩
    · exact ih _ (cwfFrom_mono r (by omega) hc.2)

theorem cwfFrom_cins {w : Nat} (c : Cells w) (lo k : Nat) (v : BitVec w) (hk : lo ≤ k) (hv : v ≠ 0)
    (hc : cwfFrom lo c = true) : cwfFrom lo (cins k v c) = true := by
  induction c generalizing lo with
  | nil => simp only [cins, cwfFrom, Bool.and_eq_true, decide_eq_true_eq, bne_iff_ne]; exact ⟨⟨hk, hv⟩, trivial⟩
  | cons e r ih =>
    obtain ⟨k', v'⟩ := e
    simp only [cwfFrom, Bool.and_eq_true, decide_eq_true_eq, bne_iff_ne] at hc
    simp only [cins]
    split
    · simp only [cwfFrom, Bool.and_eq_true, decide_eq_true_eq, bne_iff_ne]
      exact ⟨⟨hk, hv⟩, ⟨by omega, hc.1.2⟩, hc.2⟩
    · split
      · subst_vars
        simp only [cwfFrom, Bool.and_eq_true, decide_eq_true_eq, bne_iff_ne]
        exact ⟨⟨hk, hv⟩, hc.2⟩
      · simp only [cwfFrom, Bool.and_eq_true, decide_eq_true_eq, bne_iff_ne]
        exact ⟨hc.1, ih (k' + 1) (by omega) hc.2⟩

theorem cwf_cset {w : Nat} (c : Cells w) (k : Nat) (v : BitVec w) (hc : cwf c = true) : cwf (cset c k v) = true := by
  unfold cset cwf at *
  split
  · exact cwfFrom_filter _ c 0 hc
  · exact cwfFrom_cins c 0 k v (by omega) ‹_› hc

theorem cwf_csetAll {w : Nat} (es : List (Nat × BitVec w)) (c : Cells w) (hc : cwf c = true) :
    cwf (csetAll c es) = true := by
  induction es generalizing c with
  | nil => exact hc
  | cons e r ih => exact ih _ (cwf_cset c _ _ hc)

theorem cwf_csetN {w : Nat} (vs : List (BitVec w)) (c : Cells w) (k : Nat) (hc : cwf c = true) :
    cwf (csetN c k vs) = true := by
  induction vs generalizing c k with
  | nil => exact hc
  | cons v r ih => exact ih _ _ (cwf_cset c _ _ hc)

theorem cwf_filter {w : Nat} (p : Nat × BitVec w → Bool) (c : Cells w) (hc : cwf c = true) : cwf (c.filter p) = true :=
  cwfFrom_filter p c 0 hc

theorem cwf_cclear {w : Nat} (c : Cells w) (lo hi : Nat) (hc : cwf c = true) : cwf (cclear c lo hi) = true :=
  cwf_filter _ c hc

end Sys2Proof.Machine
end

