-- ==== Sys2Proof/Laws/Context.lean ====
section
/-! SUPPORT. Blocks of bytes with four bytes put in, and the area that carries its own CRC. -/
namespace Sys2Proof.Machine

theorem leNat_leBytes (n x : Nat) : leNat (leBytes n x) = x % 256 ^ n := by
  induction n generalizing x with
  | zero => simp [leBytes, leNat, Nat.mod_one]
  | succ n ih =>
    have h : x % 256 ^ (n + 1) = x % 256 + 256 * (x / 256 % 256 ^ n) := by
      rw [Nat.pow_succ, Nat.mul_comm, Nat.mod_mul]
    simp [leBytes, leNat, ih, h]
theorem length_leBytes (n x : Nat) : (leBytes n x).length = n := by
  induction n generalizing x with
  | zero => rfl
  | succ n ih => simp [leBytes, ih]

theorem length_putAt (bs xs : List Byte) (o : Nat) (h : o + xs.length ≤ bs.length) : (putAt bs o xs).length = bs.length := by
  simp only [putAt, List.length_append, List.length_take, List.length_drop]
  omega
/-- What lies before or after the bytes put in stands. -/
theorem leAt_putAt_before (bs xs : List Byte) (o k n : Nat) (h : o ≤ bs.length) (hk : k + n ≤ o) :
    leAt (putAt bs o xs) k n = leAt bs k n := by
  have ht : (bs.take o).length = o := by simp [h]
  rw [leAt, leAt, putAt, List.append_assoc, List.drop_append_of_le_length (by omega), List.take_append_of_le_length]
  · rw [List.drop_take, List.take_take, Nat.min_eq_left (by omega)]
  · simp only [List.length_drop, ht]
    omega
theorem leAt_putAt_after (bs xs : List Byte) (o k n : Nat) (h : o ≤ bs.length) (hk : o + xs.length ≤ k) :
    leAt (putAt bs o xs) k n = leAt bs k n := by
  have ht : (bs.take o ++ xs).length = o + xs.length := by simp [h]
  rw [leAt, leAt, putAt, List.drop_append, List.drop_eq_nil_of_le (by omega), List.nil_append, List.drop_drop, ht]
  congr 3
  omega
theorem leAt_putAt_same (bs xs : List Byte) (o : Nat) (h : o ≤ bs.length) :
    leAt (putAt bs o xs) o xs.length = leNat xs := by
  have ht : (bs.take o).length = o := by simp [h]
  rw [leAt, putAt, List.append_assoc, List.drop_append_of_le_length (by omega), List.drop_eq_nil_of_le (by omega),
    List.nil_append, List.take_append_of_le_length (by omega), List.take_length]
/-- Put in something else of that length: it replaces what was put in. -/
theorem putAt_putAt (bs xs ys : List Byte) (o : Nat) (h : o ≤ bs.length) (hl : xs.length = ys.length) :
    putAt (putAt bs o xs) o ys = putAt bs o ys := by
  have ht : (bs.take o).length = o := by simp [h]
  have hx : (bs.take o ++ xs).length = o + xs.length := by simp [h]
  simp only [putAt, List.append_assoc]
  rw [List.take_append_of_le_length (by omega), List.take_take, Nat.min_self, ← hl]
  rw [← List.append_assoc (bs.take o) xs, List.drop_append, List.drop_eq_nil_of_le (by omega), hx]
  simp
theorem putAt_self (bs xs : List Byte) (o : Nat) (h : (bs.drop o).take xs.length = xs) : putAt bs o xs = bs := by
  conv => rhs; rw [← List.take_append_drop o bs, ← List.take_append_drop xs.length (bs.drop o), h, List.drop_drop]
  simp [putAt]

/-- An area with its CRC put into its header is sound where its other fields are. -/
theorem areaOk_sealed (raw : List Byte) (hl : 0x200 ≤ raw.length) (hz : (raw.drop 0x1FC).take 4 = zeros 4)
    (h0 : leAt raw 0 4 = 0x10000) (h4 : leAt raw 4 4 = areaSize (leAt raw 8 2) (leAt raw 0xA 2) (leAt raw 0xC 1))
    (hn : raw.length = leAt raw 4 4) (hp : (span 0 16).all (fun i => !bitN (leAt raw (0x1E10 + 32 * i) 4) 4) = true) :
    areaOk (putAt raw 0x1FC (bitsLe 4 (crc32c raw))) = true := by
  have hc : (bitsLe 4 (crc32c raw)).length = 4 := length_leBytes _ _
  have back : putAt (putAt raw 0x1FC (bitsLe 4 (crc32c raw))) 0x1FC (zeros 4) = raw := by
    rw [putAt_putAt _ _ _ _ (by omega) (by rw [hc]; rfl)]
    exact putAt_self _ _ _ hz
  have crc : leAt (putAt raw 0x1FC (bitsLe 4 (crc32c raw))) 0x1FC 4 = (crc32c raw).toNat := by
    have := leAt_putAt_same raw (bitsLe 4 (crc32c raw)) 0x1FC (by omega)
    rw [hc] at this
    rw [this, bitsLe, leNat_leBytes]
    exact Nat.mod_eq_of_lt (crc32c raw).isLt
  have len : (putAt raw 0x1FC (bitsLe 4 (crc32c raw))).length = raw.length := length_putAt _ _ _ (by omega)
  have far : ∀ i ∈ span 0 16, leAt (putAt raw 0x1FC (bitsLe 4 (crc32c raw))) (0x1E10 + 32 * i) 4 = leAt raw (0x1E10 + 32 * i) 4 :=
    fun i _ => leAt_putAt_after _ _ _ _ _ (by omega) (by omega)
  have near : ∀ k n, k + n ≤ 0x1FC → leAt (putAt raw 0x1FC (bitsLe 4 (crc32c raw))) k n = leAt raw k n :=
    fun k n h => leAt_putAt_before _ _ _ _ _ (by omega) h
  rw [areaOk, back, crc, len]
  rw [near 0 4 (by omega), near 4 4 (by omega), near 8 2 (by omega), near 0xA 2 (by omega), near 0xC 1 (by omega)]
  simp only [h0, ← h4, ← hn, beq_self_eq_true, Bool.true_and]
  rw [List.all_eq_true] at hp ⊢
  intro i hi
  rw [far i hi]
  exact hp i hi

end Sys2Proof.Machine
end

