-- ==== Sys2Proof/Laws/Exec.lean ====
section
/-! SUPPORT. The meaning each instruction calls: one equation per constructor, so that no proof unfolds the dispatch. -/
namespace Sys2Proof.Machine

@[simp] theorem exec_ill rest (s : State) : exec (.ill rest) s = execIll rest s := rfl
@[simp] theorem exec_reservedOpcode opc rest (s : State) : exec (.reservedOpcode opc rest) s = execReservedOpcode opc rest s := rfl
@[simp] theorem exec_sadd x (s : State) : exec (.sadd x) s = execSadd x s := rfl
@[simp] theorem exec_ssub x (s : State) : exec (.ssub x) s = execSsub x s := rfl
@[simp] theorem exec_smul x (s : State) : exec (.smul x) s = execSmul x s := rfl
@[simp] theorem exec_smulh x (s : State) : exec (.smulh x) s = execSmulh x s := rfl
@[simp] theorem exec_sdiv x (s : State) : exec (.sdiv x) s = execSdiv x s := rfl
@[simp] theorem exec_srem x (s : State) : exec (.srem x) s = execSrem x s := rfl
@[simp] theorem exec_sand x (s : State) : exec (.sand x) s = execSand x s := rfl
@[simp] theorem exec_sor x (s : State) : exec (.sor x) s = execSor x s := rfl
@[simp] theorem exec_sxor x (s : State) : exec (.sxor x) s = execSxor x s := rfl
@[simp] theorem exec_sshl x (s : State) : exec (.sshl x) s = execSshl x s := rfl
@[simp] theorem exec_sshr x (s : State) : exec (.sshr x) s = execSshr x s := rfl
@[simp] theorem exec_ssra x (s : State) : exec (.ssra x) s = execSsra x s := rfl
@[simp] theorem exec_smin x (s : State) : exec (.smin x) s = execSmin x s := rfl
@[simp] theorem exec_smax x (s : State) : exec (.smax x) s = execSmax x s := rfl
@[simp] theorem exec_scmp x (s : State) : exec (.scmp x) s = execScmp x s := rfl
@[simp] theorem exec_ssel x (s : State) : exec (.ssel x) s = execSsel x s := rfl
@[simp] theorem exec_smov x (s : State) : exec (.smov x) s = execSmov x s := rfl
@[simp] theorem exec_sbfx x (s : State) : exec (.sbfx x) s = execSbfx x s := rfl
@[simp] theorem exec_sbfi x (s : State) : exec (.sbfi x) s = execSbfi x s := rfl
@[simp] theorem exec_sbitc x (s : State) : exec (.sbitc x) s = execSbitc x s := rfl
@[simp] theorem exec_slea x (s : State) : exec (.slea x) s = execSlea x s := rfl
@[simp] theorem exec_sget x (s : State) : exec (.sget x) s = execSget x s := rfl
@[simp] theorem exec_sput x (s : State) : exec (.sput x) s = execSput x s := rfl
@[simp] theorem exec_sfma x (s : State) : exec (.sfma x) s = execSfma x s := rfl
@[simp] theorem exec_sfcvt x (s : State) : exec (.sfcvt x) s = execSfcvt x s := rfl
@[simp] theorem exec_bra x (s : State) : exec (.bra x) s = execBra x s := rfl
@[simp] theorem exec_brx x (s : State) : exec (.brx x) s = execBrx x s := rfl
@[simp] theorem exec_lpad x (s : State) : exec (.lpad x) s = execLpad x s := rfl
@[simp] theorem exec_call x (s : State) : exec (.call x) s = execCall x s := rfl
@[simp] theorem exec_ret x (s : State) : exec (.ret x) s = execRet x s := rfl
@[simp] theorem exec_loop x (s : State) : exec (.loop x) s = execLoop x s := rfl
@[simp] theorem exec_dbr x (s : State) : exec (.dbr x) s = execDbr x s := rfl
@[simp] theorem exec_join x (s : State) : exec (.join x) s = execJoin x s := rfl
@[simp] theorem exec_exit x (s : State) : exec (.exit x) s = execExit x s := rfl
@[simp] theorem exec_yield x (s : State) : exec (.yield x) s = execYield x s := rfl
@[simp] theorem exec_waitc x (s : State) : exec (.waitc x) s = execWaitc x s := rfl
@[simp] theorem exec_waith x (s : State) : exec (.waith x) s = execWaith x s := rfl
@[simp] theorem exec_tsth x (s : State) : exec (.tsth x) s = execTsth x s := rfl
@[simp] theorem exec_canh x (s : State) : exec (.canh x) s = execCanh x s := rfl
@[simp] theorem exec_bar x (s : State) : exec (.bar x) s = execBar x s := rfl
@[simp] theorem exec_launch x (s : State) : exec (.launch x) s = execLaunch x s := rfl
@[simp] theorem exec_spawn x (s : State) : exec (.spawn x) s = execSpawn x s := rfl
@[simp] theorem exec_spawnf x (s : State) : exec (.spawnf x) s = execSpawnf x s := rfl
@[simp] theorem exec_trap x (s : State) : exec (.trap x) s = execTrap x s := rfl
@[simp] theorem exec_brk x (s : State) : exec (.brk x) s = execBrk x s := rfl
@[simp] theorem exec_sysc x (s : State) : exec (.sysc x) s = execSysc x s := rfl
@[simp] theorem exec_pause x (s : State) : exec (.pause x) s = execPause x s := rfl
@[simp] theorem exec_sploop x (s : State) : exec (.sploop x) s = execSploop x s := rfl
@[simp] theorem exec_guess x (s : State) : exec (.guess x) s = execGuess x s := rfl
@[simp] theorem exec_accept x (s : State) : exec (.accept x) s = execAccept x s := rfl
@[simp] theorem exec_spend x (s : State) : exec (.spend x) s = execSpend x s := rfl
@[simp] theorem exec_spmark x (s : State) : exec (.spmark x) s = execSpmark x s := rfl
@[simp] theorem exec_spquit x (s : State) : exec (.spquit x) s = execSpquit x s := rfl
@[simp] theorem exec_vaddI32 x (s : State) : exec (.vaddI32 x) s = execVaddI32 x s := rfl
@[simp] theorem exec_vaddI64 x (s : State) : exec (.vaddI64 x) s = execVaddI64 x s := rfl
@[simp] theorem exec_vsubI32 x (s : State) : exec (.vsubI32 x) s = execVsubI32 x s := rfl
@[simp] theorem exec_vsubI64 x (s : State) : exec (.vsubI64 x) s = execVsubI64 x s := rfl
@[simp] theorem exec_vmulI32 x (s : State) : exec (.vmulI32 x) s = execVmulI32 x s := rfl
@[simp] theorem exec_vmulI64 x (s : State) : exec (.vmulI64 x) s = execVmulI64 x s := rfl
@[simp] theorem exec_vmadI32 x (s : State) : exec (.vmadI32 x) s = execVmadI32 x s := rfl
@[simp] theorem exec_vand x (s : State) : exec (.vand x) s = execVand x s := rfl
@[simp] theorem exec_vor x (s : State) : exec (.vor x) s = execVor x s := rfl
@[simp] theorem exec_vxor x (s : State) : exec (.vxor x) s = execVxor x s := rfl
@[simp] theorem exec_vshl x (s : State) : exec (.vshl x) s = execVshl x s := rfl
@[simp] theorem exec_vshr x (s : State) : exec (.vshr x) s = execVshr x s := rfl
@[simp] theorem exec_vsra x (s : State) : exec (.vsra x) s = execVsra x s := rfl
@[simp] theorem exec_vminI32 x (s : State) : exec (.vminI32 x) s = execVminI32 x s := rfl
@[simp] theorem exec_vmaxI32 x (s : State) : exec (.vmaxI32 x) s = execVmaxI32 x s := rfl
@[simp] theorem exec_vcmpI32 x (s : State) : exec (.vcmpI32 x) s = execVcmpI32 x s := rfl
@[simp] theorem exec_vcmpI64 x (s : State) : exec (.vcmpI64 x) s = execVcmpI64 x s := rfl
@[simp] theorem exec_vsel x (s : State) : exec (.vsel x) s = execVsel x s := rfl
@[simp] theorem exec_vmov x (s : State) : exec (.vmov x) s = execVmov x s := rfl
@[simp] theorem exec_vbfx x (s : State) : exec (.vbfx x) s = execVbfx x s := rfl
@[simp] theorem exec_vbitc x (s : State) : exec (.vbitc x) s = execVbitc x s := rfl
@[simp] theorem exec_vtid x (s : State) : exec (.vtid x) s = execVtid x s := rfl
@[simp] theorem exec_vshfl x (s : State) : exec (.vshfl x) s = execVshfl x s := rfl
@[simp] theorem exec_vscan x (s : State) : exec (.vscan x) s = execVscan x s := rfl
@[simp] theorem exec_vpred x (s : State) : exec (.vpred x) s = execVpred x s := rfl
@[simp] theorem exec_vrds x (s : State) : exec (.vrds x) s = execVrds x s := rfl
@[simp] theorem exec_vdot4I8 x (s : State) : exec (.vdot4I8 x) s = execVdot4I8 x s := rfl
@[simp] theorem exec_vfaddF32 x (s : State) : exec (.vfaddF32 x) s = execVfaddF32 x s := rfl
@[simp] theorem exec_vfaddF64 x (s : State) : exec (.vfaddF64 x) s = execVfaddF64 x s := rfl
@[simp] theorem exec_vfmulF32 x (s : State) : exec (.vfmulF32 x) s = execVfmulF32 x s := rfl
@[simp] theorem exec_vfmulF64 x (s : State) : exec (.vfmulF64 x) s = execVfmulF64 x s := rfl
@[simp] theorem exec_vfmaF32 x (s : State) : exec (.vfmaF32 x) s = execVfmaF32 x s := rfl
@[simp] theorem exec_vfmaF64 x (s : State) : exec (.vfmaF64 x) s = execVfmaF64 x s := rfl
@[simp] theorem exec_vfmaH2 x (s : State) : exec (.vfmaH2 x) s = execVfmaH2 x s := rfl
@[simp] theorem exec_vfmaBf2 x (s : State) : exec (.vfmaBf2 x) s = execVfmaBf2 x s := rfl
@[simp] theorem exec_vfminF32 x (s : State) : exec (.vfminF32 x) s = execVfminF32 x s := rfl
@[simp] theorem exec_vfmaxF32 x (s : State) : exec (.vfmaxF32 x) s = execVfmaxF32 x s := rfl
@[simp] theorem exec_vfminF64 x (s : State) : exec (.vfminF64 x) s = execVfminF64 x s := rfl
@[simp] theorem exec_vfmaxF64 x (s : State) : exec (.vfmaxF64 x) s = execVfmaxF64 x s := rfl
@[simp] theorem exec_vfcmpF32 x (s : State) : exec (.vfcmpF32 x) s = execVfcmpF32 x s := rfl
@[simp] theorem exec_vfcmpF64 x (s : State) : exec (.vfcmpF64 x) s = execVfcmpF64 x s := rfl
@[simp] theorem exec_vfdivF32 x (s : State) : exec (.vfdivF32 x) s = execVfdivF32 x s := rfl
@[simp] theorem exec_vfdivF64 x (s : State) : exec (.vfdivF64 x) s = execVfdivF64 x s := rfl
@[simp] theorem exec_vfsqrtF32 x (s : State) : exec (.vfsqrtF32 x) s = execVfsqrtF32 x s := rfl
@[simp] theorem exec_vfsqrtF64 x (s : State) : exec (.vfsqrtF64 x) s = execVfsqrtF64 x s := rfl
@[simp] theorem exec_vfrcpF32 x (s : State) : exec (.vfrcpF32 x) s = execVfrcpF32 x s := rfl
@[simp] theorem exec_vfrsqF32 x (s : State) : exec (.vfrsqF32 x) s = execVfrsqF32 x s := rfl
@[simp] theorem exec_vfexp2F32 x (s : State) : exec (.vfexp2F32 x) s = execVfexp2F32 x s := rfl
@[simp] theorem exec_vflog2F32 x (s : State) : exec (.vflog2F32 x) s = execVflog2F32 x s := rfl
@[simp] theorem exec_vfclass x (s : State) : exec (.vfclass x) s = execVfclass x s := rfl
@[simp] theorem exec_vfrnd x (s : State) : exec (.vfrnd x) s = execVfrnd x s := rfl
@[simp] theorem exec_vcvtFf x (s : State) : exec (.vcvtFf x) s = execVcvtFf x s := rfl
@[simp] theorem exec_vcvtFi x (s : State) : exec (.vcvtFi x) s = execVcvtFi x s := rfl
@[simp] theorem exec_vcvtIf x (s : State) : exec (.vcvtIf x) s = execVcvtIf x s := rfl
@[simp] theorem exec_vqnt x (s : State) : exec (.vqnt x) s = execVqnt x s := rfl
@[simp] theorem exec_vdqnt x (s : State) : exec (.vdqnt x) s = execVdqnt x s := rfl
@[simp] theorem exec_vbsc x (s : State) : exec (.vbsc x) s = execVbsc x s := rfl
@[simp] theorem exec_lds x (s : State) : exec (.lds x) s = execLds x s := rfl
@[simp] theorem exec_sts x (s : State) : exec (.sts x) s = execSts x s := rfl
@[simp] theorem exec_ldd x (s : State) : exec (.ldd x) s = execLdd x s := rfl
@[simp] theorem exec_std x (s : State) : exec (.std x) s = execStd x s := rfl
@[simp] theorem exec_ldl x (s : State) : exec (.ldl x) s = execLdl x s := rfl
@[simp] theorem exec_stl x (s : State) : exec (.stl x) s = execStl x s := rfl
@[simp] theorem exec_atoms x (s : State) : exec (.atoms x) s = execAtoms x s := rfl
@[simp] theorem exec_atomd x (s : State) : exec (.atomd x) s = execAtomd x s := rfl
@[simp] theorem exec_fence x (s : State) : exec (.fence x) s = execFence x s := rfl
@[simp] theorem exec_sld x (s : State) : exec (.sld x) s = execSld x s := rfl
@[simp] theorem exec_sst x (s : State) : exec (.sst x) s = execSst x s := rfl
@[simp] theorem exec_satom x (s : State) : exec (.satom x) s = execSatom x s := rfl
@[simp] theorem exec_qpop x (s : State) : exec (.qpop x) s = execQpop x s := rfl
@[simp] theorem exec_qpush x (s : State) : exec (.qpush x) s = execQpush x s := rfl
@[simp] theorem exec_cpy x (s : State) : exec (.cpy x) s = execCpy x s := rfl
@[simp] theorem exec_cpyt x (s : State) : exec (.cpyt x) s = execCpyt x s := rfl
@[simp] theorem exec_gat x (s : State) : exec (.gat x) s = execGat x s := rfl
@[simp] theorem exec_gatp x (s : State) : exec (.gatp x) s = execGatp x s := rfl
@[simp] theorem exec_sca x (s : State) : exec (.sca x) s = execSca x s := rfl
@[simp] theorem exec_scaa x (s : State) : exec (.scaa x) s = execScaa x s := rfl
@[simp] theorem exec_amog x (s : State) : exec (.amog x) s = execAmog x s := rfl
@[simp] theorem exec_sigN x (s : State) : exec (.sigN x) s = execSigN x s := rfl
@[simp] theorem exec_sigW x (s : State) : exec (.sigW x) s = execSigW x s := rfl
@[simp] theorem exec_ctrs x (s : State) : exec (.ctrs x) s = execCtrs x s := rfl
@[simp] theorem exec_triga x (s : State) : exec (.triga x) s = execTriga x s := rfl
@[simp] theorem exec_coll x (s : State) : exec (.coll x) s = execColl x s := rfl
@[simp] theorem exec_kvapp x (s : State) : exec (.kvapp x) s = execKvapp x s := rfl
@[simp] theorem exec_kvfork x (s : State) : exec (.kvfork x) s = execKvfork x s := rfl
@[simp] theorem exec_kvmap x (s : State) : exec (.kvmap x) s = execKvmap x s := rfl
@[simp] theorem exec_kvfree x (s : State) : exec (.kvfree x) s = execKvfree x s := rfl
@[simp] theorem exec_pfxf x (s : State) : exec (.pfxf x) s = execPfxf x s := rfl
@[simp] theorem exec_pfxi x (s : State) : exec (.pfxi x) s = execPfxi x s := rfl
@[simp] theorem exec_route x (s : State) : exec (.route x) s = execRoute x s := rfl
@[simp] theorem exec_edrn x (s : State) : exec (.edrn x) s = execEdrn x s := rfl
@[simp] theorem exec_mmaE4 x (s : State) : exec (.mmaE4 x) s = execMmaE4 x s := rfl
@[simp] theorem exec_mmaE5 x (s : State) : exec (.mmaE5 x) s = execMmaE5 x s := rfl
@[simp] theorem exec_mmaNx4 x (s : State) : exec (.mmaNx4 x) s = execMmaNx4 x s := rfl
@[simp] theorem exec_mmaBf16 x (s : State) : exec (.mmaBf16 x) s = execMmaBf16 x s := rfl
@[simp] theorem exec_mmaF16 x (s : State) : exec (.mmaF16 x) s = execMmaF16 x s := rfl
@[simp] theorem exec_mmaF32 x (s : State) : exec (.mmaF32 x) s = execMmaF32 x s := rfl
@[simp] theorem exec_mmaF64 x (s : State) : exec (.mmaF64 x) s = execMmaF64 x s := rfl
@[simp] theorem exec_mmaI8 x (s : State) : exec (.mmaI8 x) s = execMmaI8 x s := rfl
@[simp] theorem exec_mmspE4 x (s : State) : exec (.mmspE4 x) s = execMmspE4 x s := rfl
@[simp] theorem exec_mmspBf16 x (s : State) : exec (.mmspBf16 x) s = execMmspBf16 x s := rfl
@[simp] theorem exec_mmssBf16 x (s : State) : exec (.mmssBf16 x) s = execMmssBf16 x s := rfl
@[simp] theorem exec_mmrkBf16 x (s : State) : exec (.mmrkBf16 x) s = execMmrkBf16 x s := rfl
@[simp] theorem exec_accdef x (s : State) : exec (.accdef x) s = execAccdef x s := rfl
@[simp] theorem exec_accld x (s : State) : exec (.accld x) s = execAccld x s := rfl
@[simp] theorem exec_accst x (s : State) : exec (.accst x) s = execAccst x s := rfl
@[simp] theorem exec_accstat x (s : State) : exec (.accstat x) s = execAccstat x s := rfl
@[simp] theorem exec_tld x (s : State) : exec (.tld x) s = execTld x s := rfl
@[simp] theorem exec_tst x (s : State) : exec (.tst x) s = execTst x s := rfl
@[simp] theorem exec_tdesc x (s : State) : exec (.tdesc x) s = execTdesc x s := rfl
@[simp] theorem exec_rkins x (s : State) : exec (.rkins x) s = execRkins x s := rfl
@[simp] theorem exec_rkmrg x (s : State) : exec (.rkmrg x) s = execRkmrg x s := rfl
@[simp] theorem exec_rkthr x (s : State) : exec (.rkthr x) s = execRkthr x s := rfl
@[simp] theorem exec_rkout x (s : State) : exec (.rkout x) s = execRkout x s := rfl
@[simp] theorem exec_sysrd x (s : State) : exec (.sysrd x) s = execSysrd x s := rfl
@[simp] theorem exec_syswr x (s : State) : exec (.syswr x) s = execSyswr x s := rfl
@[simp] theorem exec_eret x (s : State) : exec (.eret x) s = execEret x s := rfl
@[simp] theorem exec_monc x (s : State) : exec (.monc x) s = execMonc x s := rfl
@[simp] theorem exec_tlbi x (s : State) : exec (.tlbi x) s = execTlbi x s := rfl
@[simp] theorem exec_ctxsv x (s : State) : exec (.ctxsv x) s = execCtxsv x s := rfl
@[simp] theorem exec_ctxld x (s : State) : exec (.ctxld x) s = execCtxld x s := rfl
@[simp] theorem exec_haltc x (s : State) : exec (.haltc x) s = execHaltc x s := rfl
@[simp] theorem exec_pgchk x (s : State) : exec (.pgchk x) s = execPgchk x s := rfl
@[simp] theorem exec_apSld x (s : State) : exec (.apSld x) s = execApSld x s := rfl
@[simp] theorem exec_apQpop x (s : State) : exec (.apQpop x) s = execApQpop x s := rfl
@[simp] theorem exec_apQpush x (s : State) : exec (.apQpush x) s = execApQpush x s := rfl
@[simp] theorem exec_apExit x (s : State) : exec (.apExit x) s = execApExit x s := rfl
@[simp] theorem exec_loadDataArrival load elem (s : State) : exec (.loadDataArrival load elem) s = execLoadDataArrival load elem s := rfl
@[simp] theorem exec_storePerformed store (s : State) : exec (.storePerformed store) s = execStorePerformed store s := rfl
@[simp] theorem exec_ownershipGrant op (s : State) : exec (.ownershipGrant op) s = execOwnershipGrant op s := rfl
@[simp] theorem exec_sourceLineRelease op line (s : State) : exec (.sourceLineRelease op line) s = execSourceLineRelease op line s := rfl
@[simp] theorem exec_engineCompletion op (s : State) : exec (.engineCompletion op) s = execEngineCompletion op s := rfl
@[simp] theorem exec_cancelStop op (s : State) : exec (.cancelStop op) s = execCancelStop op s := rfl
@[simp] theorem exec_cartLocalSwitch op (s : State) : exec (.cartLocalSwitch op) s = execCartLocalSwitch op s := rfl
@[simp] theorem exec_cartHomeSwitch sub (s : State) : exec (.cartHomeSwitch sub) s = execCartHomeSwitch sub s := rfl
@[simp] theorem exec_rowEngineCart part (s : State) : exec (.rowEngineCart part) s = execRowEngineCart part s := rfl
@[simp] theorem exec_bridgePoolCombine sub die (s : State) : exec (.bridgePoolCombine sub die) s = execBridgePoolCombine sub die s := rfl
@[simp] theorem exec_replySwitchCombine reply (s : State) : exec (.replySwitchCombine reply) s = execReplySwitchCombine reply s := rfl
@[simp] theorem exec_cartReplyPlace reply (s : State) : exec (.cartReplyPlace reply) s = execCartReplyPlace reply s := rfl
@[simp] theorem exec_subcartHoldRelease sub (s : State) : exec (.subcartHoldRelease sub) s = execSubcartHoldRelease sub s := rfl
@[simp] theorem exec_subcartNotreadyTimeout sub (s : State) : exec (.subcartNotreadyTimeout sub) s = execSubcartNotreadyTimeout sub s := rfl
@[simp] theorem exec_collEnd coll (s : State) : exec (.collEnd coll) s = execCollEnd coll s := rfl
@[simp] theorem exec_collSend coll (s : State) : exec (.collSend coll) s = execCollSend coll s := rfl
@[simp] theorem exec_collRecv coll (s : State) : exec (.collRecv coll) s = execCollRecv coll s := rfl
@[simp] theorem exec_collRrs coll (s : State) : exec (.collRrs coll) s = execCollRrs coll s := rfl
@[simp] theorem exec_collCopy coll (s : State) : exec (.collCopy coll) s = execCollCopy coll s := rfl
@[simp] theorem exec_collWait coll (s : State) : exec (.collWait coll) s = execCollWait coll s := rfl
@[simp] theorem exec_collLoop coll (s : State) : exec (.collLoop coll) s = execCollLoop coll s := rfl
@[simp] theorem exec_collCmb coll (s : State) : exec (.collCmb coll) s = execCollCmb coll s := rfl
@[simp] theorem exec_collSlotStart coll (s : State) : exec (.collSlotStart coll) s = execCollSlotStart coll s := rfl
@[simp] theorem exec_collStepTimeout coll (s : State) : exec (.collStepTimeout coll) s = execCollStepTimeout coll s := rfl
@[simp] theorem exec_collStartTimeout op (s : State) : exec (.collStartTimeout op) s = execCollStartTimeout op s := rfl
@[simp] theorem exec_combineContribution msg (s : State) : exec (.combineContribution msg) s = execCombineContribution msg s := rfl
@[simp] theorem exec_rawContributionArrival msg (s : State) : exec (.rawContributionArrival msg) s = execRawContributionArrival msg s := rfl
@[simp] theorem exec_combineEntryTimeout entry (s : State) : exec (.combineEntryTimeout entry) s = execCombineEntryTimeout entry s := rfl
@[simp] theorem exec_triggerFire trig (s : State) : exec (.triggerFire trig) s = execTriggerFire trig s := rfl
@[simp] theorem exec_triggerTimebaseTick trig (s : State) : exec (.triggerTimebaseTick trig) s = execTriggerTimebaseTick trig s := rfl
@[simp] theorem exec_yieldResume cid (s : State) : exec (.yieldResume cid) s = execYieldResume cid s := rfl
@[simp] theorem exec_launchAccept world q (s : State) : exec (.launchAccept world q) s = execLaunchAccept world q s := rfl
@[simp] theorem exec_coachPlace launch (s : State) : exec (.coachPlace launch) s = execCoachPlace launch s := rfl
@[simp] theorem exec_coachRetire coach (s : State) : exec (.coachRetire coach) s = execCoachRetire coach s := rfl
@[simp] theorem exec_successorStart coach (s : State) : exec (.successorStart coach) s = execSuccessorStart coach s := rfl
@[simp] theorem exec_binTimerExpiry core bin (s : State) : exec (.binTimerExpiry core bin) s = execBinTimerExpiry core bin s := rfl
@[simp] theorem exec_spawnedCarriagePlace firing (s : State) : exec (.spawnedCarriagePlace firing) s = execSpawnedCarriagePlace firing s := rfl
@[simp] theorem exec_spawnCoachRetire coach (s : State) : exec (.spawnCoachRetire coach) s = execSpawnCoachRetire coach s := rfl
@[simp] theorem exec_dbrRegroup cid (s : State) : exec (.dbrRegroup cid) s = execDbrRegroup cid s := rfl
@[simp] theorem exec_pathCarriageForm path (s : State) : exec (.pathCarriageForm path) s = execPathCarriageForm path s := rfl
@[simp] theorem exec_joinReconverge coach entry (s : State) : exec (.joinReconverge coach entry) s = execJoinReconverge coach entry s := rfl
@[simp] theorem exec_barRelease coach coreOnly (s : State) : exec (.barRelease coach coreOnly) s = execBarRelease coach coreOnly s := rfl
@[simp] theorem exec_spinTimeout cid (s : State) : exec (.spinTimeout cid) s = execSpinTimeout cid s := rfl
@[simp] theorem exec_passGrant quad (s : State) : exec (.passGrant quad) s = execPassGrant quad s := rfl
@[simp] theorem exec_passOvertake quad (s : State) : exec (.passOvertake quad) s = execPassOvertake quad s := rfl
@[simp] theorem exec_passWriteback quad (s : State) : exec (.passWriteback quad) s = execPassWriteback quad s := rfl
@[simp] theorem exec_kvReserve op (s : State) : exec (.kvReserve op) s = execKvReserve op s := rfl
@[simp] theorem exec_appendLand op (s : State) : exec (.appendLand op) s = execAppendLand op s := rfl
@[simp] theorem exec_specKvappRelease op (s : State) : exec (.specKvappRelease op) s = execSpecKvappRelease op s := rfl
@[simp] theorem exec_kvforkArrive op (s : State) : exec (.kvforkArrive op) s = execKvforkArrive op s := rfl
@[simp] theorem exec_kvfreeArrive op (s : State) : exec (.kvfreeArrive op) s = execKvfreeArrive op s := rfl
@[simp] theorem exec_pfxLookupArrive op (s : State) : exec (.pfxLookupArrive op) s = execPfxLookupArrive op s := rfl
@[simp] theorem exec_pfxInsertArrive op (s : State) : exec (.pfxInsertArrive op) s = execPfxInsertArrive op s := rfl
@[simp] theorem exec_scrubberTick pool (s : State) : exec (.scrubberTick pool) s = execScrubberTick pool s := rfl
@[simp] theorem exec_pgchkCheck op (s : State) : exec (.pgchkCheck op) s = execPgchkCheck op s := rfl
@[simp] theorem exec_poolDisable pool (s : State) : exec (.poolDisable pool) s = execPoolDisable pool s := rfl
@[simp] theorem exec_routeRun op (s : State) : exec (.routeRun op) s = execRouteRun op s := rfl
@[simp] theorem exec_routeNotreadyTimeout op (s : State) : exec (.routeNotreadyTimeout op) s = execRouteNotreadyTimeout op s := rfl
@[simp] theorem exec_windowStart cid (s : State) : exec (.windowStart cid) s = execWindowStart cid s := rfl
@[simp] theorem exec_windowEnd cid (s : State) : exec (.windowEnd cid) s = execWindowEnd cid s := rfl
@[simp] theorem exec_tlbiComplete cid (s : State) : exec (.tlbiComplete cid) s = execTlbiComplete cid s := rfl
@[simp] theorem exec_hostQtailWrite world q tail (s : State) : exec (.hostQtailWrite world q tail) s = execHostQtailWrite world q tail s := rfl
@[simp] theorem exec_qstatStopClear world q (s : State) : exec (.qstatStopClear world q) s = execQstatStopClear world q s := rfl
@[simp] theorem exec_poolEnable pool cfg (s : State) : exec (.poolEnable pool cfg) s = execPoolEnable pool cfg s := rfl
@[simp] theorem exec_preemptSaveRequest world prq (s : State) : exec (.preemptSaveRequest world prq) s = execPreemptSaveRequest world prq s := rfl
@[simp] theorem exec_preemptEligible world (s : State) : exec (.preemptEligible world) s = execPreemptEligible world s := rfl
@[simp] theorem exec_preemptDeadline world (s : State) : exec (.preemptDeadline world) s = execPreemptDeadline world s := rfl
@[simp] theorem exec_preemptRestoreRequest world prq (s : State) : exec (.preemptRestoreRequest world prq) s = execPreemptRestoreRequest world prq s := rfl
@[simp] theorem exec_restorePlace world (s : State) : exec (.restorePlace world) s = execRestorePlace world s := rfl
@[simp] theorem exec_debuggerHalt cid (s : State) : exec (.debuggerHalt cid) s = execDebuggerHalt cid s := rfl
@[simp] theorem exec_debuggerAccess core addr data (s : State) : exec (.debuggerAccess core addr data) s = execDebuggerAccess core addr data s := rfl
@[simp] theorem exec_mgmtRegisterWrite world reg data (s : State) : exec (.mgmtRegisterWrite world reg data) s = execMgmtRegisterWrite world reg data s := rfl
@[simp] theorem exec_resetKeyWrite key (s : State) : exec (.resetKeyWrite key) s = execResetKeyWrite key s := rfl
@[simp] theorem exec_cxlMemRequest world pa data (s : State) : exec (.cxlMemRequest world pa data) s = execCxlMemRequest world pa data s := rfl
@[simp] theorem exec_getVersion request (s : State) : exec (.getVersion request) s = execGetVersion request s := rfl
@[simp] theorem exec_getCapabilities request (s : State) : exec (.getCapabilities request) s = execGetCapabilities request s := rfl
@[simp] theorem exec_negotiateAlgorithms request (s : State) : exec (.negotiateAlgorithms request) s = execNegotiateAlgorithms request s := rfl
@[simp] theorem exec_getDigests request (s : State) : exec (.getDigests request) s = execGetDigests request s := rfl
@[simp] theorem exec_getCertificate request (s : State) : exec (.getCertificate request) s = execGetCertificate request s := rfl
@[simp] theorem exec_challenge request (s : State) : exec (.challenge request) s = execChallenge request s := rfl
@[simp] theorem exec_getMeasurements request (s : State) : exec (.getMeasurements request) s = execGetMeasurements request s := rfl
@[simp] theorem exec_akbexLinkTraining port peerRecord (s : State) : exec (.akbexLinkTraining port peerRecord) s = execAkbexLinkTraining port peerRecord s := rfl
@[simp] theorem exec_linkCrcReplay port good (s : State) : exec (.linkCrcReplay port good) s = execLinkCrcReplay port good s := rfl
@[simp] theorem exec_bootConfigVerify record (s : State) : exec (.bootConfigVerify record) s = execBootConfigVerify record s := rfl
@[simp] theorem exec_selfTestPass fn vrcap (s : State) : exec (.selfTestPass fn vrcap) s = execSelfTestPass fn vrcap s := rfl
@[simp] theorem exec_correctedError fn (s : State) : exec (.correctedError fn) s = execCorrectedError fn s := rfl
@[simp] theorem exec_containedError fn place (s : State) : exec (.containedError fn place) s = execContainedError fn place s := rfl
@[simp] theorem exec_uncontainedError fn cls loc (s : State) : exec (.uncontainedError fn cls loc) s = execUncontainedError fn cls loc s := rfl
@[simp] theorem exec_packageReset (s : State) : exec .packageReset s = execPackageReset s := rfl
@[simp] theorem exec_powerSample milliwatt hot (s : State) : exec (.powerSample milliwatt hot) s = execPowerSample milliwatt hot s := rfl
@[simp] theorem exec_clockStepUp (s : State) : exec .clockStepUp s = execClockStepUp s := rfl
@[simp] theorem exec_thermalTrip celsius (s : State) : exec (.thermalTrip celsius) s = execThermalTrip celsius s := rfl
@[simp] theorem exec_inputUndervoltage millivolt micros (s : State) : exec (.inputUndervoltage millivolt micros) s = execInputUndervoltage millivolt micros s := rfl
@[simp] theorem exec_peerLinkDown port (s : State) : exec (.peerLinkDown port) s = execPeerLinkDown port s := rfl
@[simp] theorem exec_cxlLinkDown (s : State) : exec .cxlLinkDown s = execCxlLinkDown s := rfl
@[simp] theorem exec_peerRequestArrival port req (s : State) : exec (.peerRequestArrival port req) s = execPeerRequestArrival port req s := rfl
@[simp] theorem exec_mgmtRegisterRead world reg (s : State) : exec (.mgmtRegisterRead world reg) s = execMgmtRegisterRead world reg s := rfl

end Sys2Proof.Machine
end

