-- ==== Sys2Proof/Laws/State.lean ====
section
/-! SUPPORT. What each named update of the state leaves in each field, and what it writes: one lemma per field per
update, true by definition, so that no proof unfolds a record update. -/
namespace Sys2Proof.Machine

/-! ## onSelf -/

@[simp] theorem onSelf_self (s : State) (f : Carriage → Carriage) : (onSelf s f).self = f s.self := rfl
@[simp] theorem onSelf_rest (s : State) (f : Carriage → Carriage) : (onSelf s f).rest = s.rest := rfl
@[simp] theorem onSelf_apMode (s : State) (f : Carriage → Carriage) : (onSelf s f).apMode = s.apMode := rfl
@[simp] theorem onSelf_turn (s : State) (f : Carriage → Carriage) : (onSelf s f).turn = s.turn := rfl
@[simp] theorem onSelf_tick (s : State) (f : Carriage → Carriage) : (onSelf s f).tick = s.tick := rfl
@[simp] theorem onSelf_cyc (s : State) (f : Carriage → Carriage) : (onSelf s f).cyc = s.cyc := rfl
@[simp] theorem onSelf_ns (s : State) (f : Carriage → Carriage) : (onSelf s f).ns = s.ns := rfl
@[simp] theorem onSelf_nextId (s : State) (f : Carriage → Carriage) : (onSelf s f).nextId = s.nextId := rfl
@[simp] theorem onSelf_inputs (s : State) (f : Carriage → Carriage) : (onSelf s f).inputs = s.inputs := rfl
@[simp] theorem onSelf_v (s : State) (f : Carriage → Carriage) : (onSelf s f).v = s.v := rfl
@[simp] theorem onSelf_p (s : State) (f : Carriage → Carriage) : (onSelf s f).p = s.p := rfl
@[simp] theorem onSelf_live (s : State) (f : Carriage → Carriage) : (onSelf s f).live = s.live := rfl
@[simp] theorem onSelf_vPoison (s : State) (f : Carriage → Carriage) : (onSelf s f).vPoison = s.vPoison := rfl
@[simp] theorem onSelf_accSt (s : State) (f : Carriage → Carriage) : (onSelf s f).accSt = s.accSt := rfl
@[simp] theorem onSelf_accData (s : State) (f : Carriage → Carriage) : (onSelf s f).accData = s.accData := rfl
@[simp] theorem onSelf_accLen (s : State) (f : Carriage → Carriage) : (onSelf s f).accLen = s.accLen := rfl
@[simp] theorem onSelf_accPoison (s : State) (f : Carriage → Carriage) : (onSelf s f).accPoison = s.accPoison := rfl
@[simp] theorem onSelf_mem (s : State) (f : Carriage → Carriage) : (onSelf s f).mem = s.mem := rfl
@[simp] theorem onSelf_mPoison (s : State) (f : Carriage → Carriage) : (onSelf s f).mPoison = s.mPoison := rfl
@[simp] theorem onSelf_ctr (s : State) (f : Carriage → Carriage) : (onSelf s f).ctr = s.ctr := rfl
@[simp] theorem onSelf_sysr (s : State) (f : Carriage → Carriage) : (onSelf s f).sysr = s.sysr := rfl
@[simp] theorem onSelf_loads (s : State) (f : Carriage → Carriage) : (onSelf s f).loads = s.loads := rfl
@[simp] theorem onSelf_stores (s : State) (f : Carriage → Carriage) : (onSelf s f).stores = s.stores := rfl
@[simp] theorem onSelf_waits (s : State) (f : Carriage → Carriage) : (onSelf s f).waits = s.waits := rfl
@[simp] theorem onSelf_ops (s : State) (f : Carriage → Carriage) : (onSelf s f).ops = s.ops := rfl
@[simp] theorem onSelf_passes (s : State) (f : Carriage → Carriage) : (onSelf s f).passes = s.passes := rfl
@[simp] theorem onSelf_triggers (s : State) (f : Carriage → Carriage) : (onSelf s f).triggers = s.triggers := rfl
@[simp] theorem onSelf_coaches (s : State) (f : Carriage → Carriage) : (onSelf s f).coaches = s.coaches := rfl
@[simp] theorem onSelf_launches (s : State) (f : Carriage → Carriage) : (onSelf s f).launches = s.launches := rfl
@[simp] theorem onSelf_bins (s : State) (f : Carriage → Carriage) : (onSelf s f).bins = s.bins := rfl
@[simp] theorem onSelf_windows (s : State) (f : Carriage → Carriage) : (onSelf s f).windows = s.windows := rfl
@[simp] theorem onSelf_loops (s : State) (f : Carriage → Carriage) : (onSelf s f).loops = s.loops := rfl
@[simp] theorem onSelf_tlb (s : State) (f : Carriage → Carriage) : (onSelf s f).tlb = s.tlb := rfl
@[simp] theorem onSelf_wrote (s : State) (f : Carriage → Carriage) : (onSelf s f).wrote = s.wrote := rfl

/-! ## mwrite -/

@[simp] theorem mwrite_self (s : State) (k : Nat) (bs : List Byte) : (mwrite s k bs).self = s.self := rfl
@[simp] theorem mwrite_rest (s : State) (k : Nat) (bs : List Byte) : (mwrite s k bs).rest = s.rest := rfl
@[simp] theorem mwrite_apMode (s : State) (k : Nat) (bs : List Byte) : (mwrite s k bs).apMode = s.apMode := rfl
@[simp] theorem mwrite_turn (s : State) (k : Nat) (bs : List Byte) : (mwrite s k bs).turn = s.turn := rfl
@[simp] theorem mwrite_tick (s : State) (k : Nat) (bs : List Byte) : (mwrite s k bs).tick = s.tick := rfl
@[simp] theorem mwrite_cyc (s : State) (k : Nat) (bs : List Byte) : (mwrite s k bs).cyc = s.cyc := rfl
@[simp] theorem mwrite_ns (s : State) (k : Nat) (bs : List Byte) : (mwrite s k bs).ns = s.ns := rfl
@[simp] theorem mwrite_nextId (s : State) (k : Nat) (bs : List Byte) : (mwrite s k bs).nextId = s.nextId := rfl
@[simp] theorem mwrite_inputs (s : State) (k : Nat) (bs : List Byte) : (mwrite s k bs).inputs = s.inputs := rfl
@[simp] theorem mwrite_v (s : State) (k : Nat) (bs : List Byte) : (mwrite s k bs).v = s.v := rfl
@[simp] theorem mwrite_p (s : State) (k : Nat) (bs : List Byte) : (mwrite s k bs).p = s.p := rfl
@[simp] theorem mwrite_live (s : State) (k : Nat) (bs : List Byte) : (mwrite s k bs).live = s.live := rfl
@[simp] theorem mwrite_vPoison (s : State) (k : Nat) (bs : List Byte) : (mwrite s k bs).vPoison = s.vPoison := rfl
@[simp] theorem mwrite_accSt (s : State) (k : Nat) (bs : List Byte) : (mwrite s k bs).accSt = s.accSt := rfl
@[simp] theorem mwrite_accData (s : State) (k : Nat) (bs : List Byte) : (mwrite s k bs).accData = s.accData := rfl
@[simp] theorem mwrite_accLen (s : State) (k : Nat) (bs : List Byte) : (mwrite s k bs).accLen = s.accLen := rfl
@[simp] theorem mwrite_accPoison (s : State) (k : Nat) (bs : List Byte) : (mwrite s k bs).accPoison = s.accPoison := rfl
@[simp] theorem mwrite_mem (s : State) (k : Nat) (bs : List Byte) : (mwrite s k bs).mem = csetN s.mem k bs := rfl
@[simp] theorem mwrite_ctr (s : State) (k : Nat) (bs : List Byte) : (mwrite s k bs).ctr = s.ctr := rfl
@[simp] theorem mwrite_sysr (s : State) (k : Nat) (bs : List Byte) : (mwrite s k bs).sysr = s.sysr := rfl
@[simp] theorem mwrite_loads (s : State) (k : Nat) (bs : List Byte) : (mwrite s k bs).loads = s.loads := rfl
@[simp] theorem mwrite_stores (s : State) (k : Nat) (bs : List Byte) : (mwrite s k bs).stores = s.stores := rfl
@[simp] theorem mwrite_waits (s : State) (k : Nat) (bs : List Byte) : (mwrite s k bs).waits = s.waits := rfl
@[simp] theorem mwrite_ops (s : State) (k : Nat) (bs : List Byte) : (mwrite s k bs).ops = s.ops := rfl
@[simp] theorem mwrite_passes (s : State) (k : Nat) (bs : List Byte) : (mwrite s k bs).passes = s.passes := rfl
@[simp] theorem mwrite_triggers (s : State) (k : Nat) (bs : List Byte) : (mwrite s k bs).triggers = s.triggers := rfl
@[simp] theorem mwrite_coaches (s : State) (k : Nat) (bs : List Byte) : (mwrite s k bs).coaches = s.coaches := rfl
@[simp] theorem mwrite_launches (s : State) (k : Nat) (bs : List Byte) : (mwrite s k bs).launches = s.launches := rfl
@[simp] theorem mwrite_bins (s : State) (k : Nat) (bs : List Byte) : (mwrite s k bs).bins = s.bins := rfl
@[simp] theorem mwrite_windows (s : State) (k : Nat) (bs : List Byte) : (mwrite s k bs).windows = s.windows := rfl
@[simp] theorem mwrite_loops (s : State) (k : Nat) (bs : List Byte) : (mwrite s k bs).loops = s.loops := rfl
@[simp] theorem mwrite_tlb (s : State) (k : Nat) (bs : List Byte) : (mwrite s k bs).tlb = s.tlb := rfl

/-! ## wvAll -/

@[simp] theorem wvAll_self (s : State) (es : List (Nat × Word)) : (wvAll s es).self = s.self := rfl
@[simp] theorem wvAll_rest (s : State) (es : List (Nat × Word)) : (wvAll s es).rest = s.rest := rfl
@[simp] theorem wvAll_apMode (s : State) (es : List (Nat × Word)) : (wvAll s es).apMode = s.apMode := rfl
@[simp] theorem wvAll_turn (s : State) (es : List (Nat × Word)) : (wvAll s es).turn = s.turn := rfl
@[simp] theorem wvAll_tick (s : State) (es : List (Nat × Word)) : (wvAll s es).tick = s.tick := rfl
@[simp] theorem wvAll_cyc (s : State) (es : List (Nat × Word)) : (wvAll s es).cyc = s.cyc := rfl
@[simp] theorem wvAll_ns (s : State) (es : List (Nat × Word)) : (wvAll s es).ns = s.ns := rfl
@[simp] theorem wvAll_nextId (s : State) (es : List (Nat × Word)) : (wvAll s es).nextId = s.nextId := rfl
@[simp] theorem wvAll_inputs (s : State) (es : List (Nat × Word)) : (wvAll s es).inputs = s.inputs := rfl
@[simp] theorem wvAll_v (s : State) (es : List (Nat × Word)) : (wvAll s es).v = csetAll s.v es := rfl
@[simp] theorem wvAll_p (s : State) (es : List (Nat × Word)) : (wvAll s es).p = s.p := rfl
@[simp] theorem wvAll_live (s : State) (es : List (Nat × Word)) : (wvAll s es).live = s.live := rfl
@[simp] theorem wvAll_accSt (s : State) (es : List (Nat × Word)) : (wvAll s es).accSt = s.accSt := rfl
@[simp] theorem wvAll_accData (s : State) (es : List (Nat × Word)) : (wvAll s es).accData = s.accData := rfl
@[simp] theorem wvAll_accLen (s : State) (es : List (Nat × Word)) : (wvAll s es).accLen = s.accLen := rfl
@[simp] theorem wvAll_accPoison (s : State) (es : List (Nat × Word)) : (wvAll s es).accPoison = s.accPoison := rfl
@[simp] theorem wvAll_mem (s : State) (es : List (Nat × Word)) : (wvAll s es).mem = s.mem := rfl
@[simp] theorem wvAll_mPoison (s : State) (es : List (Nat × Word)) : (wvAll s es).mPoison = s.mPoison := rfl
@[simp] theorem wvAll_ctr (s : State) (es : List (Nat × Word)) : (wvAll s es).ctr = s.ctr := rfl
@[simp] theorem wvAll_sysr (s : State) (es : List (Nat × Word)) : (wvAll s es).sysr = s.sysr := rfl
@[simp] theorem wvAll_loads (s : State) (es : List (Nat × Word)) : (wvAll s es).loads = s.loads := rfl
@[simp] theorem wvAll_stores (s : State) (es : List (Nat × Word)) : (wvAll s es).stores = s.stores := rfl
@[simp] theorem wvAll_waits (s : State) (es : List (Nat × Word)) : (wvAll s es).waits = s.waits := rfl
@[simp] theorem wvAll_ops (s : State) (es : List (Nat × Word)) : (wvAll s es).ops = s.ops := rfl
@[simp] theorem wvAll_passes (s : State) (es : List (Nat × Word)) : (wvAll s es).passes = s.passes := rfl
@[simp] theorem wvAll_triggers (s : State) (es : List (Nat × Word)) : (wvAll s es).triggers = s.triggers := rfl
@[simp] theorem wvAll_coaches (s : State) (es : List (Nat × Word)) : (wvAll s es).coaches = s.coaches := rfl
@[simp] theorem wvAll_launches (s : State) (es : List (Nat × Word)) : (wvAll s es).launches = s.launches := rfl
@[simp] theorem wvAll_bins (s : State) (es : List (Nat × Word)) : (wvAll s es).bins = s.bins := rfl
@[simp] theorem wvAll_windows (s : State) (es : List (Nat × Word)) : (wvAll s es).windows = s.windows := rfl
@[simp] theorem wvAll_loops (s : State) (es : List (Nat × Word)) : (wvAll s es).loops = s.loops := rfl
@[simp] theorem wvAll_tlb (s : State) (es : List (Nat × Word)) : (wvAll s es).tlb = s.tlb := rfl
@[simp] theorem wvAll_wrote (s : State) (es : List (Nat × Word)) : (wvAll s es).wrote = s.wrote := rfl

/-! ## markV -/

@[simp] theorem markV_self (s : State) (ks : List Nat) (b : Bool) : (markV s ks b).self = s.self := rfl
@[simp] theorem markV_rest (s : State) (ks : List Nat) (b : Bool) : (markV s ks b).rest = s.rest := rfl
@[simp] theorem markV_apMode (s : State) (ks : List Nat) (b : Bool) : (markV s ks b).apMode = s.apMode := rfl
@[simp] theorem markV_turn (s : State) (ks : List Nat) (b : Bool) : (markV s ks b).turn = s.turn := rfl
@[simp] theorem markV_tick (s : State) (ks : List Nat) (b : Bool) : (markV s ks b).tick = s.tick := rfl
@[simp] theorem markV_cyc (s : State) (ks : List Nat) (b : Bool) : (markV s ks b).cyc = s.cyc := rfl
@[simp] theorem markV_ns (s : State) (ks : List Nat) (b : Bool) : (markV s ks b).ns = s.ns := rfl
@[simp] theorem markV_nextId (s : State) (ks : List Nat) (b : Bool) : (markV s ks b).nextId = s.nextId := rfl
@[simp] theorem markV_inputs (s : State) (ks : List Nat) (b : Bool) : (markV s ks b).inputs = s.inputs := rfl
@[simp] theorem markV_v (s : State) (ks : List Nat) (b : Bool) : (markV s ks b).v = s.v := rfl
@[simp] theorem markV_p (s : State) (ks : List Nat) (b : Bool) : (markV s ks b).p = s.p := rfl
@[simp] theorem markV_live (s : State) (ks : List Nat) (b : Bool) : (markV s ks b).live = s.live := rfl
@[simp] theorem markV_accSt (s : State) (ks : List Nat) (b : Bool) : (markV s ks b).accSt = s.accSt := rfl
@[simp] theorem markV_accData (s : State) (ks : List Nat) (b : Bool) : (markV s ks b).accData = s.accData := rfl
@[simp] theorem markV_accLen (s : State) (ks : List Nat) (b : Bool) : (markV s ks b).accLen = s.accLen := rfl
@[simp] theorem markV_accPoison (s : State) (ks : List Nat) (b : Bool) : (markV s ks b).accPoison = s.accPoison := rfl
@[simp] theorem markV_mem (s : State) (ks : List Nat) (b : Bool) : (markV s ks b).mem = s.mem := rfl
@[simp] theorem markV_mPoison (s : State) (ks : List Nat) (b : Bool) : (markV s ks b).mPoison = s.mPoison := rfl
@[simp] theorem markV_ctr (s : State) (ks : List Nat) (b : Bool) : (markV s ks b).ctr = s.ctr := rfl
@[simp] theorem markV_sysr (s : State) (ks : List Nat) (b : Bool) : (markV s ks b).sysr = s.sysr := rfl
@[simp] theorem markV_loads (s : State) (ks : List Nat) (b : Bool) : (markV s ks b).loads = s.loads := rfl
@[simp] theorem markV_stores (s : State) (ks : List Nat) (b : Bool) : (markV s ks b).stores = s.stores := rfl
@[simp] theorem markV_waits (s : State) (ks : List Nat) (b : Bool) : (markV s ks b).waits = s.waits := rfl
@[simp] theorem markV_ops (s : State) (ks : List Nat) (b : Bool) : (markV s ks b).ops = s.ops := rfl
@[simp] theorem markV_passes (s : State) (ks : List Nat) (b : Bool) : (markV s ks b).passes = s.passes := rfl
@[simp] theorem markV_triggers (s : State) (ks : List Nat) (b : Bool) : (markV s ks b).triggers = s.triggers := rfl
@[simp] theorem markV_coaches (s : State) (ks : List Nat) (b : Bool) : (markV s ks b).coaches = s.coaches := rfl
@[simp] theorem markV_launches (s : State) (ks : List Nat) (b : Bool) : (markV s ks b).launches = s.launches := rfl
@[simp] theorem markV_bins (s : State) (ks : List Nat) (b : Bool) : (markV s ks b).bins = s.bins := rfl
@[simp] theorem markV_windows (s : State) (ks : List Nat) (b : Bool) : (markV s ks b).windows = s.windows := rfl
@[simp] theorem markV_loops (s : State) (ks : List Nat) (b : Bool) : (markV s ks b).loops = s.loops := rfl
@[simp] theorem markV_tlb (s : State) (ks : List Nat) (b : Bool) : (markV s ks b).tlb = s.tlb := rfl
@[simp] theorem markV_wrote (s : State) (ks : List Nat) (b : Bool) : (markV s ks b).wrote = s.wrote := rfl

/-! ## markM -/

@[simp] theorem markM_self (s : State) (us : List Nat) (b : Bool) : (markM s us b).self = s.self := rfl
@[simp] theorem markM_rest (s : State) (us : List Nat) (b : Bool) : (markM s us b).rest = s.rest := rfl
@[simp] theorem markM_apMode (s : State) (us : List Nat) (b : Bool) : (markM s us b).apMode = s.apMode := rfl
@[simp] theorem markM_turn (s : State) (us : List Nat) (b : Bool) : (markM s us b).turn = s.turn := rfl
@[simp] theorem markM_tick (s : State) (us : List Nat) (b : Bool) : (markM s us b).tick = s.tick := rfl
@[simp] theorem markM_cyc (s : State) (us : List Nat) (b : Bool) : (markM s us b).cyc = s.cyc := rfl
@[simp] theorem markM_ns (s : State) (us : List Nat) (b : Bool) : (markM s us b).ns = s.ns := rfl
@[simp] theorem markM_nextId (s : State) (us : List Nat) (b : Bool) : (markM s us b).nextId = s.nextId := rfl
@[simp] theorem markM_inputs (s : State) (us : List Nat) (b : Bool) : (markM s us b).inputs = s.inputs := rfl
@[simp] theorem markM_v (s : State) (us : List Nat) (b : Bool) : (markM s us b).v = s.v := rfl
@[simp] theorem markM_p (s : State) (us : List Nat) (b : Bool) : (markM s us b).p = s.p := rfl
@[simp] theorem markM_live (s : State) (us : List Nat) (b : Bool) : (markM s us b).live = s.live := rfl
@[simp] theorem markM_vPoison (s : State) (us : List Nat) (b : Bool) : (markM s us b).vPoison = s.vPoison := rfl
@[simp] theorem markM_accSt (s : State) (us : List Nat) (b : Bool) : (markM s us b).accSt = s.accSt := rfl
@[simp] theorem markM_accData (s : State) (us : List Nat) (b : Bool) : (markM s us b).accData = s.accData := rfl
@[simp] theorem markM_accLen (s : State) (us : List Nat) (b : Bool) : (markM s us b).accLen = s.accLen := rfl
@[simp] theorem markM_accPoison (s : State) (us : List Nat) (b : Bool) : (markM s us b).accPoison = s.accPoison := rfl
@[simp] theorem markM_mem (s : State) (us : List Nat) (b : Bool) : (markM s us b).mem = s.mem := rfl
@[simp] theorem markM_ctr (s : State) (us : List Nat) (b : Bool) : (markM s us b).ctr = s.ctr := rfl
@[simp] theorem markM_sysr (s : State) (us : List Nat) (b : Bool) : (markM s us b).sysr = s.sysr := rfl
@[simp] theorem markM_loads (s : State) (us : List Nat) (b : Bool) : (markM s us b).loads = s.loads := rfl
@[simp] theorem markM_stores (s : State) (us : List Nat) (b : Bool) : (markM s us b).stores = s.stores := rfl
@[simp] theorem markM_waits (s : State) (us : List Nat) (b : Bool) : (markM s us b).waits = s.waits := rfl
@[simp] theorem markM_ops (s : State) (us : List Nat) (b : Bool) : (markM s us b).ops = s.ops := rfl
@[simp] theorem markM_passes (s : State) (us : List Nat) (b : Bool) : (markM s us b).passes = s.passes := rfl
@[simp] theorem markM_triggers (s : State) (us : List Nat) (b : Bool) : (markM s us b).triggers = s.triggers := rfl
@[simp] theorem markM_coaches (s : State) (us : List Nat) (b : Bool) : (markM s us b).coaches = s.coaches := rfl
@[simp] theorem markM_launches (s : State) (us : List Nat) (b : Bool) : (markM s us b).launches = s.launches := rfl
@[simp] theorem markM_bins (s : State) (us : List Nat) (b : Bool) : (markM s us b).bins = s.bins := rfl
@[simp] theorem markM_windows (s : State) (us : List Nat) (b : Bool) : (markM s us b).windows = s.windows := rfl
@[simp] theorem markM_loops (s : State) (us : List Nat) (b : Bool) : (markM s us b).loops = s.loops := rfl
@[simp] theorem markM_tlb (s : State) (us : List Nat) (b : Bool) : (markM s us b).tlb = s.tlb := rfl
@[simp] theorem markM_wrote (s : State) (us : List Nat) (b : Bool) : (markM s us b).wrote = s.wrote := rfl

/-! ## storeBytes -/

@[simp] theorem storeBytes_self (s : State) (ks : List Nat) (bs : List Byte) (b : Bool) : (storeBytes s ks bs b).self = s.self := rfl
@[simp] theorem storeBytes_rest (s : State) (ks : List Nat) (bs : List Byte) (b : Bool) : (storeBytes s ks bs b).rest = s.rest := rfl
@[simp] theorem storeBytes_apMode (s : State) (ks : List Nat) (bs : List Byte) (b : Bool) : (storeBytes s ks bs b).apMode = s.apMode := rfl
@[simp] theorem storeBytes_turn (s : State) (ks : List Nat) (bs : List Byte) (b : Bool) : (storeBytes s ks bs b).turn = s.turn := rfl
@[simp] theorem storeBytes_tick (s : State) (ks : List Nat) (bs : List Byte) (b : Bool) : (storeBytes s ks bs b).tick = s.tick := rfl
@[simp] theorem storeBytes_cyc (s : State) (ks : List Nat) (bs : List Byte) (b : Bool) : (storeBytes s ks bs b).cyc = s.cyc := rfl
@[simp] theorem storeBytes_ns (s : State) (ks : List Nat) (bs : List Byte) (b : Bool) : (storeBytes s ks bs b).ns = s.ns := rfl
@[simp] theorem storeBytes_nextId (s : State) (ks : List Nat) (bs : List Byte) (b : Bool) : (storeBytes s ks bs b).nextId = s.nextId := rfl
@[simp] theorem storeBytes_inputs (s : State) (ks : List Nat) (bs : List Byte) (b : Bool) : (storeBytes s ks bs b).inputs = s.inputs := rfl
@[simp] theorem storeBytes_v (s : State) (ks : List Nat) (bs : List Byte) (b : Bool) : (storeBytes s ks bs b).v = s.v := rfl
@[simp] theorem storeBytes_p (s : State) (ks : List Nat) (bs : List Byte) (b : Bool) : (storeBytes s ks bs b).p = s.p := rfl
@[simp] theorem storeBytes_live (s : State) (ks : List Nat) (bs : List Byte) (b : Bool) : (storeBytes s ks bs b).live = s.live := rfl
@[simp] theorem storeBytes_vPoison (s : State) (ks : List Nat) (bs : List Byte) (b : Bool) : (storeBytes s ks bs b).vPoison = s.vPoison := rfl
@[simp] theorem storeBytes_accSt (s : State) (ks : List Nat) (bs : List Byte) (b : Bool) : (storeBytes s ks bs b).accSt = s.accSt := rfl
@[simp] theorem storeBytes_accData (s : State) (ks : List Nat) (bs : List Byte) (b : Bool) : (storeBytes s ks bs b).accData = s.accData := rfl
@[simp] theorem storeBytes_accLen (s : State) (ks : List Nat) (bs : List Byte) (b : Bool) : (storeBytes s ks bs b).accLen = s.accLen := rfl
@[simp] theorem storeBytes_accPoison (s : State) (ks : List Nat) (bs : List Byte) (b : Bool) : (storeBytes s ks bs b).accPoison = s.accPoison := rfl
@[simp] theorem storeBytes_mem (s : State) (ks : List Nat) (bs : List Byte) (b : Bool) : (storeBytes s ks bs b).mem = csetAll s.mem (ks.zip bs) := rfl
@[simp] theorem storeBytes_ctr (s : State) (ks : List Nat) (bs : List Byte) (b : Bool) : (storeBytes s ks bs b).ctr = s.ctr := rfl
@[simp] theorem storeBytes_sysr (s : State) (ks : List Nat) (bs : List Byte) (b : Bool) : (storeBytes s ks bs b).sysr = s.sysr := rfl
@[simp] theorem storeBytes_loads (s : State) (ks : List Nat) (bs : List Byte) (b : Bool) : (storeBytes s ks bs b).loads = s.loads := rfl
@[simp] theorem storeBytes_stores (s : State) (ks : List Nat) (bs : List Byte) (b : Bool) : (storeBytes s ks bs b).stores = s.stores := rfl
@[simp] theorem storeBytes_waits (s : State) (ks : List Nat) (bs : List Byte) (b : Bool) : (storeBytes s ks bs b).waits = s.waits := rfl
@[simp] theorem storeBytes_ops (s : State) (ks : List Nat) (bs : List Byte) (b : Bool) : (storeBytes s ks bs b).ops = s.ops := rfl
@[simp] theorem storeBytes_passes (s : State) (ks : List Nat) (bs : List Byte) (b : Bool) : (storeBytes s ks bs b).passes = s.passes := rfl
@[simp] theorem storeBytes_triggers (s : State) (ks : List Nat) (bs : List Byte) (b : Bool) : (storeBytes s ks bs b).triggers = s.triggers := rfl
@[simp] theorem storeBytes_coaches (s : State) (ks : List Nat) (bs : List Byte) (b : Bool) : (storeBytes s ks bs b).coaches = s.coaches := rfl
@[simp] theorem storeBytes_launches (s : State) (ks : List Nat) (bs : List Byte) (b : Bool) : (storeBytes s ks bs b).launches = s.launches := rfl
@[simp] theorem storeBytes_bins (s : State) (ks : List Nat) (bs : List Byte) (b : Bool) : (storeBytes s ks bs b).bins = s.bins := rfl
@[simp] theorem storeBytes_windows (s : State) (ks : List Nat) (bs : List Byte) (b : Bool) : (storeBytes s ks bs b).windows = s.windows := rfl
@[simp] theorem storeBytes_loops (s : State) (ks : List Nat) (bs : List Byte) (b : Bool) : (storeBytes s ks bs b).loops = s.loops := rfl
@[simp] theorem storeBytes_tlb (s : State) (ks : List Nat) (bs : List Byte) (b : Bool) : (storeBytes s ks bs b).tlb = s.tlb := rfl

/-! ## wsys -/

@[simp] theorem wsys_self (s : State) (w blk off : Nat) (x : DWord) : (wsys s w blk off x).self = s.self := rfl
@[simp] theorem wsys_rest (s : State) (w blk off : Nat) (x : DWord) : (wsys s w blk off x).rest = s.rest := rfl
@[simp] theorem wsys_apMode (s : State) (w blk off : Nat) (x : DWord) : (wsys s w blk off x).apMode = s.apMode := rfl
@[simp] theorem wsys_turn (s : State) (w blk off : Nat) (x : DWord) : (wsys s w blk off x).turn = s.turn := rfl
@[simp] theorem wsys_tick (s : State) (w blk off : Nat) (x : DWord) : (wsys s w blk off x).tick = s.tick := rfl
@[simp] theorem wsys_cyc (s : State) (w blk off : Nat) (x : DWord) : (wsys s w blk off x).cyc = s.cyc := rfl
@[simp] theorem wsys_ns (s : State) (w blk off : Nat) (x : DWord) : (wsys s w blk off x).ns = s.ns := rfl
@[simp] theorem wsys_nextId (s : State) (w blk off : Nat) (x : DWord) : (wsys s w blk off x).nextId = s.nextId := rfl
@[simp] theorem wsys_inputs (s : State) (w blk off : Nat) (x : DWord) : (wsys s w blk off x).inputs = s.inputs := rfl
@[simp] theorem wsys_v (s : State) (w blk off : Nat) (x : DWord) : (wsys s w blk off x).v = s.v := rfl
@[simp] theorem wsys_p (s : State) (w blk off : Nat) (x : DWord) : (wsys s w blk off x).p = s.p := rfl
@[simp] theorem wsys_live (s : State) (w blk off : Nat) (x : DWord) : (wsys s w blk off x).live = s.live := rfl
@[simp] theorem wsys_vPoison (s : State) (w blk off : Nat) (x : DWord) : (wsys s w blk off x).vPoison = s.vPoison := rfl
@[simp] theorem wsys_accSt (s : State) (w blk off : Nat) (x : DWord) : (wsys s w blk off x).accSt = s.accSt := rfl
@[simp] theorem wsys_accData (s : State) (w blk off : Nat) (x : DWord) : (wsys s w blk off x).accData = s.accData := rfl
@[simp] theorem wsys_accLen (s : State) (w blk off : Nat) (x : DWord) : (wsys s w blk off x).accLen = s.accLen := rfl
@[simp] theorem wsys_accPoison (s : State) (w blk off : Nat) (x : DWord) : (wsys s w blk off x).accPoison = s.accPoison := rfl
@[simp] theorem wsys_mem (s : State) (w blk off : Nat) (x : DWord) : (wsys s w blk off x).mem = s.mem := rfl
@[simp] theorem wsys_mPoison (s : State) (w blk off : Nat) (x : DWord) : (wsys s w blk off x).mPoison = s.mPoison := rfl
@[simp] theorem wsys_ctr (s : State) (w blk off : Nat) (x : DWord) : (wsys s w blk off x).ctr = s.ctr := rfl
@[simp] theorem wsys_loads (s : State) (w blk off : Nat) (x : DWord) : (wsys s w blk off x).loads = s.loads := rfl
@[simp] theorem wsys_stores (s : State) (w blk off : Nat) (x : DWord) : (wsys s w blk off x).stores = s.stores := rfl
@[simp] theorem wsys_waits (s : State) (w blk off : Nat) (x : DWord) : (wsys s w blk off x).waits = s.waits := rfl
@[simp] theorem wsys_ops (s : State) (w blk off : Nat) (x : DWord) : (wsys s w blk off x).ops = s.ops := rfl
@[simp] theorem wsys_passes (s : State) (w blk off : Nat) (x : DWord) : (wsys s w blk off x).passes = s.passes := rfl
@[simp] theorem wsys_triggers (s : State) (w blk off : Nat) (x : DWord) : (wsys s w blk off x).triggers = s.triggers := rfl
@[simp] theorem wsys_coaches (s : State) (w blk off : Nat) (x : DWord) : (wsys s w blk off x).coaches = s.coaches := rfl
@[simp] theorem wsys_launches (s : State) (w blk off : Nat) (x : DWord) : (wsys s w blk off x).launches = s.launches := rfl
@[simp] theorem wsys_bins (s : State) (w blk off : Nat) (x : DWord) : (wsys s w blk off x).bins = s.bins := rfl
@[simp] theorem wsys_windows (s : State) (w blk off : Nat) (x : DWord) : (wsys s w blk off x).windows = s.windows := rfl
@[simp] theorem wsys_loops (s : State) (w blk off : Nat) (x : DWord) : (wsys s w blk off x).loops = s.loops := rfl
@[simp] theorem wsys_tlb (s : State) (w blk off : Nat) (x : DWord) : (wsys s w blk off x).tlb = s.tlb := rfl
@[simp] theorem wsys_wrote (s : State) (w blk off : Nat) (x : DWord) : (wsys s w blk off x).wrote = s.wrote := rfl

/-! ## onOp -/

@[simp] theorem onOp_self (s : State) (k : Nat) (f : EngOp → EngOp) : (onOp s k f).self = s.self := rfl
@[simp] theorem onOp_rest (s : State) (k : Nat) (f : EngOp → EngOp) : (onOp s k f).rest = s.rest := rfl
@[simp] theorem onOp_apMode (s : State) (k : Nat) (f : EngOp → EngOp) : (onOp s k f).apMode = s.apMode := rfl
@[simp] theorem onOp_turn (s : State) (k : Nat) (f : EngOp → EngOp) : (onOp s k f).turn = s.turn := rfl
@[simp] theorem onOp_tick (s : State) (k : Nat) (f : EngOp → EngOp) : (onOp s k f).tick = s.tick := rfl
@[simp] theorem onOp_cyc (s : State) (k : Nat) (f : EngOp → EngOp) : (onOp s k f).cyc = s.cyc := rfl
@[simp] theorem onOp_ns (s : State) (k : Nat) (f : EngOp → EngOp) : (onOp s k f).ns = s.ns := rfl
@[simp] theorem onOp_nextId (s : State) (k : Nat) (f : EngOp → EngOp) : (onOp s k f).nextId = s.nextId := rfl
@[simp] theorem onOp_inputs (s : State) (k : Nat) (f : EngOp → EngOp) : (onOp s k f).inputs = s.inputs := rfl
@[simp] theorem onOp_v (s : State) (k : Nat) (f : EngOp → EngOp) : (onOp s k f).v = s.v := rfl
@[simp] theorem onOp_p (s : State) (k : Nat) (f : EngOp → EngOp) : (onOp s k f).p = s.p := rfl
@[simp] theorem onOp_live (s : State) (k : Nat) (f : EngOp → EngOp) : (onOp s k f).live = s.live := rfl
@[simp] theorem onOp_vPoison (s : State) (k : Nat) (f : EngOp → EngOp) : (onOp s k f).vPoison = s.vPoison := rfl
@[simp] theorem onOp_accSt (s : State) (k : Nat) (f : EngOp → EngOp) : (onOp s k f).accSt = s.accSt := rfl
@[simp] theorem onOp_accData (s : State) (k : Nat) (f : EngOp → EngOp) : (onOp s k f).accData = s.accData := rfl
@[simp] theorem onOp_accLen (s : State) (k : Nat) (f : EngOp → EngOp) : (onOp s k f).accLen = s.accLen := rfl
@[simp] theorem onOp_accPoison (s : State) (k : Nat) (f : EngOp → EngOp) : (onOp s k f).accPoison = s.accPoison := rfl
@[simp] theorem onOp_mem (s : State) (k : Nat) (f : EngOp → EngOp) : (onOp s k f).mem = s.mem := rfl
@[simp] theorem onOp_mPoison (s : State) (k : Nat) (f : EngOp → EngOp) : (onOp s k f).mPoison = s.mPoison := rfl
@[simp] theorem onOp_ctr (s : State) (k : Nat) (f : EngOp → EngOp) : (onOp s k f).ctr = s.ctr := rfl
@[simp] theorem onOp_sysr (s : State) (k : Nat) (f : EngOp → EngOp) : (onOp s k f).sysr = s.sysr := rfl
@[simp] theorem onOp_loads (s : State) (k : Nat) (f : EngOp → EngOp) : (onOp s k f).loads = s.loads := rfl
@[simp] theorem onOp_stores (s : State) (k : Nat) (f : EngOp → EngOp) : (onOp s k f).stores = s.stores := rfl
@[simp] theorem onOp_waits (s : State) (k : Nat) (f : EngOp → EngOp) : (onOp s k f).waits = s.waits := rfl
@[simp] theorem onOp_passes (s : State) (k : Nat) (f : EngOp → EngOp) : (onOp s k f).passes = s.passes := rfl
@[simp] theorem onOp_triggers (s : State) (k : Nat) (f : EngOp → EngOp) : (onOp s k f).triggers = s.triggers := rfl
@[simp] theorem onOp_coaches (s : State) (k : Nat) (f : EngOp → EngOp) : (onOp s k f).coaches = s.coaches := rfl
@[simp] theorem onOp_launches (s : State) (k : Nat) (f : EngOp → EngOp) : (onOp s k f).launches = s.launches := rfl
@[simp] theorem onOp_bins (s : State) (k : Nat) (f : EngOp → EngOp) : (onOp s k f).bins = s.bins := rfl
@[simp] theorem onOp_windows (s : State) (k : Nat) (f : EngOp → EngOp) : (onOp s k f).windows = s.windows := rfl
@[simp] theorem onOp_loops (s : State) (k : Nat) (f : EngOp → EngOp) : (onOp s k f).loops = s.loops := rfl
@[simp] theorem onOp_tlb (s : State) (k : Nat) (f : EngOp → EngOp) : (onOp s k f).tlb = s.tlb := rfl
@[simp] theorem onOp_wrote (s : State) (k : Nat) (f : EngOp → EngOp) : (onOp s k f).wrote = s.wrote := rfl

/-! ## onCoach -/

@[simp] theorem onCoach_self (s : State) (k : Nat) (f : Coach → Coach) : (onCoach s k f).self = s.self := rfl
@[simp] theorem onCoach_rest (s : State) (k : Nat) (f : Coach → Coach) : (onCoach s k f).rest = s.rest := rfl
@[simp] theorem onCoach_apMode (s : State) (k : Nat) (f : Coach → Coach) : (onCoach s k f).apMode = s.apMode := rfl
@[simp] theorem onCoach_turn (s : State) (k : Nat) (f : Coach → Coach) : (onCoach s k f).turn = s.turn := rfl
@[simp] theorem onCoach_tick (s : State) (k : Nat) (f : Coach → Coach) : (onCoach s k f).tick = s.tick := rfl
@[simp] theorem onCoach_cyc (s : State) (k : Nat) (f : Coach → Coach) : (onCoach s k f).cyc = s.cyc := rfl
@[simp] theorem onCoach_ns (s : State) (k : Nat) (f : Coach → Coach) : (onCoach s k f).ns = s.ns := rfl
@[simp] theorem onCoach_nextId (s : State) (k : Nat) (f : Coach → Coach) : (onCoach s k f).nextId = s.nextId := rfl
@[simp] theorem onCoach_inputs (s : State) (k : Nat) (f : Coach → Coach) : (onCoach s k f).inputs = s.inputs := rfl
@[simp] theorem onCoach_v (s : State) (k : Nat) (f : Coach → Coach) : (onCoach s k f).v = s.v := rfl
@[simp] theorem onCoach_p (s : State) (k : Nat) (f : Coach → Coach) : (onCoach s k f).p = s.p := rfl
@[simp] theorem onCoach_live (s : State) (k : Nat) (f : Coach → Coach) : (onCoach s k f).live = s.live := rfl
@[simp] theorem onCoach_vPoison (s : State) (k : Nat) (f : Coach → Coach) : (onCoach s k f).vPoison = s.vPoison := rfl
@[simp] theorem onCoach_accSt (s : State) (k : Nat) (f : Coach → Coach) : (onCoach s k f).accSt = s.accSt := rfl
@[simp] theorem onCoach_accData (s : State) (k : Nat) (f : Coach → Coach) : (onCoach s k f).accData = s.accData := rfl
@[simp] theorem onCoach_accLen (s : State) (k : Nat) (f : Coach → Coach) : (onCoach s k f).accLen = s.accLen := rfl
@[simp] theorem onCoach_accPoison (s : State) (k : Nat) (f : Coach → Coach) : (onCoach s k f).accPoison = s.accPoison := rfl
@[simp] theorem onCoach_mem (s : State) (k : Nat) (f : Coach → Coach) : (onCoach s k f).mem = s.mem := rfl
@[simp] theorem onCoach_mPoison (s : State) (k : Nat) (f : Coach → Coach) : (onCoach s k f).mPoison = s.mPoison := rfl
@[simp] theorem onCoach_ctr (s : State) (k : Nat) (f : Coach → Coach) : (onCoach s k f).ctr = s.ctr := rfl
@[simp] theorem onCoach_sysr (s : State) (k : Nat) (f : Coach → Coach) : (onCoach s k f).sysr = s.sysr := rfl
@[simp] theorem onCoach_loads (s : State) (k : Nat) (f : Coach → Coach) : (onCoach s k f).loads = s.loads := rfl
@[simp] theorem onCoach_stores (s : State) (k : Nat) (f : Coach → Coach) : (onCoach s k f).stores = s.stores := rfl
@[simp] theorem onCoach_waits (s : State) (k : Nat) (f : Coach → Coach) : (onCoach s k f).waits = s.waits := rfl
@[simp] theorem onCoach_ops (s : State) (k : Nat) (f : Coach → Coach) : (onCoach s k f).ops = s.ops := rfl
@[simp] theorem onCoach_passes (s : State) (k : Nat) (f : Coach → Coach) : (onCoach s k f).passes = s.passes := rfl
@[simp] theorem onCoach_triggers (s : State) (k : Nat) (f : Coach → Coach) : (onCoach s k f).triggers = s.triggers := rfl
@[simp] theorem onCoach_launches (s : State) (k : Nat) (f : Coach → Coach) : (onCoach s k f).launches = s.launches := rfl
@[simp] theorem onCoach_bins (s : State) (k : Nat) (f : Coach → Coach) : (onCoach s k f).bins = s.bins := rfl
@[simp] theorem onCoach_windows (s : State) (k : Nat) (f : Coach → Coach) : (onCoach s k f).windows = s.windows := rfl
@[simp] theorem onCoach_loops (s : State) (k : Nat) (f : Coach → Coach) : (onCoach s k f).loops = s.loops := rfl
@[simp] theorem onCoach_tlb (s : State) (k : Nat) (f : Coach → Coach) : (onCoach s k f).tlb = s.tlb := rfl
@[simp] theorem onCoach_wrote (s : State) (k : Nat) (f : Coach → Coach) : (onCoach s k f).wrote = s.wrote := rfl

/-! ## onLoop -/

@[simp] theorem onLoop_self (s : State) (k : Nat) (f : Loop → Loop) : (onLoop s k f).self = s.self := rfl
@[simp] theorem onLoop_rest (s : State) (k : Nat) (f : Loop → Loop) : (onLoop s k f).rest = s.rest := rfl
@[simp] theorem onLoop_apMode (s : State) (k : Nat) (f : Loop → Loop) : (onLoop s k f).apMode = s.apMode := rfl
@[simp] theorem onLoop_turn (s : State) (k : Nat) (f : Loop → Loop) : (onLoop s k f).turn = s.turn := rfl
@[simp] theorem onLoop_tick (s : State) (k : Nat) (f : Loop → Loop) : (onLoop s k f).tick = s.tick := rfl
@[simp] theorem onLoop_cyc (s : State) (k : Nat) (f : Loop → Loop) : (onLoop s k f).cyc = s.cyc := rfl
@[simp] theorem onLoop_ns (s : State) (k : Nat) (f : Loop → Loop) : (onLoop s k f).ns = s.ns := rfl
@[simp] theorem onLoop_nextId (s : State) (k : Nat) (f : Loop → Loop) : (onLoop s k f).nextId = s.nextId := rfl
@[simp] theorem onLoop_inputs (s : State) (k : Nat) (f : Loop → Loop) : (onLoop s k f).inputs = s.inputs := rfl
@[simp] theorem onLoop_v (s : State) (k : Nat) (f : Loop → Loop) : (onLoop s k f).v = s.v := rfl
@[simp] theorem onLoop_p (s : State) (k : Nat) (f : Loop → Loop) : (onLoop s k f).p = s.p := rfl
@[simp] theorem onLoop_live (s : State) (k : Nat) (f : Loop → Loop) : (onLoop s k f).live = s.live := rfl
@[simp] theorem onLoop_vPoison (s : State) (k : Nat) (f : Loop → Loop) : (onLoop s k f).vPoison = s.vPoison := rfl
@[simp] theorem onLoop_accSt (s : State) (k : Nat) (f : Loop → Loop) : (onLoop s k f).accSt = s.accSt := rfl
@[simp] theorem onLoop_accData (s : State) (k : Nat) (f : Loop → Loop) : (onLoop s k f).accData = s.accData := rfl
@[simp] theorem onLoop_accLen (s : State) (k : Nat) (f : Loop → Loop) : (onLoop s k f).accLen = s.accLen := rfl
@[simp] theorem onLoop_accPoison (s : State) (k : Nat) (f : Loop → Loop) : (onLoop s k f).accPoison = s.accPoison := rfl
@[simp] theorem onLoop_mem (s : State) (k : Nat) (f : Loop → Loop) : (onLoop s k f).mem = s.mem := rfl
@[simp] theorem onLoop_mPoison (s : State) (k : Nat) (f : Loop → Loop) : (onLoop s k f).mPoison = s.mPoison := rfl
@[simp] theorem onLoop_ctr (s : State) (k : Nat) (f : Loop → Loop) : (onLoop s k f).ctr = s.ctr := rfl
@[simp] theorem onLoop_sysr (s : State) (k : Nat) (f : Loop → Loop) : (onLoop s k f).sysr = s.sysr := rfl
@[simp] theorem onLoop_loads (s : State) (k : Nat) (f : Loop → Loop) : (onLoop s k f).loads = s.loads := rfl
@[simp] theorem onLoop_stores (s : State) (k : Nat) (f : Loop → Loop) : (onLoop s k f).stores = s.stores := rfl
@[simp] theorem onLoop_waits (s : State) (k : Nat) (f : Loop → Loop) : (onLoop s k f).waits = s.waits := rfl
@[simp] theorem onLoop_ops (s : State) (k : Nat) (f : Loop → Loop) : (onLoop s k f).ops = s.ops := rfl
@[simp] theorem onLoop_passes (s : State) (k : Nat) (f : Loop → Loop) : (onLoop s k f).passes = s.passes := rfl
@[simp] theorem onLoop_triggers (s : State) (k : Nat) (f : Loop → Loop) : (onLoop s k f).triggers = s.triggers := rfl
@[simp] theorem onLoop_coaches (s : State) (k : Nat) (f : Loop → Loop) : (onLoop s k f).coaches = s.coaches := rfl
@[simp] theorem onLoop_launches (s : State) (k : Nat) (f : Loop → Loop) : (onLoop s k f).launches = s.launches := rfl
@[simp] theorem onLoop_bins (s : State) (k : Nat) (f : Loop → Loop) : (onLoop s k f).bins = s.bins := rfl
@[simp] theorem onLoop_windows (s : State) (k : Nat) (f : Loop → Loop) : (onLoop s k f).windows = s.windows := rfl
@[simp] theorem onLoop_tlb (s : State) (k : Nat) (f : Loop → Loop) : (onLoop s k f).tlb = s.tlb := rfl
@[simp] theorem onLoop_wrote (s : State) (k : Nat) (f : Loop → Loop) : (onLoop s k f).wrote = s.wrote := rfl

end Sys2Proof.Machine
end

