-- ==== Sys2Proof/Laws/Frame.lean ====
section
/-! SUPPORT. What the register operations leave alone, and what a read gives after a write of a register. -/
namespace Sys2Proof.Machine

theorem OthersKept.refl (s : State) : OthersKept s s := rfl
theorem OthersKept.onSelf (s : State) (f : Carriage → Carriage) : OthersKept s (onSelf s f) := rfl
/-- What keeps the others, followed by a change of the moving carriage. -/
theorem OthersKept.thenSelf {s t : State} (h : OthersKept s t) (f : Carriage → Carriage) :
    OthersKept s (Machine.onSelf t f) := h
theorem OthersKept.setPc {s t : State} (h : OthersKept s t) (a : DWord) : OthersKept s (Machine.setPc t a) := by
  unfold Machine.setPc; split
  · exact h
  · exact h
theorem OthersKept.nextPc {s t : State} (h : OthersKept s t) : OthersKept s (Machine.nextPc t) := h.setPc _
theorem OthersKept.wsN {s t : State} (h : OthersKept s t) (n : Nat) (x : DWord) : OthersKept s (Machine.wsN t n x) := by
  unfold Machine.wsN; split
  · exact h
  · split
    · exact h
    · exact h
theorem OthersKept.ws {s t : State} (h : OthersKept s t) (f : OpField) (x : DWord) : OthersKept s (Machine.ws t f x) :=
  h.wsN _ _
theorem OthersKept.wk {s t : State} (h : OthersKept s t) (n : Nat) (b : Bool) : OthersKept s (Machine.wk t n b) := by
  unfold Machine.wk; split
  · exact h
  · split
    · exact h
    · exact h

/-- Whatever keeps the others keeps every byte of memory. -/
theorem OthersKept.mem {s t : State} (h : OthersKept s t) : t.mem = s.mem := by
  have h' : { t with self := s.self } = s := h
  have e := congrArg State.mem h'
  exact e
theorem OthersKept.apMode {s t : State} (h : OthersKept s t) : t.apMode = s.apMode := by
  have h' : { t with self := s.self } = s := h
  have e := congrArg State.apMode h'
  exact e

theorem OthersKept.v {s t : State} (h : OthersKept s t) : t.v = s.v := by
  have h' : { t with self := s.self } = s := h
  have e := congrArg State.v h'
  exact e
theorem OthersKept.p {s t : State} (h : OthersKept s t) : t.p = s.p := by
  have h' : { t with self := s.self } = s := h
  have e := congrArg State.p h'
  exact e
theorem OthersKept.vPoison {s t : State} (h : OthersKept s t) : t.vPoison = s.vPoison := by
  have h' : { t with self := s.self } = s := h
  have e := congrArg State.vPoison h'
  exact e
theorem OthersKept.live {s t : State} (h : OthersKept s t) : t.live = s.live := by
  have h' : { t with self := s.self } = s := h
  have e := congrArg State.live h'
  exact e
theorem OthersKept.ctr {s t : State} (h : OthersKept s t) : t.ctr = s.ctr := by
  have h' : { t with self := s.self } = s := h
  have e := congrArg State.ctr h'
  exact e
theorem OthersKept.sysr {s t : State} (h : OthersKept s t) : t.sysr = s.sysr := by
  have h' : { t with self := s.self } = s := h
  have e := congrArg State.sysr h'
  exact e
theorem OthersKept.ops {s t : State} (h : OthersKept s t) : t.ops = s.ops := by
  have h' : { t with self := s.self } = s := h
  have e := congrArg State.ops h'
  exact e
theorem OthersKept.coaches {s t : State} (h : OthersKept s t) : t.coaches = s.coaches := by
  have h' : { t with self := s.self } = s := h
  have e := congrArg State.coaches h'
  exact e
theorem OthersKept.launches {s t : State} (h : OthersKept s t) : t.launches = s.launches := by
  have h' : { t with self := s.self } = s := h
  have e := congrArg State.launches h'
  exact e
theorem OthersKept.rest {s t : State} (h : OthersKept s t) : t.rest = s.rest := by
  have h' : { t with self := s.self } = s := h
  have e := congrArg State.rest h'
  exact e
theorem OthersKept.turn {s t : State} (h : OthersKept s t) : t.turn = s.turn := by
  have h' : { t with self := s.self } = s := h
  have e := congrArg State.turn h'
  exact e

/-! ## apMode and the reads after a write of a pc, an s or a k register -/

@[simp] theorem setPc_apMode (s : State) (a : DWord) : (setPc s a).apMode = s.apMode :=
  ((OthersKept.refl s).setPc a).apMode
@[simp] theorem wsN_apMode (s : State) (n : Nat) (x : DWord) : (wsN s n x).apMode = s.apMode :=
  ((OthersKept.refl s).wsN n x).apMode
@[simp] theorem wk_apMode (s : State) (n : Nat) (b : Bool) : (wk s n b).apMode = s.apMode :=
  ((OthersKept.refl s).wk n b).apMode
@[simp] theorem apOf_onAp (s : State) (f : ApCtx → ApCtx) : apOf (onAp s f) = f (apOf s) := rfl

@[simp] theorem pcOf_setPc (s : State) (a : DWord) : pcOf (setPc s a) = a := by
  unfold setPc; cases h : s.apMode <;> simp [pcOf, h, onAp, apOf]
theorem pcOf_wsN (s : State) (n : Nat) (x : DWord) : pcOf (wsN s n x) = pcOf s := by
  unfold wsN pcOf; cases h : s.apMode <;> by_cases h0 : n = 0 <;> simp [h, h0, onAp, apOf]
@[simp] theorem pcOf_ws (s : State) (f : OpField) (x : DWord) : pcOf (ws s f x) = pcOf s := pcOf_wsN s _ x
@[simp] theorem pcOf_wk (s : State) (n : Nat) (b : Bool) : pcOf (wk s n b) = pcOf s := by
  unfold wk pcOf; cases h : s.apMode <;> by_cases h0 : n = 0 <;> simp [h, h0, onAp, apOf]

theorem sFile_setPc (s : State) (a : DWord) : sFile (setPc s a) = sFile s := by
  unfold setPc sFile; cases h : s.apMode <;> simp [h, onAp, apOf]
@[simp] theorem rsN_setPc (s : State) (a : DWord) (n : Nat) : rsN (setPc s a) n = rsN s n := by
  unfold rsN; rw [sFile_setPc]
@[simp] theorem rsN_zero (s : State) : rsN s 0 = 0 := rfl
/-- An s register after a write: the value written, unless it is s0 (02 R25). -/
theorem rsN_wsN (s : State) (n m : Nat) (x : DWord) :
    rsN (wsN s n x) m = if m = n ∧ n ≠ 0 then x else rsN s m := by
  by_cases h0 : n = 0
  · simp [wsN, h0]
  · by_cases hm : m = 0
    · subst hm; simp [Ne.symm h0]
    · have e : (m = n ∧ n ≠ 0) = (n = m) := by simp only [h0, ne_eq, not_false_eq_true, and_true, eq_comm]
      simp only [rsN, hm, if_false, e]
      unfold wsN sFile
      cases h : s.apMode <;> simp [h0, onAp, apOf, h, cget_cset]
@[simp] theorem rk_setPc (s : State) (a : DWord) (n : Nat) : rk (setPc s a) n = rk s n := by
  unfold setPc rk; cases h : s.apMode <;> simp [h, onAp, apOf]
@[simp] theorem rk_wsN (s : State) (n : Nat) (x : DWord) (m : Nat) : rk (wsN s n x) m = rk s m := by
  unfold wsN rk; cases h : s.apMode <;> by_cases h0 : n = 0 <;> simp [h, h0, onAp, apOf]

/-! ## The rest of the moving carriage -/

theorem SelfKept.refl (s : State) : SelfKept s s := rfl
theorem SelfKept.setPc {s t : State} (h : SelfKept s t) (a : DWord) : SelfKept s (Machine.setPc t a) := by
  unfold Machine.setPc; split
  · exact h
  · exact h
theorem SelfKept.wsN {s t : State} (h : SelfKept s t) (n : Nat) (x : DWord) : SelfKept s (Machine.wsN t n x) := by
  unfold Machine.wsN; split
  · exact h
  · split
    · exact h
    · exact h
theorem SelfKept.ws {s t : State} (h : SelfKept s t) (f : OpField) (x : DWord) : SelfKept s (Machine.ws t f x) :=
  h.wsN (sNum f) x
theorem SelfKept.nextPc {s t : State} (h : SelfKept s t) : SelfKept s (Machine.nextPc t) := h.setPc (pcOf t + 12)

end Sys2Proof.Machine
end

