-- ==== Sys2Proof/Laws/Memory.lean ====
section
/-! SUPPORT. Memory: what a read gives after a write, what a write leaves alone, and that every operation on memory keeps
its canonical form. -/
namespace Sys2Proof.Machine

/-- Bytes read back as they were written; a shorter read gives the first of them. -/
theorem cgetN_take {w : Nat} (c : Cells w) (k m j : Nat) (h : j ≤ m) : cgetN c k j = (cgetN c k m).take j := by
  induction m generalizing k j with
  | zero => obtain rfl := Nat.le_zero.mp h; rfl
  | succ m ih =>
    cases j with
    | zero => rfl
    | succ j => simp only [cgetN, List.take_succ_cons]; rw [ih (k + 1) j (by omega)]
theorem mread_mwrite (s : State) (k : Nat) (bs : List Byte) : mread (mwrite s k bs) k bs.length = bs := cgetN_csetN bs s.mem k
theorem mget_mwrite_other (s : State) (k a : Nat) (bs : List Byte) (h : a < k ∨ k + bs.length ≤ a) :
    mget (mwrite s k bs) a = mget s a := cget_csetN_other bs s.mem k a h
theorem cgetN_congr {w : Nat} (c d : Cells w) (k n : Nat) (h : ∀ a, k ≤ a → a < k + n → cget c a = cget d a) :
    cgetN c k n = cgetN d k n := by
  induction n generalizing k with
  | zero => rfl
  | succ n ih =>
    simp only [cgetN]
    rw [h k (by omega) (by omega), ih (k + 1) (fun a h1 h2 => h a (by omega) (by omega))]
theorem mread_mwrite_other (s : State) (k a n : Nat) (bs : List Byte) (h : a + n ≤ k ∨ k + bs.length ≤ a) :
    mread (mwrite s k bs) a n = mread s a n :=
  cgetN_congr _ _ _ _ (fun x h1 h2 => cget_csetN_other bs s.mem k x (by omega))

/-! ## The canonical form -/

theorem wf_mwrite (s : State) (k : Nat) (bs : List Byte) (h : Memory.wf s.mem = true) : Memory.wf (mwrite s k bs).mem = true :=
  cwf_csetN bs s.mem k h
theorem wf_storeBytes (s : State) (ks : List Nat) (bs : List Byte) (bad : Bool) (h : Memory.wf s.mem = true) :
    Memory.wf (storeBytes s ks bs bad).mem = true := cwf_csetAll _ s.mem h
theorem wf_zeroRange (s : State) (k n : Nat) (h : Memory.wf s.mem = true) : Memory.wf (zeroRange s k n).mem = true :=
  cwf_cclear s.mem k (k + n) h
theorem wf_resetMem (s : State) (h : Memory.wf s.mem = true) : Memory.wf (resetMem s) = true :=
  cwf_csetAll _ _ (cwf_filter _ s.mem h)
theorem wf_resetPackage (s : State) (h : Memory.wf s.mem = true) : Memory.wf (resetPackage s).mem = true := wf_resetMem s h
theorem wf_reset : Memory.wf State.reset.mem = true := rfl

end Sys2Proof.Machine
end

