-- ==== Sys2Proof/Laws/Vector.lean ====
section
/-! SUPPORT. What the shared vector operations do: v and p registers after they are written for the active threads, and
the frame of a vector instruction. -/
namespace Sys2Proof.Machine

/-- Keys that are all written with one value read as it. -/
theorem cget_csetAll_const {w : Nat} (es : List (Nat × BitVec w)) (c : Cells w) (j : Nat) (x : BitVec w)
    (hx : ∀ e ∈ es, e.1 = j → e.2 = x) (hj : (∃ e ∈ es, e.1 = j) ∨ cget c j = x) : cget (csetAll c es) j = x := by
  induction es generalizing c with
  | nil => exact hj.elim (fun h => by simp at h) id
  | cons e r ih =>
    simp only [List.mem_cons, forall_eq_or_imp, exists_eq_or_imp] at hx hj
    rw [csetAll, List.foldl_cons, ← csetAll]
    refine ih _ hx.2 ?_
    by_cases he : e.1 = j
    · right; rw [cget_cset, if_pos he]; exact hx.1 he
    · rcases hj with (h | h) | h
      · exact absurd h he
      · exact Or.inl h
      · right; rw [cget_cset_other _ _ he]; exact h

theorem vKey_inj {a b m n : Nat} (hm : m < 2048) (hn : n < 2048) (h : vKey a m = vKey b n) : a = b ∧ m = n := by
  unfold vKey at h; omega
theorem pKey_inj {a b m n : Nat} (hm : m < 16) (hn : n < 16) (h : pKey a m = pKey b n) : a = b ∧ m = n := by
  unfold pKey at h; omega

theorem isActive_iff (s : State) (h : Head) (tid : Nat) :
    isActive s h tid = true ↔ ∃ st ∈ active s h, st.2 = tid := by
  simp [isActive]

/-- A v register after `setV` with a value that depends on the thread alone. -/
theorem rv_setV (s : State) (h : Head) (f : Nat → Word) (tid n : Nat) (hn : n < 2048) :
    rv (setV s h (fun _ t => f t)) tid n = if n = h.d.toNat ∧ isActive s h tid = true then f tid else rv s tid n := by
  have hd : h.d.toNat < 2048 := h.d.isLt
  unfold setV rv
  rw [wvAll_v]
  split
  · rename_i hc
    obtain ⟨st, hm, he⟩ := (isActive_iff s h tid).1 hc.2
    refine cget_csetAll_const _ _ _ _ ?_ (Or.inl ⟨_, List.mem_map.2 ⟨st, hm, rfl⟩, ?_⟩)
    · intro e he' hk
      obtain ⟨u, _, rfl⟩ := List.mem_map.1 he'
      exact congrArg f (vKey_inj hd hn hk).1
    · simp [he, hc.1]
  · rename_i hc
    refine cget_csetAll_other _ _ _ ?_
    intro e he hk
    obtain ⟨u, hu, rfl⟩ := List.mem_map.1 he
    have hi := vKey_inj hd hn hk
    exact hc ⟨hi.2.symm, (isActive_iff s h tid).2 ⟨u, hu, hi.1⟩⟩

/-- A v register after the pc moves on. -/
theorem rv_nextPc (s : State) (tid n : Nat) : rv (nextPc s) tid n = rv s tid n := by
  have h := ((OthersKept.refl s).nextPc).v
  unfold rv; rw [h]

end Sys2Proof.Machine
end

