-- ==== Sys2Proof/Laws/Run.lean ====
section
/-! SUPPORT. What the shared frames of instructions answer: a scalar or a vector instruction that has its effect, and a
trap that is taken. -/
namespace Sys2Proof.Machine

/-- A scalar instruction that runs answers its body's state. -/
theorem scalarOp_runs {e : Out} {h : Head} {srcs : List OpField} {s : State} {b : State → State}
    (he : e = scalarOp h srcs s b) (r : RunsS h srcs s) : e = .next (b s) := by
  obtain ⟨h1, h2⟩ := r
  rw [he, scalarOp, h1, h2]
  rfl
/-- One that writes s[d] answers the register written and the pc moved on. -/
theorem scalarTo_runs {e : Out} {h : Head} {srcs : List OpField} {s : State} {f : State → DWord}
    (he : e = scalarTo h srcs s f) (r : RunsS h srcs s) : e = .next (nextPc (ws s h.d (f s))) := by
  obtain ⟨h1, h2⟩ := r
  rw [he, scalarTo, scalarOp, h1, h2]
  exact congrArg Host.Outcome.next ((if_neg (by decide)).trans (if_neg (by decide)))
/-- With a false guard it only advances. -/
theorem scalarOp_off {e : Out} {h : Head} {srcs : List OpField} {s : State} {b : State → State}
    (he : e = scalarOp h srcs s b) (g : kGuard h s = false) : e = .next (nextPc s) := by
  rw [he, scalarOp, if_pos g]
/-- A vector instruction that runs answers its body's state at PC + 12. -/
theorem vecOp_runs {e : Out} {h : Head} {regs srcs : List Use} {s : State} {b : State → State}
    (he : e = vecOp h regs srcs s b) (r : RunsV h regs srcs s) (hr : passReadHit s b = false) :
    e = .next (nextPc (b s)) := by
  obtain ⟨h1, h2⟩ := r
  rw [he, vecOp, h2, vecOpWith, h1]
  simp [nextUnlessRead, hr]

/-- A mark that every key of a list takes. -/
theorem cget_markV (s : State) (ks : List Nat) {k : Nat} (hk : k ∈ ks) : cget (markV s ks true).vPoison k = 1 := by
  rw [markV]
  refine cget_csetAll_const _ _ _ _ ?_ (Or.inl ⟨(k, BitVec.ofBool true), List.mem_map.2 ⟨k, hk, rfl⟩, rfl⟩)
  intro e he _
  obtain ⟨_, _, rfl⟩ := List.mem_map.1 he
  exact (by decide : BitVec.ofBool true = 1)
/-- An effect that writes the v registers of some cells alone meets no pass that reads none of them. -/
theorem passReadHit_of {s : State} {b : State → State} (es : State → List (Nat × Word))
    (hb : ∀ u, (b u).vPoison = csetAll u.vPoison ((es u).map (fun e => (e.1, 0))))
    (he : ∀ u, ∀ e ∈ es (markV s u true), ∀ p ∈ s.passes, e.1 ∉ p.regs) : passReadHit s b = false := by
  rw [passReadHit, List.any_eq_false]
  intro k hk
  obtain ⟨p, hp, hkp⟩ := List.mem_flatMap.1 hk
  rw [hb, cget_csetAll_other, cget_markV _ _ hk]
  · decide
  · simp only [List.mem_map]
    rintro e ⟨e', h', rfl⟩ h
    exact he _ _ h' p hp (h ▸ hkp)
/-- What changes no v register meets no pass. -/
theorem passReadHit_of_eq {s : State} {b : State → State} (hb : ∀ u, (b u).vPoison = u.vPoison) : passReadHit s b = false :=
  passReadHit_of (fun _ => []) (fun u => hb u) (fun _ e h => by simp at h)
/-- Writing v[d] of the active threads meets no pass that reads none of it. -/
theorem passReadHit_setV {s : State} {h : Head} (g : State → Nat → Word) (hr : MayWrite s h 1) :
    passReadHit s (fun u => setV u h (fun _ tid => g u tid)) = false := by
  refine passReadHit_of (fun u => (active u h).map (fun st => (vKey st.2 h.d.toNat, g u st.2))) ?_ ?_
  · intro u
    rw [setV, wvAll]
  · intro ks e he p hp hk
    obtain ⟨st, hst, rfl⟩ := List.mem_map.1 he
    have := List.any_eq_false.mp hr p hp
    simp only [List.any_eq_true, not_exists, not_and] at this
    have := this st hst
    simp [hk, span] at this

/-- The two-operand scalar form has the result its function gives. -/
theorem scalarResult_of {mk : IntI → Instr} {f : IntI → DWord → DWord → DWord} (g : IntI → DWord → DWord → DWord)
    (h : ∀ i s, exec (mk i) s = scalarBin i s (g i)) (e : ∀ i a b, g i a b = f i a b) : ScalarResult mk f := by
  intro i s r
  rw [h, scalarBin, scalarTo, scalarOp_runs rfl r, e]

/-- Only v registers change, then the pc moves on. -/
theorem vecKept_nextPc (s u : State) (h : { u with self := s.self, v := s.v, vPoison := s.vPoison } = s) (h2 : u.self = s.self) :
    VecKept s (nextPc u) := by
  unfold nextPc setPc onAp onSelf
  split
  · exact ⟨h, by simp [h2]⟩
  · exact ⟨h, by simp [h2]⟩
/-- A vector instruction that writes v[d] has the result its function gives. -/
theorem vecResult_of {mk : IntI → Instr} {regs srcs : IntI → List Use} {f : IntI → State → Nat → Word}
    (g : IntI → State → Nat → Word)
    (he : ∀ i s, exec (mk i) s = vecOp i.h (regs i) (srcs i) s (fun s => setV s i.h (fun _ tid => g i s tid)))
    (hg : ∀ i s tid, g i s tid = f i s tid) : VecResult mk regs srcs f := by
  intro i s r hw
  refine ⟨nextPc (setV s i.h (fun _ tid => g i s tid)), vecOp_runs (he i s) r (passReadHit_setV (g i) hw), ?_, vecKept_nextPc s _ rfl rfl, ?_⟩
  · simp only [nextPc, pcOf_setPc]
    rfl
  · intro tid n hn
    rw [rv_nextPc, rv_setV _ _ _ _ _ hn, hg]

/-! ## Traps -/

/-- The cause is the low byte of TCAUSE. -/
theorem causeWord_cause (d sl : Nat) (c : BitVec 8) : (causeWord d sl c).extractLsb' 0 8 = c := by
  apply BitVec.eq_of_toNat_eq
  rw [causeWord, BitVec.extractLsb'_toNat, BitVec.toNat_ofNat, Nat.shiftRight_zero]
  have := c.isLt
  omega
/-- A trap enters the handler. -/
theorem takeTrap_of {s : State} (h : Traps s) (a : TrapArgs) :
    takeTrap s a = onSelf s (fun c => { c with trap := trapRecord s a, handler := true, pc := tvec s s.self.world }) := by
  obtain ⟨h1, h2, h3, h4, h5⟩ := h
  have e : rejectAbove s = s := by rw [rejectAbove, h4]
  rw [takeTrap, h1, e]
  rw [if_neg (by decide), if_neg (by simp [h2]), enterTrap, h3, if_neg (by decide), if_neg h5]
/-- What it records, and what it leaves alone. -/
theorem trapped_of {s : State} (h : Traps s) (c : Cause) (a : TrapArgs) (hc : a.cause = causeCode c) :
    Trapped s (takeTrap s a) c (if a.after then s.self.pc + 12 else s.self.pc) a.taddr a.tinfo ∧ TrapKept s (takeTrap s a) := by
  rw [takeTrap_of h]
  refine ⟨⟨rfl, rfl, ?_, rfl, rfl, rfl, rfl⟩, rfl, rfl⟩
  show BitVec.extractLsb' 0 8 (causeWord _ _ a.cause) = _
  rw [causeWord_cause, hc]

end Sys2Proof.Machine
end

