-- ==== Sys2Proof/Tests/Slice0.lean ====
section
/-! SUPPORT. Tests: words of the manual's worked examples decode to what they stand for, ill-formed terms are refused,
single steps give the manual's results, and each statement's hypotheses are met by a concrete state. -/
namespace Sys2Proof.Tests
open Sys2Proof Sys2Proof.Machine
set_option Elab.async false

/-! ## Words of the manual -/

/-- Three words as an instruction, and the twelve bytes of one. -/
def w3 (a b c : Word) : InstrBits := c ++ (b ++ a)
def ofBytes (bs : List Nat) : InstrBits := bitsOfBytes (bs.map (BitVec.ofNat 8))

/-- A decoder's answer is this instruction. -/
def okIs (x : Except DecodeFate Instr) (i : Instr) : Bool :=
  match x with
  | .ok j => j == i
  | .error _ => false

def noHints : Hints := { lastUse := false, reuseB := false, reuseA := false, yld := false, stall := 0 }
/-- Fields by number; guard 0 is always true. -/
def hd (d a b : Nat) : Head :=
  { d := BitVec.ofNat 11 d, hints := noHints, gneg := false, guard := 0, b := BitVec.ofNat 11 b, a := BitVec.ofNat 11 a }
def hdG (g : Nat) (gneg : Bool) (d a b : Nat) : Head := { hd d a b with guard := BitVec.ofNat 4 g, gneg := gneg }
def sReg (n : Nat) : Nat := 1536 + n
def rrr0 : Rrr := { xmod := 0, rnd := 0, c := 0 }
def rrrC (c : Nat) : Rrr := { rrr0 with c := BitVec.ofNat 11 c }
def intRri (h : Head) (imm : Nat) : IntI := { h := h, sat := false, u := false, sub := 0, low := 0, t := .rri (BitVec.ofNat 32 imm) }
def intRrr (h : Head) : IntI := { h := h, sat := false, u := false, sub := 0, low := 0, t := .rrr rrr0 }
def rrrI0 (h : Head) (mod : Nat) : RrrI := { h := h, mod := BitVec.ofNat 10 mod, t := rrr0 }
def rriI0 (h : Head) (imm : Nat) : RriI := { h := h, mod := 0, imm := BitVec.ofNat 32 imm }
/-- ENG word 2 with EVICT E3, EMOD and MOD. -/
def engI0 (h : Head) (emod mod : Nat) : EngI :=
  { h := h, tf := false, mod := BitVec.ofNat 9 mod
    t := { emod := BitVec.ofNat 16 emod, ring := 0, ctr := 0, evict := 3, scope := 0, order := 0 } }
def locI0 (h : Head) (wid : Nat) : LocI :=
  { h := h, wid := BitVec.ofNat 3 wid, u := false, aop := 0, low := 0, t := { ofs := 0, evict := 3, scope := 0, order := 0 } }

-- 25: the handler that skips the faulting instruction
theorem test_decode_sadd : okIs (decode (w3 0xDF400001 0x800006FA 0x0000000C))
    (.sadd (intRri (hd (sReg 250) (sReg 250) 0) 12)) = true := by decide +kernel
theorem test_decode_sysrd : okIs (decode (w3 0xDF4000E0 0x00000600 0x00000008))
    (.sysrd (rriI0 (hd (sReg 250) (sReg 0) 0) 8)) = true := by decide +kernel
theorem test_decode_syswr : okIs (decode (w3 0x000000E1 0x0037D600 0x00000010))
    (.syswr (rriI0 (hd 0 (sReg 0) (sReg 250)) 16)) = true := by decide +kernel
theorem test_decode_eret : okIs (decode (w3 0x000000E2 0 0))
    (.eret (rrrI0 (hd 0 0 0) 0)) = true := by decide +kernel
-- 26: the gather program
theorem test_decode_tdesc : okIs (decode (ofBytes [0xC1, 0, 0x40, 0, 1, 6, 0x70, 0, 0, 0, 0, 0]))
    (.tdesc (rrrI0 (hd 2 (sReg 1) (sReg 0)) 1)) = true := by decide +kernel
theorem test_decode_gat : okIs (decode (ofBytes [0x92, 0, 0x20, 0, 2, 0xA8, 0x30, 0, 0x60, 0, 0x0F, 2]))
    (.gat (engI0 (hd 1 2 (sReg 21)) 0x020F 0)) = true := by decide +kernel
-- 27: the scatter program
theorem test_decode_scaa : okIs (decode (w3 0x00400095 0x00307002 0x020B0060))
    (.scaa (engI0 (hd 2 2 (sReg 14)) 0x020B 0)) = true := by decide +kernel
theorem test_decode_gatp : okIs (decode (w3 0x00600093 0x00F07802 0x0A070060))
    (.gatp (engI0 (hd 3 2 (sReg 15)) 0x0A07 3)) = true := by decide +kernel
-- 28: the expert-choice program
theorem test_decode_accdef : okIs (decode (ofBytes [0xBB, 0, 0, 0, 0, 0, 0, 0, 9, 1, 0, 0]))
    (.accdef (rriI0 (hd 0 0 0) 0x109)) = true := by decide +kernel
theorem test_decode_rkins : okIs (decode (ofBytes [0xC2, 1, 0, 0, 4, 8, 0, 0, 5, 0, 0, 0]))
    (.rkins { h := hdG 1 false 0 4 1, pi := 0, asrc := 0, low := 0, t := rrrC 5 }) = true := by decide +kernel
theorem test_decode_route : okIs (decode (ofBytes [0xA1, 0, 0x20, 0, 1, 6, 0, 0, 0x76, 0, 0, 0]))
    (.route { engI0 (hd 1 (sReg 1) 0) 0 0 with
      t := { emod := 0, ring := 0, ctr := 0, evict := 3, scope := 5, order := 2 } }) = true := by decide +kernel
-- 29: the batching program
theorem test_decode_kvapp : okIs (decode (ofBytes [0x9B, 0x13, 0x20, 0, 0x1C, 0xEE, 0x30, 0, 0x60, 0, 0, 0]))
    (.kvapp (engI0 (hdG 3 true 1 (sReg 28) (sReg 29)) 0 0)) = true := by decide +kernel
theorem test_decode_waitc : okIs (decode (ofBytes [0x2A, 0, 0, 0, 0, 0, 0, 0, 0, 0xFF, 0xFF, 0xFF]))
    (.waitc (rriI0 (hd 0 0 0) 0xFFFFFF00)) = true := by decide +kernel
-- 30: the speculative decoder
theorem test_decode_sploop : okIs (decode (ofBytes [0x38, 0, 0, 0, 0, 6, 0x30, 0, 0x60, 0, 0, 0]))
    (.sploop { h := hd 0 (sReg 0) (sReg 0), mod := 0, t := { ofs := 0, evict := 3, scope := 0, order := 0 } }) = true := by decide +kernel
theorem test_decode_guess : okIs (decode (ofBytes [0x39, 0, 0x80, 0xC2, 0x1F, 6, 0x40, 0, 0, 0, 0, 0]))
    (.guess (rrrI0 (hd (sReg 20) (sReg 31) 0) 1)) = true := by decide +kernel
theorem test_decode_mmrk : okIs (decode (ofBytes [0xC6, 1, 0, 0, 0x17, 0x0E, 0, 8, 0x16, 6, 0, 0]))
    (.mmrkBf16 { h := hdG 1 false 0 (sReg 23) 1, pi := 0, asrc := 1, low := 0, t := rrrC (sReg 22) }) = true := by decide +kernel
theorem test_decode_spend : okIs (decode (ofBytes [0x3B, 0, 0x80, 0xC3, 0, 0, 0, 0, 0, 0, 0, 0]))
    (.spend (rrrI0 (hd (sReg 28) 0 0) 0)) = true := by decide +kernel
-- 31: the sharded decoder
theorem test_decode_coll : okIs (decode (ofBytes [0x9A, 0, 0x60, 0, 1, 6, 0, 0, 0x60, 1, 0, 0]))
    (.coll { engI0 (hd 3 (sReg 1) 0) 0 0 with
      t := { emod := 0, ring := 0, ctr := 1, evict := 3, scope := 0, order := 0 } }) = true := by decide +kernel
theorem test_decode_cpy : okIs (decode (w3 0x00A00090 0x10307E0E 0x0040027A))
    (.cpy { engI0 (hd 5 (sReg 14) (sReg 15)) 0x40 0x40 with
      t := { emod := 0x40, ring := 0, ctr := 2, evict := 3, scope := 6, order := 2 } }) = true := by decide +kernel
-- 32: the contact solver
theorem test_decode_spawn : okIs (decode (ofBytes [0x30, 1, 0, 0, 0x0A, 0xA6, 0, 0, 0x15, 0, 0, 0]))
    (.spawn { h := hdG 1 false 0 (sReg 10) 20, mod := 0, t := rrrC 21 }) = true := by decide +kernel
theorem test_decode_vfcmp : okIs (decode (ofBytes [0x6C, 0, 0x40, 0, 1, 0x10, 0, 0x21, 0, 0, 0, 0]))
    (.vfcmpF32 { h := hd 2 1 2, nega := false, absa := true, negb := false, absb := false, negc := false, sub := 4
                 t := .rrr rrr0 }) = true := by decide +kernel
theorem test_decode_dbr : okIs (decode (ofBytes [0x26, 0, 0, 0, 2, 0x20, 0, 0, 2, 0, 0, 0]))
    (.dbr { h := hd 0 2 4, mod := 0, bofs := 2 }) = true := by decide +kernel
theorem test_decode_mma : okIs (decode (ofBytes [0xB3, 1, 0, 0, 0, 0x0E, 0, 0x0C, 0, 0, 0, 0]))
    (.mmaBf16 { h := hdG 1 false 0 (sReg 0) 1, pi := 0, asrc := 1, low := 16, t := rrr0 }) = true := by decide +kernel

/-! ## What the checks refuse: one ill-formed term each (03 R63, R64) -/

def addOf (h : Head) : IntI := { intRrr h with t := .rrr rrr0 }
theorem test_wellformed_sadd : WellFormed (.sadd (addOf (hd (sReg 3) (sReg 1) (sReg 2)))) := by decide +kernel
/-- An event has no words. -/
theorem test_illformed_event : ¬WellFormed .packageReset := by decide +kernel
/-- A reserved modifier: SUB of SADD. -/
theorem test_illformed_modifier : modOk (.sadd { addOf (hd (sReg 3) (sReg 1) (sReg 2)) with sub := 1 }) = false := by decide +kernel
/-- A reserved rounding mode. -/
theorem test_illformed_rounding :
    modOk (.sfma { intRrr (hd (sReg 3) (sReg 1) (sReg 2)) with t := .rrr { xmod := 0, rnd := 7, c := BitVec.ofNat 11 (sReg 4) } }) = false := by
  decide +kernel
/-- An operand field outside its class: a v register in SADD, k16 in SCMP, p16 in VCMP. -/
theorem test_illformed_operand : opsOk (.sadd (addOf (hd 5 (sReg 1) (sReg 2)))) = false ∧
    opsOk (.scmp (addOf (hd 16 (sReg 1) (sReg 2)))) = false ∧ opsOk (.vcmpI32 (addOf (hd 16 1 2))) = false := by decide +kernel
/-- An access-processor operand above s31, and a queue above 7. -/
theorem test_illformed_ap : opsOk (.apQpop (rrrI0 (hd (sReg 32) 0 0) 0)) = false ∧
    opsOk (.apQpush (rrrI0 (hd 8 (sReg 1) 0) 0)) = false := by decide +kernel
/-- An assigned opcode is no reserved one. -/
theorem test_illformed_reserved : modOk (.reservedOpcode 0x01 0) = false ∧ modOk (.reservedOpcode 0xFF 0) = true := by
  decide +kernel

/-! ## A small state: one coach on core 0 with one carriage of one thread -/

def tRec : LaunchRec := { recOf (zeros 128) with entry := 0x3000, nreg := 128, accs := 2, spec := 4, sok := true, twin := 1, width := 1 }
def tCoach : Coach :=
  { id := 1, launch := 1, index := 0, spawn := false, x := 0, y := 0, rcd := tRec, ctag := 5, n7 := false, recons := []
    succ := none, succNamed := [], waiting := false, stopped := false, saved := false, arrived := 0, areas := [0], kept := [], spill := []
    placed := 0 }
def tLaunch : Launch := { newLaunch 1 0x100 tRec true (some 0) with nextCoach := 1, placedAt := some 0 }
/-- s1 = 5, s2 = 7, s4 = 0x1000; thread 128 lives in slot 0. -/
def tCar : Carriage :=
  { Carriage.none with
    id := 1, coach := 1, launch := 1, slots := [129], nreg := 128, accs := 2, spillBytes := 64, spillBase := Config.spillLo
    spillBlock := Config.spillLo, pc := 0x3000, s := [(1, 5), (2, 7), (4, 0x1000)], wait := .run }
def tS : State :=
  { State.reset with
    self := tCar, coaches := [tCoach], launches := [tLaunch], live := [(128, 1)], nextId := 100, turn := .fetch, cyc := 50, ns := 70 }
/-- With a trap vector for both worlds. -/
def tT : State := wsys (wsys tS 0 4 0 0x8000) 1 4 0 0x9000
/-- In the handler. -/
def tH : State := { tT with self := { tT.self with handler := true } }
def intA : IntI := addOf (hd (sReg 3) (sReg 1) (sReg 2))
def vecA : IntI := addOf (hd 127 1 2)

/-! ### The state after, for reading -/

def after (o : Out) : State :=
  match o with
  | .next t => t
  | _ => State.reset

/-! ## Single steps, with values worked out by hand from the rules -/

theorem test_sadd_sum : rsN (after (exec (.sadd intA) tS)) 3 = 12 ∧ pcOf (after (exec (.sadd intA) tS)) = 0x300C := by decide +kernel
/-- R131: SAT clamps 2^63 - 1 + 1. -/
theorem test_sadd_sat : rsN (after (exec (.sadd { intA with sat := true, t := .rri 1 })
    { tS with self := { tCar with s := [(1, 0x7FFFFFFFFFFFFFFF)] } })) 3 = 0x7FFFFFFFFFFFFFFF := by decide +kernel
/-- R132: a zero divisor gives all ones; -7 / 2 = -3. -/
theorem test_sdiv_zero : rsN (after (exec (.sdiv { intA with t := .rri 0 }) tS)) 3 = 0xFFFFFFFFFFFFFFFF := by decide +kernel
theorem test_sdiv_trunc : rsN (after (exec (.sdiv { intA with t := .rri 2 })
    { tS with self := { tCar with s := [(1, 0xFFFFFFFFFFFFFFF9)] } })) 3 = 0xFFFFFFFFFFFFFFFD := by decide +kernel
/-- R133: a shift of 64 gives 0, an arithmetic one the sign. -/
theorem test_sshl_width : rsN (after (exec (.sshl { intA with t := .rri 64 }) tS)) 3 = 0 := by decide +kernel
theorem test_ssra_width : rsN (after (exec (.ssra { intA with t := .rri 70 })
    { tS with self := { tCar with s := [(1, 0x8000000000000000)] } })) 3 = 0xFFFFFFFFFFFFFFFF := by decide +kernel
/-- R25: s0 discards what is written. -/
theorem test_s0_discards : rsN (after (exec (.sadd { intA with h := hd (sReg 0) (sReg 1) (sReg 2) }) tS)) 0 = 0 := by decide +kernel
/-- R369, R370: TRAP enters the handler at TVEC with P + 12. -/
theorem test_trap_entry : (after (exec (.trap (rriI0 (hd 0 0 0) 9)) tT)).self.pc = 0x8000 ∧
    (after (exec (.trap (rriI0 (hd 0 0 0) 9)) tT)).self.trap.tres = 0x300C ∧
    (after (exec (.trap (rriI0 (hd 0 0 0) 9)) tT)).self.trap.tinfo = 9 := by decide +kernel
/-- R333: BRA by -1 instruction. -/
theorem test_bra_back : pcOf (after (exec (.bra { h := hd 0 0 0, mod := 0, bofs := 0xFFFFFFFF }) tS)) = 0x2FF4 := by decide +kernel
/-- R140: the vector sum of the one live thread. -/
theorem test_vadd : rv (after (exec (.vaddI32 vecA) { tS with v := [(vKey 128 1, 0xFFFFFFFF), (vKey 128 2, 3)] })) 128 127 = 2 := by
  decide +kernel
/-- R389: TPC read back in the handler. -/
theorem test_sysrd_tpc : rsN (after (exec (.sysrd (rriI0 (hd (sReg 250) (sReg 0) 0) 8))
    { tH with self := { tH.self with trap := { TrapRec.reset with tpc := 0x480 } } })) 250 = 0x480 := by decide +kernel
/-- R391: ERET resumes at TRES. -/
theorem test_eret : (after (exec (.eret (rrrI0 (hd 0 0 0) 0))
    { tH with self := { tH.self with trap := { TrapRec.reset with tres := 0x48C } } })).self.pc = 0x48C := by decide +kernel
/-- 09: 0 times infinity is the default NaN with IV, whatever is added. -/
theorem test_vfma_invalid : fMadd fmtF32 .rne (decodeF fmtF32 0) (decodeF fmtF32 0x7F800000) (decodeF fmtF32 0x7FC00000) =
    (0x7FC00000, fIV) := by decide +kernel
/-! ## The statements' hypotheses can be met

One theorem per statement: concrete states and operands that meet the hypotheses of its clauses, at the ends of their
ranges. Hypotheses on a free value of Config are met whichever value it has. -/

def isNext (o : Out) : Bool :=
  match o with
  | .next _ => true
  | _ => false
/-- The guard k1, which reads 0 here. -/
def hOff : Head := hdG 1 false (sReg 3) (sReg 1) (sReg 2)
def hSss : Head := hd (sReg 3) (sReg 1) (sReg 2)
def hVec : Head := hd 127 1 2
def hPair : Head := hd 126 2 4
def vecI : IntI := intRrr hVec
def pairI : IntI := intRrr hPair
def rrrI (h : Head) (c : Nat) : RrrI := { h := h, mod := 0, t := rrrC c }
def fpI0 (h : Head) (sub : Nat) : FpI :=
  { h := h, nega := false, absa := false, negb := false, absb := false, negc := false, sub := BitVec.ofNat 4 sub, t := .rrr rrr0 }

theorem hyps_ScalarArithmeticResults :
    RunsS intA.h (intA.h.a :: bField intA) tS ∧
    RunsS intA.h (intA.h.a :: bField { intA with t := .rri 0 }) tS ∧ srcB { intA with t := .rri 0 } tS = 0 := by decide +kernel
theorem hyps_ScalarCompareSelectBits :
    (∀ sub < 6, ({ intA with sub := BitVec.ofNat 4 sub } : IntI).sub.toNat = sub ∧ RunsS hSss (intA.h.a :: bField intA) tS) ∧
    RunsS hSss (intA.h.d :: intA.h.a :: bField intA) tS ∧ RunsS hSss [intA.h.a] tS := by decide +kernel
theorem hyps_modifiersOfForms :
    WellFormed (.ssel intA) ∧ WellFormed (.scmp (addOf (hd 15 (sReg 1) (sReg 2)))) ∧ WellFormed (.vaddI64 (addOf (hd 2 4 6))) ∧
      { intA with sat := true }.sat = true ∧ { intA with sub := 15 }.sub.toNat = 15 ∧ { intA with low := 7 }.low ≠ 0 ∧
      { intA with u := true }.u = true ∧ ({ intA with sub := 1, sat := true } : IntI).sub = 1 := by decide +kernel
theorem hyps_ScalarMovesAndSpecials :
    RunsS hSss [hSss.a] tS ∧ RunsS hSss [] tS ∧ tS.self.spin.count = 0 ∧ tS.apMode = false := by decide +kernel
theorem hyps_ScalarFloatResults :
    RunsS hSss [hSss.a, (0 : OpField), hSss.b] tS ∧ RunsS hSss [hSss.a, hSss.d] tS ∧ RunsS hSss [hSss.a] tS := by decide +kernel
theorem hyps_FalseGuardOnlyAdvances : kGuard hOff tS = false ∧ rangeBad tS [((127 : OpField), 1), (126, 1)] = false ∧
    rangeBad tS [((126 : OpField), 2)] = false := by decide +kernel
theorem hyps_ScalarFrame :
    RunsS intA.h (intA.h.a :: bField intA) tS ∧ isNext (exec (.sadd intA) tS) = true := by decide +kernel
theorem hyps_VectorIntegerResults :
    RunsV hVec (useDAB 1 vecI ++ useC vecI 1) (useAB 1 vecI ++ useC vecI 1) tS ∧
    pairI.h.d.toNat < 1536 ∧ RunsV hPair (useDAB 2 pairI) (useAB 2 pairI) tS ∧ MayWrite tS hVec 1 ∧ MayWrite tS hPair 2 := by
  decide +kernel
theorem hyps_VectorMovesAndBits :
    RunsV hVec (useDAB 1 vecI) (useAB 1 vecI) tS ∧ RunsV hPair (useDAB 2 pairI) (useAB 2 pairI) tS ∧
    RunsV hVec ((hVec.d, 1) :: movUse vecI 1) (movUse vecI 1) tS ∧
    RunsV hPair ((hPair.d, 2) :: movUse pairI 2) (movUse pairI 2) tS ∧
    RunsV hVec [(hVec.d, 1), (hVec.a, 1)] [(hVec.a, 1)] tS ∧ RunsV hVec [(hVec.d, 1)] [] tS ∧ SlotsDistinct tS ∧
    MayWrite tS hVec 1 ∧ MayWrite tS hPair 2 := by
  decide +kernel
theorem hyps_VectorPredicates :
    let i := intRrr (hd 15 1 2)
    let w := intRrr (hd 15 2 4)
    i.h.d.toNat < 16 ∧ RunsV i.h (useAB 1 i) (useAB 1 i) tS ∧ RunsV w.h (useAB 2 w) (useAB 2 w) tS ∧ RunsV i.h [] [] tS ∧
    RunsV i.h [(i.h.a, 1)] [(i.h.a, 1)] tS ∧ RunsV hVec [(hVec.d, 1)] [] tS := by decide +kernel
theorem hyps_VectorCrossThread :
    SlotsDistinct tS ∧ rangeBad tS (useDAB 1 vecI) = false ∧ shflPoison vecI tS = none ∧
    RunsV hVec [(hVec.d, 1), (hVec.a, 1)] [(hVec.a, 1)] tS ∧ 0 < (active tS hVec).length ∧
    RunsV hVec [(hVec.a, 1)] [(hVec.a, 1)] tS ∧ RunsV hPair [(hPair.a, 2)] [(hPair.a, 2)] tS := by decide +kernel
theorem hyps_VectorFloatResults :
    let i := fpI0 hVec 0
    let w := fpI0 hPair 0
    RunsV hVec (fpDAB 1 i ++ fpUseC i 1) (fpAB 1 i ++ fpUseC i 1) tS ∧ RunsV hVec (fpDA 1 i) (fpUseA1 i 1) tS ∧
    w.h.d.toNat < 1536 ∧ RunsV hPair (fpDAB 2 w ++ fpUseC w 2) (fpAB 2 w ++ fpUseC w 2) tS ∧
    RunsV hPair (fpDA 2 w) (fpUseA1 w 2) tS := by decide +kernel
theorem hyps_VectorFloatFunctions :
    let i := fpI0 hVec 0
    let w := fpI0 hPair 1
    let c := fpI0 (hd 15 2 4) 0
    i.sub.getLsbD 0 = false ∧ RunsV hVec (fpDAB 1 i) (fpAB 1 i) tS ∧ RunsV hVec (fpDA 1 i) (fpUseA1 i 1) tS ∧
    w.sub.getLsbD 0 = true ∧ w.h.d.toNat < 1536 ∧ RunsV hPair (fpDAB 2 w) (fpAB 2 w) tS ∧ RunsV hPair (fpDA 2 w) (fpUseA1 w 2) tS ∧
    RunsV hVec ((hVec.d, 1) :: fpUseA1 w 2) (fpUseA1 w 2) tS ∧ c.h.d.toNat < 16 ∧ RunsV c.h (fpAB 1 c) (fpAB 1 c) tS ∧
    RunsV c.h (fpAB 2 c) (fpAB 2 c) tS ∧ SlotsDistinct tS ∧
    (decodeF fmtF32 0x7FC00000).isNan = true ∧ (decodeF fmtF32 0x7F800001).isSig = true := by decide +kernel

/-- Addresses: v1 of thread 128, with v2 = 0. -/
def tAt (a : Nat) : State := { tS with v := [(vKey 128 1, BitVec.ofNat 32 a)] }
/-- s1 as an address, with s2 = 0. -/
def tAtS (a : Nat) : State := { tS with self := { tCar with s := [(1, BitVec.ofNat 64 a)] } }
def locV (wid : Nat) : LocI := locI0 (hd 124 1 2) wid
def locS (wid : Nat) (scr : Bool) : LocI := { locI0 hSss wid with low := if scr then 1 else 0 }
/-- The last bytes of each space: 128 KiB of shared memory, the scratchpad below the spill area, 64 bytes of spill. -/
def lastOf : LocSpace → Nat
  | .shm => 131072
  | .scr => 369098752
  | .spill => 64

theorem hyps_LocalLoads_unowned :
    (∀ sp ∈ [LocSpace.shm, .scr, .spill], ∀ wid < 5, Unowned (tAt (lastOf sp - 2 ^ wid))) ∧
    ∀ scr, ∀ wid < 4, Unowned (tAtS (lastOf (sclSpace (locS wid scr)) - 2 ^ wid)) := by decide +kernel
theorem hyps_LocalLoads :
    (∀ sp ∈ [LocSpace.shm, .scr, .spill], ∀ wid < 5,
      let s := tAt (lastOf sp - 2 ^ wid)
      let i := locV wid
      i.wid.toNat = wid ∧ RunsV i.h (locRegs i) (locSrcs i) s ∧ MayWrite s i.h (widRegs i.wid) ∧
        accFault s sp (widBytes i.wid) (vecAddrs s i true) = none) ∧
    (∀ scr, ∀ wid < 4,
      let i := locS wid scr
      let s := tAtS (lastOf (sclSpace i) - 2 ^ wid)
      s.apMode = false ∧ RunsS i.h [i.h.a, i.h.b] s ∧ locOk s (sclSpace i) (sclAddr s i true) = true ∧
        sclAddr s i true % widBytes i.wid = 0) := by decide +kernel
/-- Two threads whose bytes do not meet, and one. -/
def tTwo : State := { tS with
  self := { tCar with slots := [129, 130] }, live := [(128, 1), (129, 1)]
  v := [(vKey 128 1, 0), (vKey 129 1, 16)] }
theorem hyps_LocalStores :
    (∀ sp ∈ [LocSpace.shm, .scr, .spill], ∀ wid < 5,
      RunsV (locV wid).h (locRegs (locV wid)) (locSrcs (locV wid)) tTwo ∧
        accFault tTwo sp (widBytes (locV wid).wid) (vecAddrs tTwo (locV wid) true) = none ∧
        logFull tTwo sp (vecKeys tTwo (locV wid) sp true) = false ∧ (vecAddrs tTwo (locV wid) true).length = 2 ∧
        (locKeys tTwo sp 128 0 16).Nodup ∧
        (locKeys tTwo sp 128 0 16).all (fun k => !(locKeys tTwo sp 129 16 16).contains k) = true) ∧
    Unowned tTwo := by decide +kernel
theorem hyps_LocalStores_scalar :
    ∀ scr, ∀ wid < 4,
      let i := locS wid scr
      let s := tAtS (lastOf (sclSpace i) - 2 ^ wid)
      i.wid.toNat ≤ 3 ∧ s.apMode = false ∧ RunsS i.h [i.h.a, i.h.b] s ∧ locOk s (sclSpace i) (sclAddr s i true) = true ∧
        sclAddr s i true % widBytes i.wid = 0 ∧
        logFull s (sclSpace i) (locKeys s (sclSpace i) 0 (sclAddr s i true) (widBytes i.wid)) = false := by decide +kernel
theorem hyps_LocalAtomics :
    (∀ sp ∈ [LocSpace.shm, .scr], ∀ wid ∈ [2, 3],
      let i := { locI0 (hd 124 1 2) wid with aop := 9 }
      let s := tAt (lastOf sp - 2 ^ wid)
      active s i.h = [(0, 128)] ∧ RunsV i.h (atomRegs i) (atomSrcs i) s ∧ MayWrite s i.h 2 ∧
        accFault s sp (widBytes i.wid) (vecAddrs s i false) = none ∧ logFull s sp (vecKeys s i sp false) = false) ∧
    (∀ scr, ∀ wid ∈ [2, 3],
      let i := { locS wid scr with aop := 9 }
      let s := tAtS (lastOf (sclSpace i) - 2 ^ wid)
      s.apMode = false ∧ RunsS i.h (i.h.a :: i.h.b :: [i.h.d]) s ∧
        locOk s (sclSpace i) (sclAddr s i false) = true ∧ sclAddr s i false % widBytes i.wid = 0 ∧
        logFull s (sclSpace i) (locKeys s (sclSpace i) 0 (sclAddr s i false) (widBytes i.wid)) = false) := by decide +kernel
/-- A load of one thread, and one of the carriage, on their way. -/
def loadV : PendLoad := { id := 7, homes := [1], elems := [.v [(vKey 128 3, 9), (vKey 128 4, 8)] false], img := none }
def loadS1 : PendLoad := { id := 8, homes := [1], elems := [.s 1 3 77 false], img := none }
def fenceOf : LocAcc := { id := 9, cid := 1, homes := [1], order := 3, scope := 5, later := false, keys := [], act := .fence }
theorem hyps_ArrivalFenceAlignment :
    (let s := { tS with loads := [loadV, loadS1] }
     s.loads.find? (fun x => x.id == loadV.id) = some loadV ∧ ([(vKey 128 3, (9 : Word)), (vKey 128 4, 8)].map (fun c => c.1)).Nodup ∧
       idWaits s 7 = false ∧ s.loads.find? (fun x => x.id == loadS1.id) = some loadS1 ∧ s.self.id = 1 ∧ s.apMode = false ∧
       idWaits s 8 = false ∧ loadV.img = none ∧ loadS1.img = none ∧ s.stale = []) ∧ anyOpen { tS with waits := [fenceOf] } 5 = true ∧
    RunsS hSss [] tS ∧ anyOpen tS 0 = false ∧ fenceOf.act = .fence ∧ fenceOf.order = 3 := by decide +kernel
theorem hyps_ArrivalFenceAlignment_faults :
    (∀ sp ∈ [LocSpace.shm, .scr, .spill],
      let range := { tAt (lastOf sp) with sysr := tT.sysr }
      let align := { tAt 1 with sysr := tT.sysr }
      Traps range ∧ Traps align ∧ RunsV (locV 2).h (locRegs (locV 2)) (locSrcs (locV 2)) range ∧
        RunsV (locV 2).h (locRegs (locV 2)) (locSrcs (locV 2)) align ∧
        accFault range sp 4 (vecAddrs range (locV 2) true) = some (.addrRange, 0, lastOf sp) ∧
        accFault align sp 4 (vecAddrs align (locV 2) true) = some (.addrAlign, 0, 1)) ∧
    (let i := locS 3 false
     let s := { tAtS 4 with sysr := tT.sysr }
     Traps s ∧ RunsS i.h [i.h.a, i.h.b] s ∧ locOk s (sclSpace i) (sclAddr s i true) = true ∧
       sclAddr s i true % widBytes i.wid ≠ 0) := by decide +kernel
def tAp : ApCtx :=
  { s := [], k := 0, pc := 0x3000, running := true, exited := false, faulted := false, cause := 0
    inbound := List.replicate 31 3, sPoison := 0 }
/-- The carriage with an access processor, which runs; and that processor in its place. -/
def tQ : State := { tS with self := { tCar with ap := some tAp, q := [(7, 5)], qClosed := 0 } }
def tQa : State := { tQ with apMode := true }
/-- The same with the access processor changed. -/
def withAp (s : State) (a : ApCtx) : State := { s with self := { s.self with ap := some a } }
theorem hyps_QueuePorts_qpop :
    (let i := rrrI (hd (sReg 3) 7 0) 0
     tQ.apMode = false ∧ RunsS i.h [] tQ ∧ tQ.self.spinst = 0 ∧ inRegion tQ.self = false ∧
       popQueue i.h.a.toNat tQ.self.q = some (5, [])) ∧
    (let i := rrrI (hd (sReg 3) 0 0) 0
     popQueue i.h.a.toNat tQ.self.q = none ∧ tQ.self.qClosed.getLsbD i.h.a.toNat = false ∧
       tS.self.qClosed.getLsbD i.h.a.toNat = true ∧ popQueue i.h.a.toNat tS.self.q = none ∧ apFaulted tS.self = false) ∧
    (let s := withAp tT { tAp with faulted := true }
     Traps s ∧ RunsS hSss [] s ∧ popQueue 0 s.self.q = none ∧ s.self.qClosed.getLsbD 0 = true ∧ apFaulted s.self = true) := by
  decide +kernel
theorem hyps_QueuePorts_qpush :
    (RunsS hSss [hSss.a] tQ ∧ tQ.apMode = false ∧ tQ.self.spinst = 0 ∧ inRegion tQ.self = false ∧ tS.self.ap = none) ∧
    (tQ.self.ap = some tAp ∧ tAp.faulted = false ∧ tAp.exited = false ∧ anyOpen tQ 3 = false ∧ tAp.inbound.length < 32) ∧
    32 ≤ (List.replicate 32 (3 : DWord)).length ∧ Traps (withAp tT { tAp with faulted := true }) := by decide +kernel
theorem hyps_QueuePorts :
    (let i := rrrI (hd 7 (sReg 1) 0) 0
     tQa.apMode = true ∧ RunsS i.h [i.h.a] tQa ∧ (apOf tQa).inbound = 3 :: List.replicate 30 3 ∧ queueLen tQa i.h.d.toNat < 32 ∧
       (apOf (withAp tQa { tAp with inbound := [] })).inbound = [] ∧
       32 ≤ queueLen { tQa with self := { tQa.self with q := List.replicate 32 (7, 5) } } i.h.d.toNat) ∧
    (∀ low ∈ [0, 1],
      let i := { locS 3 false with low := low }
      let sp := if low = 0 then LocSpace.shm else .scr
      RunsS i.h [i.h.a, i.h.b] tQa ∧ locOk tQa sp (sclAddr tQa i true) = true ∧ sclAddr tQa i true % widBytes i.wid = 0 ∧
        (keyLines (locKeys tQa sp 0 (sclAddr tQa i true) (widBytes i.wid))).any (lineExcl tQa) = false) := by decide +kernel
/-- An operation owns every line of the shared memory's first bytes. -/
theorem hyps_QueuePorts_owned :
    let s := { tQa with ops := [{ newOp tQa (engI0 hSss 0 0) 60 0 .failed [] [memKey .shm 1 0 / 128] with stage := .issued }] }
    (keyLines (locKeys s .shm 0 (sclAddr s (locS 3 false) true) 8)).any (lineExcl s) = true := by decide +kernel

/-- Memory by addresses of the package's own HBM, pages flat below 2^30 for the S world and those of package 5 above; a jump
table of five entries with label 0x42 at 0x4000: 0x6000, with no label there; 0x5000, where LPAD 0x42 stands; 0x5002; one of
package 5; one of no page. -/
def put (s : State) (key : Nat) (bs : List Byte) : State := { s with mem := csetN s.mem key bs }
def poke (s : State) (a : Nat) (bs : List Byte) : State := put s (memKey .hbm Config.ownPackage a) bs
def tB : State :=
  poke (poke (poke (mapFlat { tT with self := { tCar with world := true, s := [(1, 0x4000), (2, 1)] } }) 0x2008
    (leBytes 8 (5 * 2 ^ 48 + 0x7D))) 0x4000 (leBytes 8 0x4200000005 ++ leBytes 8 0x6000 ++ leBytes 8 0x5000 ++
    leBytes 8 0x5002 ++ leBytes 8 0x40000000 ++ leBytes 8 0x80000000)) 0x5000 (leBytes 12 0x420000000000000022)
def tBx (a b : Nat) : State := { tB with self := { tB.self with s := [(1, BitVec.ofNat 64 a), (2, BitVec.ofNat 64 b)] } }
def brx42 : RriI := rriI0 (hd 0 (sReg 1) (sReg 2)) 0x42
def wordIs (x : Except Cause DWord) (w : DWord) : Bool :=
  match x with
  | .ok y => y == w
  | .error _ => false
def bytesAre (x : Except Cause (List Byte)) (f : List Byte → Bool) : Bool :=
  match x with
  | .ok y => f y
  | .error _ => false
def isErr {α β : Type} (x : Except β α) : Bool :=
  match x with
  | .ok _ => false
  | .error _ => true
theorem hyps_BranchesAndTables :
    (RunsS hSss [] tS ∧ RunsS hSss [hSss.a] tS ∧ RunsS hSss [hSss.d] tS ∧ tS.cyc < tS.cyc + 1 + 1) ∧
    (tS.turn = .fetch ∧ tS.apMode = false ∧ tS.self.id ≠ 0 ∧ { tCar with pc := 2 }.pc.toNat % 4 ≠ 0) ∧
    (RunsS brx42.h [brx42.h.a, brx42.h.b] tB ∧ Traps tB ∧ brx42.imm.toNat % 2 ^ 16 = 0x42) := by decide +kernel
/-- The header is reached and read; misplaced, unreached and unreadable ones; and the five entries in turn. -/
theorem hyps_BranchesAndTables_brx :
    (fetchUp tB 0x4000 8 = true ∧ wordIs (tableWord tB 0x4000) 0x4200000005 = true) ∧
    (4 : Nat) % 8 ≠ 0 ∧ fetchUp (tBx 0x40000000 0) 0x40000000 8 = false ∧
    (fetchUp tB 0x80000000 8 = true ∧ isErr (tableWord tB 0x80000000) = true) ∧
    (∀ e ∈ [(0, 0x6000), (1, 0x5000), (2, 0x5002), (3, 0x40000000), (4, 0x80000000)],
      fetchUp tB (0x4000 + 8 + 8 * BitVec.ofNat 64 e.1) 8 = true ∧
        wordIs (tableWord tB (0x4000 + 8 + 8 * BitVec.ofNat 64 e.1)) (BitVec.ofNat 64 e.2) = true) ∧
    (fetchUp tB 0x5000 12 = true ∧ bytesAre (fetchAt tB 0x5000) (fun bs => isLpad bs 0x42) = true) ∧
    (fetchUp tB 0x6000 12 = true ∧ bytesAre (fetchAt tB 0x6000) (fun bs => !isLpad bs 0x42) = true) ∧
    fetchUp tB 0x40000000 12 = false ∧ (fetchUp tB 0x80000000 12 = true ∧ isErr (fetchAt tB 0x80000000) = true) := by
  decide +kernel
theorem hyps_TrapsAndReturn :
    (RunsS hSss [] tT ∧ Traps tT) ∧
    (tH.apMode = false ∧ tH.self.spinst = 0 ∧ loopOf tH tH.self = none ∧ tH.self.handler = true ∧ RunsS hSss [] tH) ∧
    (tS.apMode = false ∧ tS.self.spinst = 0 ∧ loopOf tS tS.self = none ∧ tS.self.handler = false ∧ tvec tS tS.self.world = 0) := by
  decide +kernel
/-- Handle 3 with token 0x10003: done with status 9, and pending. -/
def tok3 : DWord := mkToken 1 5 0 3
def tDone : State := { tT with self := { tT.self with hTok := [(3, tok3)], hDone := 8, hStat := [(3, 9)], s := [(1, tok3)] } }
def tPend : State := { tT with self := { tT.self with hTok := [(3, tok3)], hOp := [(3, 60)], s := [(1, tok3)] } }
def viewIs (v : Option HandleView) (f : HandleView → Bool) : Bool :=
  match v with
  | some x => f x
  | none => false
theorem hyps_WaitsAndYields :
    homesOf tS.self = [1] ∧
    (∀ s ∈ [tDone, tPend],
      RunsS hSss [hSss.a] s ∧ viewIs (namedHandle s true hSss.a) (fun v => !tfDue s v) = true ∧
        viewIs (namedHandle s false 3) (fun v => !tfDue s v && v.tok == tok3) = true) ∧
    viewIs (namedHandle tDone true hSss.a) (fun v => !v.pending && v.status == 9) = true ∧
    viewIs (namedHandle tPend true hSss.a) (fun v => v.pending) = true ∧
    (RunsS hSss [hSss.a] tT ∧ namedHandle tT true hSss.a = none ∧ Traps tT) := by decide +kernel
theorem hyps_WaitsAndYields_yield :
    (handleOf tDone.self 3).tok ≠ 0 ∧
    (tT.apMode = false ∧ yieldTest tT 0 3 0 = .go ∧ yieldTest tPend 0 3 0 = .wait ∧ yieldTest tPend 1 tok3 0 = .wait ∧
      yieldTest tDone 1 tok3 0 = .go ∧ yieldTest tT 2 0 1 = .wait ∧ yieldTest tT 2 0 0 = .go) ∧
    (let s := { tT with self := { tCar with wait := .yielded 2 0 0 0x3030 } }
     s.self.id ≠ 0 ∧ s.self.wait = .yielded 2 0 0 0x3030 ∧ yieldTest s 2 0 0 = .go) ∧
    n7Bound tS 1 = false := by decide +kernel
/-- Two carriages of the coach at BAR, and one that has not come. -/
def tBar (w1 w2 : Wait) : State :=
  { tS with self := { tCar with wait := w1 }, rest := [{ tCar with id := 2, index := 1, slots := [257], wait := w2 }] }
theorem hyps_Barriers :
    (PlainCar tS ∧ Traps { tT with self := { tT.self with pathix := 0x100000, kind := .path } } ∧
      inRegion { tT.self with pathix := 0x100000, kind := .path } = true ∧ Traps { tT with self := { tT.self with kind := .spawned } }) ∧
    (∀ o ∈ [none, some 0],
      let w := Wait.bar (if o.isSome then 1 else 3)
      let s := tBar w w
      (∃ c ∈ cars s, takesPart 1 o c = true ∧ c.wait = w) ∧ barFull s 1 o = true ∧ barFull (tBar w .run) 1 o = false ∧
        waiting s [1, 2] = false ∧ unseen s [1, 2] 3 = false) ∧
    (∀ x ∈ coach? (tBar (.bar 3) .run) 1, x.arrived = 0) ∧
    (let s := { tS with self := { tCar with spin := { Spin.reset with lowered := true, deadline := 50 } } }
     s.self.id ≠ 0 ∧ s.self.spin.lowered = true ∧ s.self.spin.deadline ≤ s.cyc) := by decide +kernel

/-! ### Divergence: two carriages of one coach at one DBR; then an entry whose paths have come to the JOIN -/

def tDbr : State := tBar (.dbr 1 0x3060 0x30C0) (.dbr 1 0x3060 0x30C0)
def defer1 : Deferred := { id := 2 ^ 28 - 1, path := 1, number := 32767, core := 0, slots := [129], lead := 1, s := [(1, 5)], sPoison := 0, start := 0x3060 }
def reconOf (e : Nat) (ds : List Deferred) : Recon :=
  { idx := e, joinAddr := 0x30C0, dbrAddr := 0x3000, members := [1], deferred := ds, parent := none }
/-- A path carriage at its JOIN; entry 15. -/
def tPath (pc : DWord) (w : Wait) : State :=
  { tT with
    self := { tT.self with id := 9, kind := .path, pathix := 0x1F0000, pc := pc, wait := w, lead := 1 }
    rest := [{ tCar with wait := .regrouped 15 }], coaches := [{ tCoach with recons := [reconOf 15 []] }] }
def freeEntry (k : Coach) (e : Nat) : Bool := k.recons.all (fun r => r.idx != e)
theorem hyps_Divergence :
    tT.apMode = false ∧
    (let s := tPath 0x30C0 .run
     recon? s s.self.coach (pathEntry s.self) = some (reconOf 15 []) ∧ inRegion s.self = true ∧
       (reconOf 15 []).joinAddr = s.self.pc) ∧
    (let s := tPath 0x30B4 .run
     Traps s ∧ recon? s s.self.coach (pathEntry s.self) = some (reconOf 15 []) ∧ (reconOf 15 []).joinAddr ≠ s.self.pc) ∧
    (recon? tT tT.self.coach (pathEntry tT.self) = none ∧ Traps tT) ∧
    (car? tDbr tDbr.self.id = some tDbr.self ∧ awaitsForming tDbr tDbr.self = false ∧
      (∀ d ∈ concerned tDbr tDbr.self, isDbr d = true ∧ d.pc = tDbr.self.pc) ∧ waiting tDbr [1, 2] = false ∧
      coach? tDbr 1 = some tCoach ∧ ∃ e ∈ span 0 16, freeEntry tCoach e = true) := by decide +kernel
theorem hyps_Divergence_paths :
    (let s := { tS with self := { tCar with wait := .regrouped 15 }, coaches := [{ tCoach with recons := [reconOf 15 [defer1]] }] }
     recon? s 1 15 = some (reconOf 15 [defer1]) ∧ defer1.id < 2 ^ 28 ∧
       (reconOf 15 [defer1]).deferred.filter (fun x => x.id == defer1.id) = [defer1] ∧
       (pathSlotPool s 1 defer1.core).length ≠ 0) ∧
    (pathSlots [{ tid := 128, holder := 1, lane := 0, path := 0 }] 0 1 32 0)[0]? =
      some (some { tid := 128, holder := 1, lane := 0, path := 0 }) ∧
    (defer1.path < 2 ∧ defer1.number < 2 ^ 15) ∧
    (let s := tPath 0x30C0 .parked
     recon? s 1 15 = some (reconOf 15 []) ∧ pathArrived s 1 (reconOf 15 []) 0 = true ∧ pathArrived s 1 (reconOf 15 []) 1 = true ∧ innermost s 1 15 = true ∧
       s.waits = [] ∧ s.stale = []) := by decide +kernel

/-! ### Launches: a machine that is ready, a record at 0x9000, a queue -/

def recBytes (world dep : Nat) : List Byte :=
  [(0, leBytes 8 0x3000), (0x18, leBytes 4 1), (0x1E, leBytes 2 0x0101), (0x22, leBytes 3 0x020080), (0x27, leBytes 1 0x10),
   (0x2E, leBytes 2 (0x100 + world)), (0x40, leBytes 8 (if dep = 0 then 0 else 0x77)), (0x4C, leBytes 1 dep)].foldl (fun bs p => putAt bs p.1 p.2) (zeros 128)
def allReady (s : State) : State :=
  wcore (wsys (wsys (wsys s 0 2 0 (BitVec.allOnes 64)) 0 2 8 (BitVec.allOnes 64)) 0 2 16 (BitVec.allOnes 64)) 0 0x410
    (BitVec.ofNat 64 (768 + 12 * 2 ^ 10 + 4 * 2 ^ 15))
def tL : State := poke (allReady { tB with self := { tB.self with s := [(1, 0x9000), (2, 7)] } }) 0x9000 (recBytes 1 0)
def launchI : RrrI := { rrrI (hd (sReg 3) (sReg 1) (sReg 2)) 0 with mod := 1 }
/-- The same at another address of the record. -/
def tLx (a : Nat) : State := { tL with self := { tL.self with s := [(1, BitVec.ofNat 64 a), (2, 7)] } }
theorem hyps_LaunchesAccepted :
    (RunsS launchI.h (launchI.h.a :: [launchI.h.b]) tL ∧ tL.self.spinst = 0 ∧ dispatcherTakes tL tL.self = true ∧ anyLocal tL 5 = false ∧
      Traps tL ∧ dispatcherTakes tB tB.self = false ∧ anyLocal { tS with waits := [fenceOf] } 5 = true) ∧
    (fetchUp tL 0x9000 128 = true ∧ bytesAre (readRecord tL 0x9000) (fun raw =>
      deviceRecOk (putAt raw 8 (bitsLe 8 (7 : DWord))) tL.self.world tL.self.space) = true) ∧
    (fetchUp tL 0x9080 128 = true ∧ bytesAre (readRecord tL 0x9080) (fun raw =>
      !deviceRecOk raw tL.self.world tL.self.space) = true) ∧
    (fetchUp tL 0x80000000 128 = true ∧ isErr (readRecord tL 0x80000000) = true) ∧ fetchUp tL 0x40000000 128 = false ∧
    rs (tLx 0x9008) launchI.h.a = 0x9008 ∧
    (let s := { tL with self := { tL.self with core := 1 } }
     RunsS launchI.h (launchI.h.a :: [launchI.h.b]) s ∧ s.self.spinst = 0 ∧ dispatcherTakes s s.self = true ∧
      anyLocal s 5 = false ∧ fetchUp s 0x9000 128 = true ∧ bytesAre (readRecord s 0x9000) (fun raw =>
        deviceRecOk (putAt raw 8 (bitsLe 8 (7 : DWord))) s.self.world s.self.space) = true ∧
      tCar.core ≠ s.self.core ∧ tCar.pathix.toNat % 2 ^ 16 = s.self.pathix.toNat % 2 ^ 16 ∧ tCar.core < s.self.core) := by decide +kernel
/-- Queue 63 of the N world with one record, which the tail has passed. -/
def tQu (bs : List Byte) : State :=
  poke (wsys (wsys (wsys (allReady tS) 0 4 (0x1000 + 0x40 * 63) 0x9000) 0 4 (0x1000 + 0x40 * 63 + 8) 0x21) 0 4
    (0x1000 + 0x40 * 63 + 0x18) 1) 0x9000 bs
def heldOf (bs : List Byte) (head : Bool) (since : Option Nat) : HeldRecord :=
  { world := false, queue := 63, num := 0, bytes := bs, head := head, since := since }
theorem hyps_LaunchesAccepted_queue :
    (∀ h ∈ [heldOf (recBytes 0 0) true (some 7), heldOf (recBytes 0 128) true none, heldOf (zeros 128) true none],
      let s := { tQu h.bytes with records := [h] }
      ready s 161 = true ∧ headHeld s false 63 = some h ∧ qEn s false 63 = true ∧ qStopped s false 63 = false ∧
        h.num = qHead s false 63 ∧ queueRecord s false 63 0 = h.bytes) ∧
    (recOk (recBytes 0 0) false = true ∧ recOk (recBytes 0 128) false = true ∧ recOk (zeros 128) false = false) ∧
    (∀ since ∈ [none, some 7],
      let l := newLaunch 7 1 tRec false since
      let s := { allReady tS with launches := [l] }
      ready s 161 = true ∧ devWaiting s = [l]) := by decide +kernel

/-! ### Bins, spawned carriages, exits and the life of a coach -/

def binOf (n pend : Nat) : Bin :=
  { core := 0, idx := 7, launch := 1, entry := 5, children := List.replicate n (1, 2), deadline := 50, pend := pend, firedAt := 0
    force := 0, drain := false }
def spawnI : RrrI := rrrI (hd 0 (sReg 1) 1) 2
def withBin (s : State) (b : Bin) : State := { s with bins := [b] }
theorem hyps_SpawnedWork :
    (rangeBad tS [(spawnI.h.b, 1), (spawnI.t.c, 1)] = false ∧ tS.self.spinst = 0 ∧ active { tS with live := [] } spawnI.h = [] ∧
      anyOpen tS 5 = false ∧ anyOpen { tS with waits := [fenceOf] } 5 = true) ∧
    (∀ n ∈ [255, 256],
      let s := withBin tS (binOf n 0)
      RunsV spawnI.h [(spawnI.h.b, 1), (spawnI.t.c, 1)] [(spawnI.h.a, 1), (spawnI.h.b, 1), (spawnI.t.c, 1)] s ∧
        active s spawnI.h ≠ [] ∧ bin? s 0 1 (rs s spawnI.h.a) = some (binOf n 0) ∧ (childrenOf spawnI s).length = 1) ∧
    (RunsV spawnI.h [(spawnI.h.b, 1), (spawnI.t.c, 1)] [(spawnI.h.a, 1), (spawnI.h.b, 1), (spawnI.t.c, 1)] tS ∧
      active tS spawnI.h ≠ [] ∧ bin? tS 0 1 (rs tS spawnI.h.a) = none ∧ freeBins tS 0 ≠ [] ∧
      (childrenOf spawnI tS).length < binWidth tS tS.self.launch + 32) ∧
    (let s := { tS with bins := (span 0 8).map (fun i => { binOf 1 0 with idx := i, entry := 9 }) }
     bin? s 0 1 (rs s spawnI.h.a) = none ∧ freeBins s 0 = []) ∧
    RunsS spawnI.h [spawnI.h.a] tS ∧
    (binAt? (withBin tS (binOf 1 0)) 0 7 = some (binOf 1 0) ∧ (binOf 1 0).deadline ≤ tS.cyc ∧ (binOf 1 0).drain = false) := by decide +kernel
def rec32 : LaunchRec := { recOf (recBytes 0 0) with width := 32 }
def launch32 : Launch := newLaunch 1 0x100 rec32 true (some 0)
def tFire : State := { allReady tS with self := Carriage.none, coaches := [], launches := [launch32], bins := [binOf 32 32] }
theorem hyps_SpawnedWork_fire :
    ((binOf 32 32).idx < 8 ∧ binAt? tFire 0 7 = some (binOf 32 32) ∧ launch? tFire 1 = some launch32 ∧ (binOf 32 32).pend ≠ 0 ∧
      (binOf 32 32).pend ≤ rec32.width ∧ rec32.width ≤ 128 ∧ (binOf 32 32).pend ≤ (binOf 32 32).children.length ∧
      spawnFits tFire launch32 (spawnRec rec32 (binOf 32 32).entry) 0 = true) ∧
    (let k := { tCoach with spawn := true }
     let s := { tS with self := { tCar with kind := .spawned, wait := .exited }, coaches := [k] }
     coach? s 1 = some k ∧ coachDone s k = true ∧ ∀ b ∈ s.bins, b.launch ≠ k.launch) := by decide +kernel
def exitI (m : Nat) : RrrI := { rrrI hSss 0 with mod := BitVec.ofNat 10 m }
def resultIs (x : Except Cause LaunchRec) : Bool :=
  match x with
  | .ok _ => true
  | .error _ => false
/-- Carriage 1 of a coach whose carriage 0 is live, and carriage 0 after carriage 1 has named another successor. -/
def tOne : State := { tT with
  self := { tT.self with id := 2, index := 1, slots := [257] }, live := [(128, 1), (256, 1)], rest := [tCar] }
def named1 : Coach := { tCoach with succNamed := [(1, 0x8880)] }
theorem hyps_Exits :
    (tS.self.spinst = 0 ∧ active { tS with live := [] } (exitI 0).h = []) ∧
    (tS.apMode = false ∧ active tS (exitI 0).h ≠ [] ∧ ownCoach tS = some tCoach ∧ loopOf tS tS.self = none ∧
      namedOther tCoach (tCoach.succ.map (fun x => x.1)) = false ∧ lastOfZero tOne (active tOne (exitI 0).h) = false) ∧
    (tL.self.spinst = 0 ∧ ownCoach tL = some tCoach ∧ loopOf tL tL.self = none ∧ tCoach.spawn = false ∧
      anyBadS tL [(exitI 1).h.a] = false ∧ tCoach.rcd.sok = true ∧ tCoach.succ = none ∧
      (homesOfThreads (active tL (exitI 1).h)).any (fun h => indexOfHome tL h == 0) = true ∧
      namedOther tCoach (some (rs tL (exitI 1).h.a)) = false ∧ fetchUp tL (rs tL (exitI 1).h.a) 128 = true ∧
      resultIs (readSuccessor tL tCoach (rs tL (exitI 1).h.a)) = true) := by decide +kernel
theorem hyps_Exits_traps :
    (tOne.apMode = false ∧ active tOne (exitI 1).h ≠ [] ∧ ownCoach tOne = some tCoach ∧ loopOf tOne tOne.self = none ∧
      anyBadS tOne [(exitI 1).h.a] = false ∧
      (homesOfThreads (active tOne (exitI 1).h)).any (fun h => indexOfHome tOne h == 0) = false ∧ liveOfZero tOne ≠ []) ∧
    (let s := { tT with coaches := [named1] }
     Traps s ∧ active s (exitI 0).h ≠ [] ∧ ownCoach s = some named1 ∧ lastOfZero s (active s (exitI 0).h) = true ∧
       namedOther named1 (named1.succ.map (fun x => x.1)) = true ∧ (exitI 0).mod.getLsbD 0 = false) ∧
    (let k := { tCoach with rcd := { tRec with sok := false } }
     let s := { tT with coaches := [k] }
     Traps s ∧ active s (exitI 1).h ≠ [] ∧ ownCoach s = some k ∧ anyBadS s [(exitI 1).h.a] = false) := by decide +kernel
theorem hyps_CoachLife :
    (let s := { allReady State.reset with launches := [launch32] }
     launch? s 1 = some launch32 ∧ ready s 161 = true ∧ unplaced launch32 = true ∧ nextFits s launch32 = true ∧
       ∀ m ∈ s.launches.filter unplaced ++ waitingHeads s, m.id ≠ launch32.id → nextFits s m = true → placedBefore s m launch32 = false) ∧
    unplaced { launch32 with nextCoach := 1 } = false ∧
    (let k := { tCoach with succ := some (0x9000, rec32) }
     ∀ x ∈ [tCoach, k],
       let s := { tS with self := { tCar with wait := .exited }, coaches := [x] }
       coach? s 1 = some x ∧ x.spawn = false ∧ x.waiting = false ∧ coachDone s x = true) ∧
    (let k := { tCoach with rcd := rec32, waiting := true, succ := some (0x9000, rec32) }
     let s := { allReady State.reset with coaches := [k], launches := [launch32] }
     coach? s 1 = some k ∧ tileFits s (succRec k.rcd rec32) k.launch k.x k.y true = true ∧ successorHeld s k = false) := by
  decide +kernel

/-! ### Speculative loops: a descriptor at shared address 131072 - 128, carriage s1 and v1, landing pad at 0x5000 -/

def descBytes (gent limit : Nat) : List Byte :=
  [(0, leBytes 8 0x4800), (8, leBytes 8 gent), (0x10, leBytes 4 limit), (0x18, leBytes 8 0x4900), (0x20, leBytes 5 0x0200010104),
   (0x28, leBytes 2 1), (0x38, leBytes 1 1)].foldl (fun bs p => putAt bs p.1 p.2) (zeros 128)
def descAt : Nat := 131072 - 128
def tSp (gent limit : Nat) : State :=
  put { tB with self := { tB.self with s := [(1, BitVec.ofNat 64 descAt)] } } (memKey .shm 1 descAt) (descBytes gent limit)
def memI0 (h : Head) : MemI := { h := h, mod := 0, t := { ofs := 0, evict := 3, scope := 0, order := 0 } }
def sploopI : MemI := memI0 (hd 0 (sReg 1) (sReg 2))
def loopDescAt (s : State) : List Byte := imgBytes s (locKeys s .shm 0 descAt 128)
def loopRead (s : State) : LocAcc := ownRead s .shm (attrOf sploopI.t) (locKeys s .shm 0 descAt 128)
theorem hyps_LoopSetup_enter :
    ∀ gent ∈ [0, 0x5000], ∀ limit ∈ [0, 6],
      let s := tSp gent limit
      (s.apMode = false ∧ anyBadS s [sploopI.h.a, sploopI.h.b] = false ∧ inRegion s.self = false ∧ s.self.spinst = 0 ∧
        loopOf s s.self = none ∧ s.self.kind ≠ .spawned ∧ ownCoach s = some tCoach ∧
        ((rs s sploopI.h.a).setWidth 32 + (rs s sploopI.h.b).setWidth 32 + memOfs sploopI.t : Word).toNat = descAt) ∧
      descAt % 128 = 0 ∧ descAt + 128 ≤ shmSize s s.self.coach ∧ readHeld s (loopRead s) = false ∧
      readHeld { s with ops := [{ newOp s (engI0 hSss 0 0) 60 0 .failed [] [memKey .shm 1 descAt / 128] with stage := .issued }] } (loopRead s) = true ∧
      imgBad s (locKeys s .shm 0 descAt 128) = false ∧ loopDescOk (loopDescAt s) s.self.nreg = true ∧
      (coachCores tCoach).length * tCoach.rcd.n ≤ 1 ∧ (loopOfDesc (loopDescAt s) 1).w ≤ tCoach.rcd.spec ∧
      (loopOfDesc (loopDescAt s) 1).limit = limit ∧ (loopOfDesc (loopDescAt s) 1).gent = BitVec.ofNat 64 gent ∧
      fetchUp (readDone s (loopRead s)) 0x5000 12 = true ∧
      bytesAre (fetchAt (readDone s (loopRead s)) 0x5000) (fun c => leAt c 0 1 == 0x22) = true := by decide +kernel
/-- The loop as it stands before its first window, and in one of width 4. -/
def loopL : Loop := loopOfDesc (descBytes 0x5000 6) 1
def instD : Inst := { newInst 0 1 with reached := true, committed := true }
def loopIn (guess : Bool) : Loop := { loopL with wNow := 4, inGuess := guess, insts := [newInst 0 1] }
def tWin (l : Loop) (w : Wait) : State := { allReady tS with self := { tCar with wait := w }, loops := [l] }
theorem hyps_LoopSetup :
    (let s := tAtS (131072 - 64)
     let s' := { s with sysr := tT.sysr }
     Traps s' ∧ anyBadS s' [sploopI.h.a, sploopI.h.b] = false ∧ inRegion s'.self = false ∧
       shmSize s' s'.self.coach < ((rs s' sploopI.h.a).setWidth 32 + (rs s' sploopI.h.b).setWidth 32 + memOfs sploopI.t : Word).toNat + 128) ∧
    (∀ l ∈ [loopL, { loopL with i := 5 }],
      loop? (tWin l .window) 1 = some l ∧ (theCar (tWin l .window) 1).wait = .window ∧ l.insts = [] ∧ l.cid ≠ 0) ∧
    min loopL.w (loopL.limit - 5) = 1 ∧
    (loopL.serial = false ∧ loopL.gent ≠ 0 ∧ min loopL.w (loopL.limit - loopL.i) ≠ 1 ∧
      (let l := { loopL with seqs := [(0, 3)] }
       l.seqs.all (markReady (tWin l .window) (theCar (tWin l .window) 1).coach) = true)) := by decide +kernel
def guessI (d a m : Nat) : RrrI := { rrrI (hd d a 0) 0 with mod := BitVec.ofNat 10 m }
theorem hyps_LoopProgress_guess :
    (let s := tWin (loopIn true) .run
     let go := guessI 0 0 8
     go.mod.getLsbD 3 = true ∧ RunsS go.h [] s ∧ guessing s = some (loopIn true) ∧ inRegion s.self = false ∧ s.self.id ≠ 0 ∧
       s.apMode = false ∧ passOn s [s.self.id] (span 0 s.self.accs) = false) ∧
    (∀ n ∈ [3, 4], ∀ da ∈ [(1, 2), (1537, sReg 2)],
      let s := tWin (loopIn true) .run
      let i := guessI da.1 da.2 n
      i.mod.getLsbD 3 = false ∧ (da.1 < 1536 → rangeBad s [(i.h.d, 1), (i.h.a, 1)] = false) ∧ RunsS i.h [i.h.a] s ∧
        guessing s = some (loopIn true) ∧ carried (loopIn true) i.h.d.toNat = true ∧
        (∀ st ∈ liveOf s s.self, threadBad s [(i.h.a, 1)] st.2 = false) ∧ field i.mod 0 3 = n) ∧
    rangeBad (tWin (loopIn true) .run) [((1537 : OpField), 1), (BitVec.ofNat 11 (sReg 2), 1)] = false := by decide +kernel
def acceptI (m : Nat) : RrrI := { rrrI (hd 1 0 (sReg 2)) 0 with mod := BitVec.ofNat 10 m }
def spendI (m : Nat) : RrrI := { rrrI (hd (sReg 3) 0 0) 1 with mod := BitVec.ofNat 10 m }
theorem hyps_LoopProgress :
    (∀ m ∈ [0, 3],
      let s := tWin (loopIn false) .run
      let i := acceptI m
      rangeBad s [(i.h.d, 1)] = false ∧ RunsS i.h (if 2 ≤ field i.mod 0 2 then [i.h.b] else []) s ∧
        windowOf s = some (loopIn false) ∧ carried (loopIn false) i.h.d.toNat = true) ∧
    (let s := tWin (loopIn true) .run
     RunsS hSss [hSss.a] s ∧ guessing s = some (loopIn true) ∧ markedIn (loopIn true) 0 0 = false ∧
       (loopIn true).marks.length < 4 ∧ markReady s s.self.coach (0, 0) = true ∧
       markedIn { loopIn true with marks := [(0, 0, 9)] } 0 0 = true) ∧
    (∀ b, let l := { loopIn false with serial := b }
      RunsS hSss [] (tWin l .run) ∧ windowOf (tWin l .run) = some l ∧ (tWin l .run).self.spinst = 0) ∧
    (∀ accept ∈ [[(1537, 0, 0, 0)], [(1537, 1, 63, 0)]],
      let x := { newInst 0 1 with accept := accept }
      let l := { loopIn false with insts := [x], guesses := [] }
      let s := tWin l .run
      windowOf s = some l ∧ inRegion s.self = false ∧ l.inGuess = false ∧
        l.sregs.contains (sNum (spendI 1).h.d) = false ∧ sNum (spendI 1).h.d ≠ l.iter ∧ instOf l s.self.spinst = some x) := by
  decide +kernel
theorem hyps_LoopProgress_compare :
    let x := newInst 0 1
    let s := tWin (loopIn false) .run
    let vals := carryOf s (loopIn false) s.self
    let g : List (Nat × CarryVal) := vals.map (fun v => (1, v))
    compareHolds { loopIn false with guesses := g } 0 x.accept vals = true ∧
      compareHolds { loopIn false with guesses := [] } 0 x.accept vals = false := by decide +kernel
theorem hyps_LoopProgress_end :
    (let x := { newInst 0 1 with reached := true }
     let l := { loopIn false with insts := [x] }
     let s := tWin l (.spend false 3)
     loop? s 1 = some l ∧
       l.insts.find? (fun y => !y.committed && !y.rejected && !(l.insts.filter (fun z => z.committed)).any (fun z => z.stop)) = some x ∧
       l.inGuess = false ∧ (∃ y ∈ l.insts, y.j = 0 ∧ y.reached = true) ∧ canCommit s l x = true) ∧
    (∀ stop, ∀ i ∈ [0, 5],
      let l := { loopL with insts := [{ instD with stop := stop }], i := i }
      let s := tWin l (.spend stop 3)
      loop? s 1 = some l ∧ l.marks = [] ∧ instD.j = 0 ∧ instD.cid = l.cid ∧ l.inGuess = false ∧
        (theCar s 1).wait = .spend stop 3 ∧ passesDone s [1] = true) ∧ loopL.limit ≤ 5 + 1 ∧ 0 + 1 < loopL.limit := by decide +kernel

/-! ### Engine instructions: descriptors at 0x8000 (FP16-class rows) and 0x8040 (FP32), a window of 4 KiB -/

def tdescBytes (fmt : Nat) : List Byte :=
  [(0, leBytes 8 0x100000), (8, leBytes 4 256), (12, leBytes 3 (0x100 + fmt * 65536)), (16, leBytes 8 256), (24, leBytes 3 0x10001)].foldl
    (fun bs p => putAt bs p.1 p.2) (zeros 64)
def win1 : TileWin := { gen := 1, launch := 1, quad := 0, base := 0, units := 1 }
def tileH : BitVec 128 := (mkTilemem (0x00800000 : DWord) 3).getD 0
def tensH (a : DWord) : BitVec 128 := (mkTensorT a 0).getD 0
/-- t1 the tile-memory region of BF16, k 128; t2 and t3 the two tensors; s1, s2 as given. -/
def tE (a b : Nat) : State :=
  poke (poke { tB with
    self := { tB.self with s := [(1, BitVec.ofNat 64 a), (2, BitVec.ofNat 64 b)]
                           t := [(1, tileH), (2, tensH 0x8000), (3, tensH 0x8040)] }
    windows := [win1] } 0x8000 (tdescBytes 3)) 0x8040 (tdescBytes 1)
def copyK : OpKind := .copy [(1, 0, 8)] [(1, 4096, 8)]
/-- CPY of `n` bytes from shared memory to global memory. -/
def cpyI (n : Nat) : EngI := engI0 (hd 3 (sReg 1) (sReg 2)) n 0x40
def exOk {α β : Type} (x : Except β α) (f : α → Bool) : Bool :=
  match x with
  | .ok y => f y
  | .error _ => false
theorem hyps_CopyIssue :
    (let s := tE (131072 - 16383) 0x200000
     let i := cpyI 16383
     cpyBytes i ≠ 0 ∧ cpyBad s (engSelf s) i (rs s i.h.a) (rs s i.h.b) = none ∧
       MayIssue s i [i.h.a, i.h.b] (.copy [cpySrc i (rs s i.h.a)] [cpyDst i (rs s i.h.b)])) ∧
    (let s := tE (131072 - 16382) 0x200000
     let i := cpyI 16383
     RunsS i.h [i.h.a, i.h.b] s ∧ cpyBytes i ≠ 0 ∧ Traps s ∧
       cpyBad s (engSelf s) i (rs s i.h.a) (rs s i.h.b) = some (131072 - 16382)) ∧
    (let s := tE 0 0
     RunsS (cpyI 0).h [(cpyI 0).h.a, (cpyI 0).h.b] s ∧ cpyBytes (cpyI 0) = 0 ∧ s.apMode = false ∧ s.waits = [] ∧
       (cpyI 0).t.ring = 0) := by decide +kernel
/-- An instance that has issued sixteen operations whose effects are held. -/
theorem hyps_CopyIssue_full :
    let s := tE 0 0x200000
    let o := { newOp s (cpyI 64) 60 0 (.copy [(1, 0, 8)] [(0, 4096, 8)]) [] [] with inst := 1 }
    let s := { s with self := { s.self with spinst := 1 }, ops := List.replicate 16 o }
    let kind : OpKind := .copy [cpySrc (cpyI 64) (rs s (cpyI 64).h.a)] [cpyDst (cpyI 64) (rs s (cpyI 64).h.b)]
    s.apMode = false ∧ RunsS (cpyI 64).h [(cpyI 64).h.a, (cpyI 64).h.b] s ∧ holdFull s (cpyI 64) kind = true ∧
      cpyBad s (engSelf s) (cpyI 64) (rs s (cpyI 64).h.a) (rs s (cpyI 64).h.b) = none := by decide +kernel
def mayIs (s : State) (i : EngI) (srcs : List OpField) : Bool :=
  !s.apMode && kGuard i.h s && !anyBadS s srcs && !holdFull s i .failed
/-- CPYT of 256 rows of 256 bytes, TLD and TST of the whole region, AMOG of a block of shared memory; t4 is no handle. -/
theorem hyps_CopyIssue_tensor :
    (∀ em ∈ [0x00FF, 0x20FF],
      let s := tE 0 0
      let i := engI0 (hd 3 2 (sReg 2)) em 255
      tKind (rt s i.h.a) = .tensor ∧ rangeIn s (engSelf s) (1, (rs s i.h.b).toNat, 65536) = true ∧ mayIs s i [i.h.b] = true) ∧
    (∀ em ∈ [0, 1],
      let s := tE 0 0
      let i := engI0 (hd 3 1 2) em 0
      tKind (rt s i.h.a) = .tilemem ∧ tKind (rt s i.h.b) = .tensor ∧ tFmt (rt s i.h.a) ≠ 6 ∧
        tSparse (rt s i.h.a) = false ∧ mayIs s i [] = true) ∧
    (∀ em ∈ [0x49, 0x20],
      let s := tE 0x300008 (131072 - 32)
      let i := engI0 (hd 3 (sReg 1) (sReg 2)) em 0
      s.self.spinst = 0 ∧ rangeIn s (engSelf s) (1, 131072 - 32, 32) = true ∧ (rs s i.h.a).toNat % 8 = 0 ∧
        (rs s i.h.b).toNat % 32 = 0 ∧ mayIs s i [i.h.a, i.h.b] = true) := by decide +kernel
theorem hyps_CopyIssue_traps :
    (Traps (tE 0 0) ∧ tKind (rt (tE 0 0) 4) = .invalid ∧ tKind (rt (tE 0 0) 1) = .tilemem ∧
      rangeIn (tE 0 0) (engSelf (tE 0 0)) (1, 131072 - 65535, 65536) = false ∧
      rangeIn (tE 0 0) (engSelf (tE 0 0)) (1, 131072 - 31, 32) = false) ∧
    (tFmt ((mkTilemem (0x00800000 : DWord) 6).getD 0) = 6 ∧ tSparse ((mkTilemem (0x00800000 : DWord) 0x13).getD 0) = true) ∧
    (let s := tWin (loopIn false) .run
     let s1 := { s with self := { s.self with spinst := 1 } }
     s1.apMode = false ∧ s1.self.spinst ≠ 0) := by decide +kernel
/-- An operation of world S that is about to be granted. -/
def opW (s : State) (kind : OpKind) : EngOp := { newOp s (cpyI 0) 60 0 kind [] [] with world := true }
def descIs (s : State) (kind : OpKind) (a fmt : Nat) : Bool :=
  exOk (tensorFor s (engOf (opW s kind)) a) (fun d => d.rows == 256 && d.rowBytes == 256 && d.fmt == fmt)
/-- The two descriptors that a granted copy reads: 256 rows of 256 bytes, in the region's format and in another. -/
theorem hyps_CopyIssue_resolve :
    descIs (tE 0 0) (.copyT true 0x8000 0 0 256 256 (1, 0, 65536)) 0x8000 3 = true ∧
    descIs (tE 0 0) (.tileT true false tileH (tensH 0x8040) (some (1, 0))) 0x8040 1 = true ∧ tFmt tileH = 3 ∧
    tDaddr (tensH 0x8040) = 0x8040 := by decide +kernel
/-- Carts of one position: indices in registers from v126, or in shared memory at 0x400. -/
def cartI (h m : Nat) : EngI := engI0 (hd 2 h (sReg 2)) m 0
def tCart (ia : Nat) : State := tE 0 (0x800 + ia * 2 ^ 32)
theorem hyps_CartIssue :
    ∀ e ∈ [(1, 2), (2, 2), (3, 2), (4, 3)], ∀ m ∈ [(0x000, 126), (0x200, 0x400)],
      let i := cartI e.2 m.1
      let s := tCart m.2
      let got := tensorFor s (engSelf s) (tDaddr (rt s i.h.a))
      let k := newCart s i e.1 got
      mayIs s i [i.h.b] = true ∧ s.self.spinst = 0 ∧ tKind (rt s i.h.a) = .tensor ∧ tColb (rt s i.h.a) = 0 ∧
        got.toBool = true ∧ cartFits s (engSelf s) k = true ∧ field (rs s i.h.b) 0 32 % 64 = 0 ∧ cartPoison s i e.1 = none ∧
        (m.1 = 0x200 → m.2 % 4 = 0 ∧ rangeIn s (engSelf s) (1, m.2, 8) = true) ∧ (m.1 = 0 → m.2 + 2 ≤ s.self.nreg) := by
  decide +kernel
theorem hyps_CartIssue_traps :
    Traps (tCart 126) ∧ (tKind (rt (tCart 126) 4) = .invalid ∧ tKind (rt (tCart 126) 1) = .tilemem ∧
      tColb ((mkTensorT (0x8000 : DWord) (2 ^ 32)).getD 0) ≠ 0 ∧ (tCart 126).self.nreg < 127 + 2) ∧
    rangeIn (tCart 126) (engSelf (tCart 126)) (1, 131072 - 4, 8) = false ∧
    (let s := tE 0 (131072 - 256)
     cartFits s (engSelf s) (newCart s (cartI 2 0) 1 (tensorFor s (engSelf s) 0x8000)) = false) ∧
    (cartPoison { tCart 126 with vPoison := [(vKey 128 126, 1)] } (cartI 2 0) 1).isSome = true ∧ (2 : Nat) % 4 ≠ 0 ∧ (32 : Nat) % 64 ≠ 0 := by
  decide +kernel
def cart1 : Cart := newCart (tCart 126) (cartI 2 0) 1 (tensorFor (tCart 126) (engSelf (tCart 126)) 0x8000)
theorem hyps_CartIssue_resolve :
    exOk (cartDesc (tCart 126) (engOf (opW (tCart 126) (.cart cart1))) 1 0x8000) (fun x => x.1.rowBytes == 256) = true ∧
      isErr (cartDesc (tCart 126) (engOf (opW (tCart 126) (.cart cart1))) 1 0x80000000) = true ∧ cart1.head.rowBytes = 256 := by
  decide +kernel
/-- A ROUTE descriptor at 0x7000; a trigger block in shared memory at 0 that embeds SIG.W, with a term on n0. -/
def routeBytes : List Byte :=
  [(0, leBytes 8 0x110000), (8, leBytes 6 0x000400000002), (0x10, leBytes 8 16), (0x18, leBytes 8 4), (0x20, leBytes 2 2),
   (0x30, leBytes 8 0x120000), (0x38, leBytes 8 0x130000)].foldl (fun bs p => putAt bs p.1 p.2) (zeros 128)
def sigWI : EngI := engI0 (hd 0 0 0) 0x8000 0
def blockBytes : List Byte :=
  putAt (putAt (zeros 64) 0 (bytesOfBits 12 (encode (.sigW sigWI)))) 0x20 (leBytes 8 0x800000001)
def tTrig : State := put (tE 0 0) (memKey .shm 1 0) blockBytes
theorem hyps_SignalIssue :
    (let s := tE 0x300008 7
     let i := engI0 (hd 3 (sReg 1) (sReg 2)) 0 0
     s.self.spinst = 0 ∧ (rs s i.h.a).toNat % 8 = 0 ∧ mayIs s i [i.h.a, i.h.b] = true ∧ RunsS i.h [] s ∧ s.waits = [] ∧
       i.t.ring = 0 ∧ s.ops = [] ∧ s.stale = [] ∧ s.self.id ≠ 0 ∧ i.h.d.toNat < 16) ∧
    (Traps (tE 0x300004 7) ∧ (rs (tE 0x300004 7) (BitVec.ofNat 11 (sReg 1))).toNat % 8 ≠ 0 ∧
      cget (tDone.self.hTok) 3 ≠ 0 ∧ tPend.ops = []) ∧
    ({ tWin (loopIn false) .run with self := { tCar with spinst := 1 } }.self.spinst ≠ 0) := by decide +kernel
def tRoute : State := wsys (poke (tE 0x7000 0) 0x7000 routeBytes) 0 5 0x018 0x1010
def atRoute (s : State) : EngAt := { engSelf s with eng := engRoute (dieOf s.self.core), blk := mmRoute (dieOf s.self.core) }
theorem hyps_SignalIssue_route :
    globUp tRoute (atRoute tRoute) [(0x7000, 128)] = true ∧
    exOk (engRead tRoute (engRoute 0) true tRoute.self.space 0x7000 128) (fun b => !b.2 && b.1 == routeBytes) = true ∧
    routeDescOk tRoute (atRoute tRoute) (zeros 128) = false := by decide +kernel
/-- Whichever die's scratchpad holds the capacity counters. -/
theorem hyps_SignalIssue_routeOk : routeDescOk tRoute (atRoute tRoute) routeBytes = true := by
  unfold routeDescOk counterDie
  dsimp only
  generalize Config.counterDie (routeOf routeBytes).ctrs = b
  cases b <;> decide +kernel
theorem hyps_SignalIssue_triga :
    let i := engI0 (hd 3 (sReg 1) 0) 0 0
    let a := (rs tTrig i.h.a).toNat
    tTrig.apMode = false ∧ RunsS i.h [i.h.a] tTrig ∧ tTrig.self.spinst = 0 ∧ a + 64 ≤ shmSize tTrig tTrig.self.coach ∧ a % 64 = 0 ∧
      imgBlocked tTrig (span (memKey .shm 1 a) 64) = false ∧ imgBad tTrig (span (memKey .shm 1 a) 64) = false ∧
      blockOk (imgBytes tTrig (span (memKey .shm 1 a) 64)) = true ∧ (blockTerms blockBytes).length = 1 ∧ blockOk (zeros 64) = false ∧
      Traps tTrig ∧ armedOn tTrig tTrig.self.core < 32 := by decide +kernel
/-- Images that end with shared memory, and images a byte beyond; a poisoned key; an instance whose append R327 forbids. -/
theorem hyps_SequenceIssue :
    (let s := tE 1 (131072 - 16)
     let i := engI0 (hd 3 (sReg 1) (sReg 2)) 0 0
     let k := rs s i.h.a
     1 * field k 0 24 * (2 * alignUp (poolDim s (keyPool k)) 16 + 16) = 16 ∧
       localBad s (engSelf s) (rs s i.h.b).toNat 16 16 = none ∧ appendIllegal s (keyPool k) (keySeq k) = false ∧
       mayIs s i [i.h.a, i.h.b] = true ∧ s.self.spinst = 0 ∧ Traps s ∧ (localBad s (engSelf s) (131072 - 15) 16 16).isSome = true) ∧
    (let s := tE 1 (131072 - 8)
     rangeBad s [((1 : OpField), 2)] = false ∧ localBad s (engSelf s) (131072 - 8) (8 * widthOf s.self) 8 = none ∧
       (∀ st ∈ liveOf s s.self, threadBad s [((1 : OpField), 2)] st.2 = false) ∧ (liveOf s s.self).length = 1 ∧
       threadBad { s with vPoison := [(vKey 128 2, 1)] } [((1 : OpField), 2)] 128 = true ∧ rangeBad s [((127 : OpField), 2)] = true) ∧
    (let s := tE (131072 - 1028) 0
     field (rs s (BitVec.ofNat 11 (sReg 1))) 0 32 = 131072 - 1028 ∧ localBad s (engSelf s) (131072 - 1028) 1028 4 = none ∧
       (localBad s (engSelf s) (131072 - 1027) 1028 4).isSome = true) := by
  decide +kernel
theorem hyps_SequenceIssue_instance :
    let s := { tWin (loopIn false) .run with self := { tCar with spinst := 1, s := [(1, 1)] } }
    s.apMode = false ∧ s.self.spinst ≠ 0 ∧ localBad s (engSelf s) 0 16 16 = none ∧ appendIllegal s 0 0 = true := by decide +kernel
/-- Operations of the moving carriage: number 60, with handle 3. -/
def opOf (kind : OpKind) (stage : OpStage) (sh ex : List Nat) : EngOp :=
  { newOp tPend (cpyI 64) 60 tok3 kind sh ex with stage := stage }
def shmK (a : Nat) : Nat := memKey .shm 1 a
def withOp (o : EngOp) : State := { tPend with ops := [o] }
/-- Requested lines: both are granted in a turn without lag, one in a turn that lags, none while another holds the first. -/
theorem hyps_OperationLife :
    (let o := opOf copyK .requesting [shmK 0 / 128] [shmK 4096 / 128]
     let s := withOp o
     let x := grantLines s o
     op? s 60 = some o ∧ (wantedLines x).length = 2 ∧ x.held = 2 ∧ readsBehind s x = false ∧ readsUp s x = true ∧
       (opsBefore s x).all (fun y => y.stage != .requesting) = true ∧ readsBehind s (resolveOp s x).1 = false ∧
       mayRequest { s with waits := [{ fenceOf with act := .store [] false }] } o = false ∧
       (resolveOp s x).1.held = 2 ∧ s.self.id ≠ 0 ∧ (grantLines { s with lag := 1 } o).held = 1 ∧
       nextLine o = some (shmK 0 / 128)) ∧
    (let o := opOf copyK .requesting [shmK 0 / 128] [shmK 4096 / 128]
     let h := { opOf copyK .issued [] [shmK 0 / 128] with id := 59 }
     let s := { tPend with ops := [h, o] }
     op? s 60 = some o ∧ (grantLines s o).held = 0) ∧
    (let o := opOf copyK .issued [shmK 0 / 128] [shmK 4096 / 128]
     let s := withOp o
     op? s 60 = some o ∧ opHolds o = true ∧ releasesSources o.kind = true ∧ o.shared.contains (shmK 0 / 128) = true ∧ s.waits = []) := by
  decide +kernel
def outOp (cancel : Bool) : EngOp :=
  { opOf copyK .issued [] [shmK 4096 / 128] with cancel := cancel, out := [{ dest := .loc (shmK 4096), bytes := leBytes 8 7 }] }
theorem hyps_OperationLife_end :
    (∀ cancel,
      let o := outOp cancel
      let s := withOp o
      op? s 60 = some o ∧ o.stage = .issued ∧ o.preempted = false ∧ o.faultBit = false ∧ o.cause = 0 ∧ o.inst = 0 ∧
        o.hiBits = 0 ∧ o.midBits = 0 ∧ o.late = false ∧ o.early = [] ∧ canLand s o = true ∧ doneReady s o = true) ∧
    (PlainEnd (withOp (outOp false)) (outOp false) ∧ HasHandle (withOp (outOp false)) (outOp false) ∧
      isTileKey (shmK 4096) = false ∧ isTileKey (shmK 4096 + 8) = false ∧ shmK 4096 / 2 ^ 48 = (shmK 4096 + 8) / 2 ^ 48) ∧
    (let s := withOp (outOp true)
     let ps := (outOp true).out.flatMap (chunkPieces s (engOf (outOp true)))
     firstFail 0 ps = none ∧ cutsOf 0 ps ≠ []) ∧
    (let o := { opOf copyK .landed [] [] with scope := 5 }
     doneReady (withOp o) o = true ∧
       doneReady { withOp o with waits := [{ fenceOf with order := 0, act := .store [] false }] } o = false) := by decide +kernel
/-- An operation that reports to ring 1 has landed: 15 and 16 records stand in a ring of sixteen. -/
def tRing (prod : Nat) : State :=
  let s := withOp { opOf copyK .landed [] [] with ring := 1 }
  wcore (wcore s 0 (ringReg 1 8) 1) 0 (ringReg 1 0x10) (BitVec.ofNat 64 prod)
theorem hyps_OperationLife_ring :
    (∀ n ∈ [3, 4],
      let o := { opOf copyK .landed [] [] with ring := 1 }
      op? (tRing n) 60 = some o ∧ o.preempted = false ∧ doneReady (tRing n) o = true ∧ o.ring ≠ 0 ∧ (tRing n).waits = [] ∧
        ringSize (tRing n) o.core 1 = some 4 ∧
        (rcore (tRing n) o.core (ringReg 1 0x10) - rcore (tRing n) o.core (ringReg 1 0x18)).toNat = n) ∧
    2 ^ 4 ≤ (16 : Nat) ∧ (4 : Nat) < 2 ^ 4 := by decide +kernel
theorem hyps_OperationLife_canh :
    (∀ m ∈ [0, 1],
      let o := opOf copyK .requesting [] []
      let s := withOp o
      let i := { rrrI (hd 0 (if m = 0 then 3 else sReg 1) 0) 0 with mod := BitVec.ofNat 10 m }
      s.apMode = false ∧ RunsS i.h (if i.mod.getLsbD 0 then [i.h.a] else []) s ∧
        viewIs (namedHandle s (i.mod.getLsbD 0) i.h.a) (fun v => v.pending && v.op == 60) = true ∧ op? s 60 = some o ∧
        PlainEnd s o ∧ HasHandle s o) ∧
    viewIs (namedHandle tDone false 3) (fun v => !v.pending) = true ∧ op? tPend 60 = none ∧ namedHandle tT true hSss.a = none ∧
    ({ outOp false with started := true }.started = true ∧ isCopy (outOp false) = true ∧
      isCopy (opOf (.edrn [] 0 0) .issued [] []) = false ∧ isCopy (opOf (.armed 90) .issued [] []) = false) := by decide +kernel

/-! ### Carts: one entry, its sub-cart, its part and its reply -/

def headOf (typ : Nat) : CartHead :=
  { op := 60, typ := typ, world := false, pool := 0, space := 0, reqPkg := 0, reqCore := 0, token := tok3, fmt := 1, rowBytes := 4
    base := 0x100000, stride := 4 }
def entryOf (row pos : Nat) : CartEntry :=
  { row := row, pos := pos, bag := 0, mult := 1, slot := 0, die := 0, stack := 0, data := leBytes 4 0x3F800000, bad := []
    code := 0, cause := 0, keys := [], done := [] }
def cartOf (sent : Bool) : Cart :=
  { head := headOf 1, c := 2, m := 2, x := 0, maskAt := 64, daddr := 0x8040, desc := descOf (tdescBytes 1), rowo := 0, map := [0], idxAt := none
    idx := [5, 5], bags := [], entries := [entryOf 5 0, entryOf 5 1], kept := [], faults := [], sent := sent, dup := false
    await := 1, rows := [], bagAcc := [] }
def subOf (pkg stage dl : Nat) (world : Bool) : SubCart :=
  { id := 70, head := { headOf 1 with world := world }, pkg := pkg, stage := stage, deadline := dl, entries := [entryOf 5 0]
    diesLeft := 1, got := [], bagAcc := [] }
def partOf (typ : Nat) (held replied : Bool) : CartPart :=
  { id := 71, sub := 70, head := { headOf typ with world := true }, pkg := 0, stack := 0, held := held, deadline := 70, born := 0
    begun := false, entries := [entryOf 5 0], replied := replied, partials := [] }
def replyOf (stage : Nat) : CartReply := { id := 72, op := 60, sub := 70, stage := stage, entries := [entryOf 5 0], bags := [] }
/-- Every row engine serves both worlds; and the routes of package 5. -/
def tRow : State := wsys (allReady tB) 0 5 0x008 0xFFFF
def subIn (s : State) (x : SubCart) : State := { s with subs := [x] }
def partIn (s : State) (p : CartPart) : State := { s with parts := [p] }
theorem hyps_CartPaths :
    (∀ sent,
      let o := opOf (.cart (cartOf sent)) .issued [] []
      op? (withOp o) 60 = some o ∧ o.stage = .issued ∧ (cartOf sent).sent = sent ∧ releaseReady (withOp o) o = true ∧
        readsBehind (withOp o) o = false ∧ writesBehind (withOp o) o = false ∧
        writesBehind { withOp o with waits := [fenceOf] } { o with id := 99 } = true) ∧
    (∀ st ∈ [0, 1], ∀ w,
      let x := subOf 0 st 0 w
      (subIn tS x).subs.find? (fun y => y.id == 70) = some x ∧ x.pkg = Config.ownPackage ∧ x.stage = st) ∧
    (∀ dl ∈ [69, 70, 71],
      let x := subOf 5 0 dl false
      let s := { subIn (allReady tS) x with routes := [(5, [11])] }
      s.subs.find? (fun y => y.id == 70) = some x ∧ (routePort s 5).isSome = true ∧ (routePort (subIn tS x) 5).isNone = true ∧
        s.ns = 70) ∧
    (∀ held, ∀ replied,
      let p := partOf 1 held replied
      (partIn tRow p).subs.find? (fun y => y.id == 71) = none ∧ (partIn tRow p).parts.find? (fun y => y.id == 71) = some p ∧
        rowReady tRow 0 0 = true ∧ rowReady tS 0 0 = false ∧ tRow.ns = 70) ∧
    (let x := subOf 0 2 0 false
     let s := { subIn tS x with parts := [partOf 1 false true] }
     s.subs.find? (fun y => y.id == 70) = some x ∧
       s.parts.filter (fun p => p.sub == 70 && p.stack / 4 == 0) = [partOf 1 false true] ∧
       s.parts.filter (fun p => p.sub == 70 && p.stack / 4 == 1) = []) ∧
    (let o := opOf (.cart (cartOf true)) .issued [] []
     ∀ st < 3, ({ withOp o with replies := [replyOf st] } : State).replies.find? (fun y => y.id == 72) = some (replyOf st) ∧
       op? { withOp o with replies := [replyOf st] } (replyOf st).op = some o) ∧
    (∀ n ∈ [1, 2], ({ subOf 0 2 0 false with diesLeft := n }.diesLeft = n ∧ (subOf 0 2 0 false).head.op ≠ 0)) ∧
    { headOf 1 with op := 0 }.op = 0 ∧ (routePort { allReady tS with routes := [(0, [11])] } 0).isSome = true ∧
    (routePort tS 0).isSome = false := by decide +kernel
/-- A row engine finds the rows of its stack, and none of a page that is not there; what it would write. -/
theorem hyps_CartPaths_rows :
    (∀ typ ∈ [1, 2, 3, 4],
      let h := (partOf typ false false).head
      exOk (rowWhere tRow h 0 0 (partPages tRow h 0 0 [entryOf 5 0]) 5) (fun ks => ks == [(memKey .hbm 0 (0x100000 + 20), 4)]) = true ∧
        isErr (rowWhere tRow h 0 0 [] 5) = true) ∧
    (let en := { entryOf 5 0 with keys := [(memKey .hbm 0 (0x100000 + 20), 4)] }
     en.code = 0 ∧ en.done = [] ∧ pastOf tRow 0 en.keys = [] ∧ (en.keys.flatMap (fun k => span k.1 k.2)).Nodup ∧
       (en.keys.flatMap (fun k => span k.1 k.2)).length = en.data.length ∧ (addRow 1 (keyBytes tRow en.keys) en.data).length = 4) ∧
    rowBusy tRow (beginPart tRow (partOf 3 false false)).2 = false := by decide +kernel
/-- At another package, whose ports are all of one world: a sub-cart of that world arrives, one of the other does not. -/
theorem hyps_CartPaths_arrival (w b : Bool) :
    (subOf 5 1 0 w).pkg ≠ Config.ownPackage ∧ (subOf 5 1 0 w).stage = 1 ∧
      arrivalWorld (wsysP (subIn tS (subOf 5 1 0 w)) 5 0 5 0x010 (if b then BitVec.allOnes 64 else 0)) (subOf 5 1 0 w) = b := by
  refine ⟨show (5 : Nat) ≠ Config.ownPackage by decide, rfl, ?_⟩
  have h : rsysP (wsysP (subIn tS (subOf 5 1 0 w)) 5 0 5 0x010 (if b then BitVec.allOnes 64 else 0)) 5 0 5 0x010 =
      (if b then BitVec.allOnes 64 else 0) := by cases w <;> cases b <;> decide +kernel
  rw [arrivalWorld, show (subOf 5 1 0 w).pkg = 5 from rfl, h]
  cases b
  · simp
  · rw [if_pos rfl, BitVec.getLsbD_allOnes]
    exact decide_eq_true (Nat.lt_trans (Nat.mod_lt _ (by decide)) (by decide))

/-! ### Collectives: the program at 0x140000, two ranks, both here or the second at package 5 -/

def collOf (run : CollRun) (word : DWord) : Coll :=
  { id := 60, port := 0, world := true, prog := 0x140000, rank := 0, size := 2, group := 1, rk := 0, rd := 1, map := [0, 5], t0 := 10
    w := 20, bufs := [0x150000, 0x160000], born := 0, since := 0, step := 0, lcs := [0, 0, 0, 0], run := run, word := word, deadline := 70, late := false
    skew := false, raw := false, bytes := 0 }
def collOp (started : Bool) : EngOp := { newOp tB (cpyI 64) 60 tok3 (.coll 0x7000 0) [] [] with stage := .issued, started := started }
def stWord (op oper dist len flag aux : Nat) : DWord :=
  BitVec.ofNat 64 (op * 2 ^ 60 + oper * 2 ^ 57 + dist * 2 ^ 42 + len * 2 ^ 13 + flag * 2 ^ 12 + aux)
def tC (run : CollRun) (w : DWord) : State :=
  { poke (allReady tB) 0x140000 (bitsLe 8 w) with ops := [collOp true], colls := [collOf run w] }
def stepAtB (s : State) (o : EngOp) (c : Coll) (w : DWord) : Bool :=
  op? s c.id == some o && coll? s c.id == some c && c.run == .fresh && o.started && globUp s (engOf o) [(stepAt c, 8)] &&
    exOk (stepWord s o c) (fun x => x == w) && !stepBad c w && stepUp s o c w
theorem hyps_CollectiveSteps :
    (∀ x ∈ [(0, 0, 0), (5, 0, 0), (6, 0, 3), (1, 0, 1), (2, 0, 1), (3, 1, 1), (4, 0, 1), (7, 1, 1)],
      let w := stWord x.1 x.2.1 1 x.2.2 0 0
      stepAtB (tC .fresh w) (collOp true) (collOf .fresh w) w = true ∧ stOp w = x.1 ∧ stAux w = 0) ∧
    (let w := stWord 1 0 1 1 1 0
     let s := tC .fresh w
     let c := collOf .fresh w
     (readGlob s (engOf (collOp true)) (piecesOf (chunkAt c w) (chunkLen w))).fault.isNone = true ∧ s.owed = []) ∧
    (let w := stWord 4 0 1 1 0 0
     let s := tC .fresh w
     let c := collOf .fresh w
     let g := readGlob s (engOf (collOp true)) (piecesOf (chunkAt c w) (chunkLen w))
     g.fault.isNone = true ∧ (collOp true).inst = 0 ∧
       (firstFail 0 (chunkPieces s (engOf (collOp true)) { dest := .glob (bufOf c (field w 42 3) + chunkOfs c w), bytes := g.bytes })).isNone
         = true) := by decide +kernel
theorem hyps_CollectiveSteps_waits :
    (let w := stWord 1 0 1 1 0 3
     coll? (tC .slot w) 60 = some (collOf .slot w) ∧ slotAt (collOf .slot w) w 0 = 70 ∧ (tC .slot w).ns = 70 ∧
       ({ tC .slot w with ns := 69 } : State).ns < slotAt (collOf .slot w) w 0) ∧
    (let w := stWord 2 0 1 1 0 0
     let s := tC .recv w
     op? s 60 = some (collOp true) ∧ stepWaits s (collOf .recv w) = true ∧ (collOf .recv w).deadline ≤ s.ns) ∧
    (let s := { tB with ops := [collOp false], colls := [collOf .fresh 0] }
     op? s 60 = some (collOp false) ∧ coll? s 60 = some (collOf .fresh 0) ∧ (collOp false).started = false ∧
       ready s (146 + 0) = false ∧ (collOf .fresh 0).deadline ≤ s.ns) ∧
    (let w := stWord 2 0 1 1 0 0
     let c := collOf .recv w
     let m : CollMsg := { link := recvLink c, data := clean (leBytes 64 9), ns := 70 }
     let s := { tC .recv w with msgs := [m] }
     s.msgs.find? (fun m => m.link == recvLink c) = some m ∧ m.data.bytes.length ≤ chunkLen w ∧ m.ns ≤ c.deadline ∧ c.deadline < 71 ∧ stOp w = 2 ∧ stOper w = 0 ∧
       (firstFail 0 (chunkPieces s (engOf (collOp true)) { dest := .glob (chunkAt c w), bytes := m.data.bytes })).isNone = true) := by
  decide +kernel
theorem hyps_CollectiveSteps_more :
    stepBad (collOf .fresh 0) (stWord 3 0 1 1 0 0) = true ∧ stepBad (collOf .fresh 0) (stWord 8 0 0 0 0 0) = true ∧
    (∀ run ∈ [CollRun.send [] (clean []) false, .send [] (clean []) true, .send [1] (clean []) false, .recv],
      let w := stWord 1 0 1 1 0 0
      coll? (tC run w) 60 = some (collOf run w) ∧ op? (tC run w) 60 = some (collOp true) ∧ (tC run w).msgs = []) ∧
    (let w := stWord 7 1 1 1 0 0
     coll? (tC (.cmb [] []) w) 60 = some (collOf (.cmb [] []) w) ∧ stOp w = 7 ∧
       stepUp (tC (.cmb [] []) w) (collOp true) (collOf (.cmb [] []) w) w = true) := by decide +kernel
def keyOf1 : CombKey := { world := false, group := 1, step := 0, lcs := [0, 0, 0, 0], unit := 0 }
def formOf1 : CombForm := { expect := 2, oper := 1, rk := 0, rd := 1, dest := some 0 }
def msgOf (to? : Option Nat) : CombMsg :=
  { id := 80, key := keyOf1, form := formOf1, coll := 0, src := 1, count := 1, data := clean (leBytes 4 5), toRank := to? }
def combOf (srcs : List (Nat × Bool)) (expect : Nat) : CombEntry :=
  { id := 81, key := keyOf1, form := { formOf1 with expect := expect }, srcs := srcs, data := clean (leBytes 4 6), deadline := 70, place := 0 }
def bypOf : Bypass := { id := 82, key := keyOf1, form := formOf1, recorded := true, got := [], deadline := 70 }
theorem hyps_CombiningTable :
    (let s := { allReady tS with combMsgs := [msgOf none] }
     s.combMsgs.find? (fun x => x.id == 80) = some (msgOf none) ∧ (msgOf none).toRank = none ∧ ready s 158 = true ∧
       s.combs.find? (fun e => e.key == keyOf1) = none ∧ s.bypassHold = false ∧ (∀ b ∈ s.bypass, b.key ≠ keyOf1) ∧
       combUsed s false < combCap s false ∧ 2 ≤ formOf1.expect) ∧
    (∀ n ∈ [2, 3],
      let s := { allReady tS with combMsgs := [msgOf none], combs := [combOf [(0, true)] n], ns := 69 }
      let u := freeLate { s with combMsgs := [] } keyOf1
      s.combMsgs.find? (fun x => x.id == 80) = some (msgOf none) ∧ ready s 158 = true ∧
        u.combs.find? (fun x => x.key == (msgOf none).key) = some (combOf [(0, true)] n) ∧
        (combOf [(0, true)] n).form.dest = some 0) ∧
    (let s := { allReady tS with combMsgs := [msgOf none], combs := [combOf [(0, true)] 2], bypass := [bypOf], bypassHold := true }
     let u := freeLate { s with combMsgs := [] } keyOf1
     u.combs.find? (fun x => x.key == keyOf1) = none ∧ u.bypass.find? (fun b => b.key == keyOf1) = none ∧
       ({ s with ns := 69, combs := [] } : State).bypass.find? (fun b => b.key == keyOf1) = some bypOf ∧
       (freeLate { s with ns := 69, combs := [] } keyOf1).bypassHold = true) ∧
    (let s := { tS with combMsgs := [msgOf (some 0)], combs := [combOf [] 2], bypass := [bypOf] }
     s.combMsgs.find? (fun x => x.id == 80) = some (msgOf (some 0)) ∧ s.combs.find? (fun x => x.id == 81) = some (combOf [] 2) ∧
       s.bypass.find? (fun x => x.id == 82) = some bypOf ∧ (combOf [] 2).deadline ≤ s.ns ∧ bypOf.deadline ≤ s.ns ∧
       ({ s with ns := 69 } : State).ns < bypOf.deadline) := by decide +kernel

/-! ### Triggers, ROUTE, pools and sequences -/

def trigOf (ctr : Nat) (due : Bool) : Trigger :=
  { id := 90, op := 60, coach := 1, core := 0, orJoin := false, terms := [{ imm := 0, ctr := ctr }], instr := .sigW sigWI
    aval := 0x300008, bval := 9, lateAtArm := false, due := if due then some (60, 3) else none }
def runOf (begun : Bool) : RouteRun := { scores := [[1, 2, 3, 4], [4, 3, 2, 1]], begun := begun, toks := [], queue := [] }
def routeOp (begun : Bool) : EngOp := { opOf (.route (routeOf routeBytes) (some (runOf begun))) .issued [] [] with deadline := 70 }
theorem hyps_TriggersAndRoutes :
    (let s := { withOp (opOf (.armed 90) .issued [] []) with triggers := [trigOf 0 true] }
     s.triggers.find? (fun x => x.id == 90) = some (trigOf 0 true) ∧ (trigOf 0 true).due.isSome = true ∧
       (∀ x ∈ s.triggers, firesBefore x (trigOf 0 true) = false) ∧ op? s 60 = some (opOf (.armed 90) .issued [] []) ∧
       (trigOf 0 false).due = none ∧ firesBefore { trigOf 0 true with due := some (59, 9) } (trigOf 0 true) = true) ∧
    (trigOf 0 true).aval.toNat % 8 = 0 ∧
    (let s := { tS with coaches := [{ tCoach with n7 := true }], triggers := [trigOf 7 false] }
     s.triggers.find? (fun x => x.id == 90) = some (trigOf 7 false) ∧ n7Bound s 1 = true ∧
       (∃ x ∈ (trigOf 7 false).terms, x.ctr = 7) ∧ trigHolds s (trigOf 7 false) = true) ∧
    (∀ b, let s := { allReady tPend with ops := [routeOp b] }
      op? s 60 = some (routeOp b) ∧ (routeOp b).stage = .issued ∧ ready s (144 + dieOf 0) = true ∧ (routeOp b).faultBit = false ∧
        (routeOf routeBytes).expert = false ∧ mayClaim s (routeOp b) = true ∧
        mayClaim { s with waits := [fenceOf] } (routeOp b) = false ∧ (withClaims (routeOf routeBytes) (runOf false)).queue ≠ [] ∧
        (withClaims (routeOf routeBytes) (runOf true)).queue = []) ∧
    (routeOf (putAt routeBytes 0x0E [1])).expert = true ∧
    (let s := { tPend with ops := [routeOp false] }
     op? s 60 = some (routeOp false) ∧ (runOf false).begun = false ∧ ready s (144 + dieOf 0) = false ∧
       (routeOp false).deadline ≤ s.ns ∧ ({ s with ns := 69 } : State).ns < (routeOp false).deadline) := by decide +kernel
def opS (kind : OpKind) : EngOp := { opOf kind .issued [] [] with world := true }
/-- Pool 15 of four pages in the S world: pages at 0x400000, metadata at 0x500000, sequences at 0x600000, index at 0x700000. -/
def poolCfg : DWord := BitVec.ofNat 64 (4 * 2 ^ 32 + 64 * 2 ^ 15 + 2 ^ 11 + 1)
def tPool0 : State :=
  setPoolReg (setPoolReg (setPoolReg (setPoolReg (wsys (allReady tPend) 0 5 0x008 0xFFFF) 15 0 0x400000) 15 8 0x500000) 15 0x10 0x600000) 15 0x18 0x700000
def tPool : State := writePcfg tPool0 15 poolCfg
/-- Page 0 is sealed, with a poisoned byte. -/
def tSealed : State :=
  let s := setPage (popPage tPool 15).2 15 0 { ref := 1, sealed' := true, sealing := false, poison := false, fill := 128 }
  { s with mPoison := cset s.mPoison (hk 0x400000 / 8) 1 }
def rangeOf (landed : Bool) : KvRange :=
  { op := 60, pool := 15, seq := 3, first := 0, n := 1, landed := landed, inst := 0, unpub := false
    counted := 2 ^ 24, coach := 1 }
theorem hyps_PoolsAndPages :
    (poolCfg.getLsbD 0 = true ∧ poolEn tPool0 15 = false ∧ poolValid tPool0 15 (poolCfg &&& pcfgMask) = true) ∧
    (poolEn tPool 15 = true ∧ tPool.poolClosing.contains 15 = false ∧ poolBusy tPool 15 = false ∧
      poolBusy { tPool with ranges := [rangeOf false] } 15 = true) ∧
    (∀ i ∈ [0, 3, 4],
      let o := opS (.pgchk 15 i)
      let s := { tSealed with ops := [o] }
      op? s 60 = some o ∧ ready s (136 + poolMgr s 15) = true ∧ poolOk s 15 o.world = true ∧ poolPages s 15 = 4 ∧
        (i = 0 → (page s 15 i).sealed' = true ∧ (page s 15 i).poison = false) ∧ (i = 3 → (page s 15 i).sealed' = false)) ∧
    poolOk tSealed 15 false = false ∧
    (let s := setPoolReg tSealed 15 0x40 1
     poolEn s 15 = true ∧ poolReg s 15 0x40 ≠ 0 ∧ ready s (136 + poolMgr s 15) = true ∧ scrubPick s 15 = some 0) := by decide +kernel
theorem hyps_PoolsAndPages_bad : pageGood tSealed 15 0 = false := by
  have h : (pagePoison tSealed 15 0).isNone = false := by decide +kernel
  rw [pageGood, h, Bool.and_false]
/-- Sequence 3 opened with room for two slots of one head. -/
def openSeq (s : State) (q cap : Nat) (opened : Bool) : State :=
  let a := 0x600000 + 64 * q
  hput (hput (hput s (a + 5) 1 (b2n opened)) (a + 8) 8 (0x680000 + 4096 * q)) (a + 0x10) 4 cap
def tSeq : State := openSeq (openSeq tPool 3 2 true) 4 2 false
def appOp (n h : Nat) (first : Option Nat) : EngOp := opS (.kvapp 15 3 n h false 64 (shmK 0) [] first)
theorem hyps_Appends :
    (∀ x ∈ [(1, 1), (256, 1), (257, 1), (0, 1), (1, 2)],
      let o := appOp x.1 x.2 none
      let s := { tSeq with ops := [o] }
      op? s 60 = some o ∧ ready s (136 + poolMgr s 15) = true ∧ poolOk s 15 o.world = true ∧ seqReach s o.world (seqE s 15 3) = true ∧
        (seqE s 15 3).opened = true ∧ (seqE s 15 3).res = 0 ∧ (seqE s 15 3).cap = 2 ∧ (seqE s 15 3).h = 1 ∧ kvTurn s o 15 = true ∧
        pagesTaken s 15 (freeList s 15 (ceilDiv x.1 128) ++ pagesIn s (seqE s 15 3) 0 0) = true ∧
        kvTurn { s with waits := [fenceOf], ops := [{ o with id := 99, cid := 1 }] } { o with id := 99, cid := 1 } 15 = false) ∧
    (canTake tSeq 15 (1 * ceilDiv 256 128) false = true ∧
      canTake (setPoolReg tSeq 15 0x30 4) 15 (1 * ceilDiv 1 128) false = false ∧ poolOk tPool0 15 true = false) ∧
    (let o := appOp 1 1 (some 0)
     let s := { tSeq with ops := [o], ranges := [rangeOf false] }
     op? s 60 = some o ∧ s.ranges.find? (fun x => x.op == 60) = some (rangeOf false) ∧ (rangeOf false).landed = false ∧
       releaseReady s o = true ∧ writesBehind s o = false ∧ (rangeOf false).unpub = false ∧
       rowsTake s (poolWorld s 15) (seqE s 15 3).at' 64 = true ∧
       publishEnd 0 (seqRanges { s with ranges := [rangeOf true] } 15 3) = 1) ∧
    (let o := { appOp 1 1 none with stage := .held, inst := 1 }
     let l := { loopIn false with insts := [{ newInst 0 1 with reached := true }, newInst 1 2] }
     let s := { tSeq with ops := [o], loops := [l] }
     op? s 60 = some o ∧ s.loops.find? (fun l => (car s l.cid).coach == o.coach) = some l ∧ o.stage = .held ∧
       ∀ x ∈ l.insts, x.j < o.inst → x.reached = true) := by decide +kernel
theorem hyps_SequenceRequests :
    (∀ q ∈ [(3, 4, true, false), (4, 3, false, true)],
      let o := opS (.kvfork 15 q.1 q.2.1 false)
      let s := { tSeq with ops := [o] }
      op? s 60 = some o ∧ ready s (136 + poolMgr s 15) = true ∧ (poolOk s 15 o.world && seqReach s o.world (seqE s 15 q.1) &&
        seqReach s o.world (seqE s 15 q.2.1)) = true ∧ (seqE s 15 q.1).opened = q.2.2.1 ∧ (seqE s 15 q.2.1).opened = q.2.2.2 ∧
        kvTurn s o 15 = true) ∧
    (∀ q ∈ [3, 4],
      let o := opS (.kvfree 15 q none)
      let s := { tSeq with ops := [o] }
      op? s 60 = some o ∧ poolOk s 15 o.world = true ∧ seqReach s o.world (seqE s 15 q) = true ∧ freeReady s 15 q = true ∧ kvTurn s o 15 = true ∧
        freeReady { s with ranges := [rangeOf false], ops := [appOp 1 1 (some 0)] } 15 3 = false) := by
  decide +kernel
/-- The index holds key 4 with one page, page 2. -/
def tPfx : State :=
  let b := bucketOf tSeq 15 4
  hput (hput (hput tSeq (entryAddr tSeq 15 b 0) 8 4) (entryAddr tSeq 15 b 0 + 8) 1 1) (listAddr tSeq 15 b 0) 4 2
theorem hyps_SequenceRequests_index :
    (pfxReady tPfx 15 4 = true ∧ pfxReady tPfx 15 5 = true ∧ poolOk tPfx 15 true = true ∧ pfxReach tPfx true 15 4 = true ∧
      pfxReach tPfx true 15 5 = true ∧ pfxFind tPfx 15 4 = some 0 ∧ pfxFind tPfx 15 5 = none ∧
      (page tPfx 15 3).sealed' = false ∧ poolPages tPfx 15 = 4 ∧ poolOk tPool0 15 true = false) ∧
    (∀ ws ∈ [[], [0], [1, 4], [1, 3], [256], [257]],
      let o := opS (if ws = [] then .pfxf 15 4 none (shmK 0) else .pfxi 15 5 (shmK 0) ws)
      op? { tPfx with ops := [o] } 60 = some o ∧ o.stage = .issued ∧ o.world = true) := by decide +kernel

/-- Row engines that serve the world of the pool, and ones that do not; a free of an open sequence, ready and not. -/
theorem hyps_SequenceRequests_rows :
    poolValid tPool0 15 1 = false ∧ (pagesTaken tPool 15 [0, 3] = true ∧ metasTaken tPfx 15 [2] = true) ∧
    (let s := wsys tSeq 0 5 0x008 0xFF00
     pagesTaken s 15 [0] = false ∧ metasTaken s 15 [0] = false ∧ seqReach s true (seqE s 15 3) = false ∧ poolOk s 15 true = false) ∧
    (freeReady tSeq 15 3 = true ∧ freeReady { tSeq with ranges := [rangeOf false] } 15 3 = false ∧
      fullPages tSeq 15 [] [0] = [] ∧ (seqE tSeq 15 3).cur < (rangeOf true).first + (rangeOf true).n) := by decide +kernel

/-! ### Conversions, passes, accumulators, ranked lists -/

def cvtI (h : Head) (src dst : Nat) : CvtI :=
  { h := h, sat := false, srcf := BitVec.ofNat 4 src, dstf := BitVec.ofNat 4 dst, zx := false, t := rrr0 }
theorem hyps_ConversionResults :
    (∀ dst ∈ [1, 3, 4],
      let i := cvtI hVec 1 dst
      let srcs := (i.h.a, elemRegs i.srcf) :: [(i.h.b, 1)] ++ keepsOld i
      RunsV i.h ((i.h.d, elemRegs i.dstf) :: srcs) srcs tS ∧ elemBits i.dstf.toNat ≠ 64) ∧
    (let i := cvtI hPair 1 0
     let srcs := (i.h.a, elemRegs i.srcf) :: [(i.h.b, 1)] ++ keepsOld i
     RunsV i.h ((i.h.d, elemRegs i.dstf) :: srcs) srcs tS ∧ elemBits i.dstf.toNat = 64 ∧ i.h.d.toNat < 1536) ∧
    (elemBits 4 < 32 ∧ elemBits 4 * (3 + 1) ≤ 32 ∧ 255 < 2 ^ elemBits 4) := by decide +kernel
/-- A carriage of 128 slots, the first of them live, with tiles 0 and 1 and a window of 64 KiB. -/
def tM (tileFmt layout acc : Nat) : State :=
  { tS with
    self := { tCar with
      slots := 129 :: List.replicate 127 0, nreg := 1536, s := [(1, 0x7FC0000000000000)]
      t := [(1, (mkTilemem 0x00800000 (BitVec.ofNat 64 (tileFmt + 16 * layout))).getD 0), (2, 0)] }
    windows := [{ win1 with units := 16 }], accSt := [(accKey 1 0, BitVec.ofNat 64 acc)] }
/-- A pass on accumulator 0 with B region t1 and A from v100; scales from v1400, or the bound of MMRK from s1. -/
def passI (op : PassOp) : PassI :=
  { h := hd 0 100 1, pi := 0, asrc := 0, low := 0, t := rrrC (if op = .rk then sReg 1 else 1400) }
def passS (op : PassOp) : State :=
  tM (passB' op) (b2n (passSparseB op)) (if op = .rk then 0x401 else passTile op * 2)
theorem hyps_MatrixPasses (op : PassOp) (h : op ∈ [PassOp.e4, .e5, .nx4, .bf16, .f16, .f32, .f64, .i8 false true, .spE4, .spBf16,
    .ssBf16, .rk]) : ∃ w ks, (passS op).apMode = false ∧ PassReady (passS op) op (passI op) w ks := by
  refine ⟨{ win1 with units := 16 }, [], rfl, ?_⟩
  simp only [List.mem_cons, List.not_mem_nil, or_false] at h
  rcases h with rfl | rfl | rfl | rfl | rfl | rfl | rfl | rfl | rfl | rfl | rfl | rfl <;> unfold PassReady <;>
    repeat' apply And.intro
  all_goals first
    | decide +kernel
    | exact fun h => absurd h (show (0 : BitVec 2) ≠ 2 by decide)

/-- A posted and a running pass on quad 0. -/
def passOf (id prio : Nat) (running : Bool) : Pass :=
  { id := id, quad := 0, cid := 1, homes := [1], counted := [1], regs := [], overAt := [], follow := false, coach := 1, prio := prio, posted := 0, rank := 0, op := .bf16, acc := 0, kLen := 128
    interval := 1, zero := false, rows := [], aAddr := none, bScale := [], uni := false, gen := 1, bOfs := 0, oldB := [], base := 0
    scores := [], scoreBad := [], tok := 0, excess := 0, done := 0, running := running, held := 3, granted := 0, ran := 0 }
theorem hyps_MatrixPasses_run :
    (let i := passI .bf16
     let s := { tS with live := [] }
     s.apMode = false ∧ active s i.h = [] ∧ rangeBad s [(i.h.a, 1)] = false ∧ rangeBad s [(i.h.a, 1), (rrr0.c, 1)] = false) ∧
    (let s := { tS with passes := [passOf 61 2 false] }
     runningPass s 0 = none ∧ waitingPasses s 0 = [passOf 61 2 false]) ∧
    (∀ prio ∈ [3, 4],
      let s := { tS with passes := [passOf 60 3 true, passOf 61 prio false], launches := [] }
      runningPass s 0 = some (passOf 60 3 true) ∧ waitingPasses s 0 = [passOf 61 prio false] ∧ guaranteed s 1 = false ∧
        passPrio s (passOf 61 prio false) = prio ∧ (passOf 60 3 true).done + 2 ≤ stepCount (passOf 60 3 true) ∧
        ∀ q ∈ s.passes, q.id = 60 → q = passOf 60 3 true) := by decide +kernel
def tAcc (w : Nat) : State := { tS with accSt := [(accKey 1 0, BitVec.ofNat 64 w)] }
def mrI (d a mod : Nat) : MemI := { memI0 (hd d a (sReg 2)) with mod := BitVec.ofNat 10 mod }
theorem hyps_AccumulatorsAndImages :
    (∀ imm ∈ [0x000, 0x004, 0x109],
      let i := rriI0 (hd 0 0 0) imm
      let f64 := !i.imm.getLsbD 0 && field i.imm 1 2 == 2
      RunsS i.h [] tS ∧ inRegion tS.self = false ∧ accUnbound tS (accHome tS) 0 = false ∧ (f64 = true → pairFits tS (accHome tS) 0 = true) ∧
        passOn tS [accHome tS] [0, 1] = false) ∧
    (∀ m ∈ [0, 1, 2, 3],
      let s := tAcc 0x401
      let i := { rrrI (hd (sReg 3) 0 (sReg 2)) 0 with mod := BitVec.ofNat 10 m }
      RunsS i.h (if i.mod.getLsbD 1 then [i.h.b] else []) s ∧ accUnbound s (accHome s) 0 = false ∧ accRank (accWord s (accHome s) 0) = true ∧
        passOn s [accHome s] (accSpan s (accHome s) 0) = false) ∧
    ((mkTilemem (0x00800000 : DWord) 3).isSome = true ∧ (mkTensorT (0x8000 : DWord) 0).isSome = true ∧ RunsS hSss [hSss.a, hSss.b] tS) := by
  decide +kernel
theorem hyps_AccumulatorsAndImages_move :
    ∀ sp ∈ [0, 32], ∀ st,
      let s := { tAcc 0 with self := { tCar with slots := 129 :: List.replicate 127 0, s := [(1, 65536)] } }
      let i := mrI 0 (sReg 1) sp
      ImageReady s i st ∧ s.self.spinst = 0 ∧ isInstance s (homesOf s.self) = false ∧ ImageNow s i (.load .img true) ∧
        ImageNow s i (.store [] false) ∧ ¬ImageNow { s with lag := 1 } i (.load .img true) ∧
        (∀ r ∈ movedRows s (active s i.h) 0, r.2 < 128) ∧ (∀ h ∈ homesActive (active s i.h), accRank (accWord s h 0) = false) := by
  decide +kernel
def rkI (d a low : Nat) : PassI := { h := hd d a 2, pi := 0, asrc := 0, low := BitVec.ofNat 5 low, t := rrr0 }
theorem hyps_RankedLists :
    (let s := tAcc 0x401
     let i := rkI 0 1 0
     SlotsDistinct s ∧ RankReady s i 0 (rkJ i) [(i.h.a, 1), (i.h.b, 1), (i.t.c, 1)] ([(i.h.a, 1), (i.h.b, 1)] ++ rkinsC i s) ∧
       (∀ h ∈ homesActive (active s i.h), accCol (accWord s h 0) = false) ∧ (∀ st ∈ active s i.h, ownList s st.2 (rkJ i) < 128 ∧ listBad s (homeCar st.2) 0 (ownList s st.2 (rkJ i)) = false) ∧ accK (accWord s 1 0) = 64 ∧
       lenOf s 1 0 0 ≤ 64 ∧ listOf s 1 0 0 = []) ∧
    (let s := { tAcc 0x401 with sysr := tT.sysr, accPoison := (listKeys 1 0 0).map (fun k => (k, 1)) }
     let i := rkI 0 1 0
     Traps s ∧ RankReady s i 0 (rkJ i) [(i.h.a, 1), (i.h.b, 1), (i.t.c, 1)] ([(i.h.a, 1), (i.h.b, 1)] ++ rkinsC i s) ∧
       ∃ st ∈ active s i.h, listBad s (homeCar st.2) 0 (ownList s st.2 (rkJ i)) = true) ∧
    (let s := tAcc 0x409
     let i := rkI 0 1 0
     RankReady s i 0 (rkJ i) [(i.h.a, 1), (i.h.b, 1), (i.t.c, 1)] ([(i.h.a, 1), (i.h.b, 1)] ++ rkinsC i s) ∧
       (∀ h ∈ homesActive (active s i.h), accCol (accWord s h 0) = true) ∧ rkJ i = 0 ∧
       (∀ st ∈ active s i.h, ((opV s i.t.c st.2).extractLsb' 0 7).toNat = 0 ∧ listBad s (homeCar st.2) 0 0 = false)) ∧
    (let s := { tAcc 0x401 with v := [(vKey 128 1, 64)], self := { tCar with nreg := 160 } }
     let i := rkI 0 1 0
     SlotsDistinct s ∧ mrgSrc i = 0 ∧ RankReady s i 0 (mrgJ i) [(i.h.a, 1)] [] ∧ ownList s 128 (mrgJ i) < 128 ∧ regLen s i 128 = 63 + 1 ∧ i.h.a.toNat + 2 * 64 < s.self.nreg ∧
       (∀ n ∈ span 1 129, vBad s 128 n = false) ∧ listBad s (homeCar 128) 0 (ownList s 128 (mrgJ i)) = false) := by decide +kernel
theorem hyps_RankedLists_more :
    (let s := { tAcc 0x401 with accSt := [(accKey 1 0, 0x401), (accKey 1 1, 0x401)] }
     let i := rkI 0 1 3
     mrgSrc i = 3 ∧ RankReady s i 0 0 [] [] ∧ rankNames s (active s i.h) 1 = none ∧ passOn s (homesActive (active s i.h)) [1] = false ∧
       (movedRows s (active s i.h) 0).Nodup ∧ ∀ r ∈ movedRows s (active s i.h) 0, r.2 < 128 ∧ listBad s r.1 1 r.2 = false ∧
         listBad s r.1 0 r.2 = false ∧ lenOf s r.1 0 r.2 ≤ 64) ∧
    (∀ src ∈ [1, 2],
      let s := { tAcc 0x401 with self := { tCar with slots := 129 :: List.replicate 127 0, s := [(1, 0)] } }
      let i := rkI 0 (sReg 1) src
      mrgSrc i = src ∧ RankReady s i 0 0 [] [(i.h.a, 1)] ∧
        let sp : LocSpace := if mrgSrc i = 2 then .scr else .shm
        let places := (movedRows s (active s i.h) 0).flatMap (fun r => [(512 * r.2, 512), (65536 + r.2, 1)])
        let all := newAcc s sp s.nextId { order := 0, scope := 0, evict := 0 } 0
          (places.flatMap (fun p => locKeys s sp 0 (0 + p.1) p.2)) (.load .img true)
        placesOk s sp 0 places = true ∧ imgPrompt s all = true ∧ imgPrompt { s with lag := 1 } all = false ∧
          ∀ r ∈ movedRows s (active s i.h) 0, listBad s r.1 0 r.2 = false) := by decide +kernel
theorem hyps_RankedLists_rest :
    (∀ low ∈ [0, 4],
      let s := tAcc 0x401
      let i := rkI 127 0 low
      RankReady s i 0 (rkJ i) [(i.h.d, 1)] [] ∧ ∀ st ∈ active s i.h, listBad s (homeCar st.2) 0 (ownList s st.2 (rkJ i)) = false) ∧
    (∀ b ∈ [0x4000, 0x0000],
      let s := { tAcc 0x401 with self := { tCar with nreg := 128, s := [(2, BitVec.ofNat 64 b)] } }
      let i := { rkI 0 0 0 with h := hd 0 0 (sReg 2) }
      RankReady s i 0 (rkJ i) [(i.h.d, 1)] [(i.h.b, 1)] ∧ i.h.d.toNat + 2 * (outRange (rs s i.h.b)).2 ≤ s.self.nreg ∧
        ((outRange (rs s i.h.b)).2 = 0 ↔ b = 0) ∧
        ∀ st ∈ active s i.h, listBad s (homeCar st.2) 0 (ownList s st.2 (rkJ i)) = false) ∧
    (let x : Entry := (0x3F800000, 1)
     isNanW x.1 = false ∧ ([x].take 1)[0]? = some x ∧ rankLess x (0x40000000, 2) = true ∧ [x].length < 2 ∧
       [x].all (fun y => !isNanW y.1) = true ∧ [x].Pairwise (fun x y => rankLess x y = false)) ∧
    (isNanW 0x7FC00000 = true ∧ isNanW 0x3F800000 = false) := by decide +kernel

/-! ### System registers, the monitor, contexts -/

def sysI (x : Nat) : RriI := rriI0 (hd (sReg 3) (sReg 0) (sReg 2)) x
theorem hyps_SystemRegisterAccess :
    (RunsS (sysI 0).h [(sysI 0).h.a, (sysI 0).h.b] tT ∧ anyOpen tT 5 = false ∧ anyOpen { tT with waits := [fenceOf] } 5 = true) ∧
    (sysAddr tT (sysI 0x01000058) % 8 = 0 ∧ regRef (sysAddr tT (sysI 0x01000058)) = some (.core 0 0x58) ∧
      mayReach tT (selfAccessor tT) true (.core 0 0x58) = true ∧ mayReach tT (selfAccessor tT) false (.core 0 0x58) = true) ∧
    (regRef (sysAddr tH (sysI 16)) = some (.trap 2) ∧ mayReach tH (selfAccessor tH) true (.trap 2) = true) ∧
    (Traps tT ∧ sysAddr tT (sysI 4) % 8 ≠ 0 ∧ sysAddr tT (sysI 0x30) % 8 = 0 ∧ regRef (sysAddr tT (sysI 0x30)) = none ∧
      regRef (sysAddr tT (sysI 16)) = some (.trap 2) ∧ mayReach tT (selfAccessor tT) false (.trap 2) = false ∧
      mayReach tT (selfAccessor tT) true (.trap 2) = false) ∧
    (selfAccessor tT).who = .user ∧ (selfAccessor tH).who = .handler ∧ qEn (tQu (zeros 128)) false 63 = true := by decide +kernel
theorem hyps_MonitorTlbiHalt_users :
    (∀ o ∈ [opOf copyK .issued [] [], opOf (.copy [(0, 0x10000, 8)] [(1, 0, 8)]) .ready [] [], opOf (.cart (cartOf true)) .issued [] [],
        opOf (.coll 0x7000 0) .issued [] []],
      o.world = false ∧ o.space = 0 ∧ (o.stage = .issued ∨ o.stage = .ready)) ∧
    (∃ r ∈ globReads (opOf (.copy [(0, 0x10000, 8)] [(1, 0, 8)]) .ready [] []), r.1 ≤ field (0x10007 : DWord) 0 48 ∧
      field (0x10007 : DWord) 0 48 < r.1 + r.2) ∧
    (partOf 1 false false).pkg = Config.ownPackage ∧ (partOf 1 false false).head.world = true ∧ (partOf 1 false false).head.space = 0 := by decide +kernel
theorem hyps_MonitorTlbiHalt :
    (let s := allReady tH
     RunsS hSss [hSss.a, hSss.b] s ∧ s.self.handler = true ∧ anyOpen s 5 = false ∧ ready s 160 = true ∧ ready tH 160 = false ∧
       imgBlocked s (locKeys s .shm 0 (rs s hSss.a).toNat 16) = false ∧ anyOpen { s with waits := [fenceOf] } 5 = true ∧ s.apMode = false) ∧
    (quadIdle tS 0 = false ∧ quadIdle tS 31 = true ∧ 24 < ((0x190 : DWord).extractLsb' 4 8).toNat) ∧
    (∀ us ∈ [[], [60]],
      let s := { tPend with self := { tPend.self with wait := .tlbi (some us) 0 false 0 0 }, ops := [opOf copyK .issued [] []] }
      s.self.wait = .tlbi (some us) 0 false 0 0 ∧ s.self.id ≠ 0 ∧ op? s 60 = some (opOf copyK .issued [] []) ∧ s.parts = []) ∧
    (let s := { tPend with self := { tPend.self with wait := .tlbi none 0 false 0 0 } }
     s.self.wait = .tlbi none 0 false 0 0 ∧ s.self.id ≠ 0) ∧ RunsS hSss (tlbiSrcs (rrrI0 hSss 2)) tH ∧
    tlbiHits false 0 false 0 0x10000
      { pkg := Config.ownPackage, engine := 0, world := false, space := 0, page := 1, bits := 16, leaf := 1, fail := none } = true ∧
    (let s := { tH with self := { tH.self with s := [(1, 0xFFFFFFFFFFFFFFFF)] } }
     RunsS hSss [hSss.a] s ∧ s.apMode = false ∧ s.self.handler = true ∧ s.self.id ≠ 0 ∧ rs s hSss.a = 0xFFFFFFFFFFFFFFFF) ∧
    (let c := { tCar with id := 2, slot := 7, index := 1, slots := [257] }
     let s := { tH with self := { tH.self with s := [(1, 7)] }, rest := [c] }
     RunsS hSss [hSss.a] s ∧ rs s hSss.a ≠ 0xFFFFFFFFFFFFFFFF ∧ slotTarget s 7 = some c ∧ c.id ≠ s.self.id ∧ slotTarget s 6 = none) ∧
    (RunsS hSss [hSss.a, hSss.b] tT ∧ tT.self.handler = false ∧ Traps tT) := by decide +kernel
/-- A small carriage of the S world in its handler, whose save area lies at 0x200000; s2 is 0. -/
def tX : State :=
  { tB with
    self := { tB.self with handler := true, nreg := 32, accs := 0, s := [(1, 0x200000)] }
    coaches := [{ tCoach with rcd := { tRec with world := true, nreg := 32, accs := 0, a := 3, b := 3 } }] }
def ctxI : MemI := memI0 (hd (sReg 3) (sReg 1) (sReg 2))
theorem hyps_ContextSaveAndLoad :
    (RunsS ctxI.h [ctxI.h.d, ctxI.h.a, ctxI.h.b] tX ∧ tX.self.handler = true ∧ tX.apMode = false ∧ tX.self.id ≠ 0 ∧
      slotTarget tX ((rs tX ctxI.h.d).extractLsb' 0 4).toNat = some tX.self ∧ (ctxAddr tX ctxI).toNat % 4096 = 0 ∧ tX.self.kind ≠ .path ∧
      inLoop tX = false ∧ settled tX tX.self.id = true ∧
      releaseReady tX (ctxEng tX ctxI.t true 0x200000 (carArea tX.self)) = true ∧
      writesBehind tX (ctxEng tX ctxI.t true 0x200000 (carArea tX.self)) = false ∧
      readsBehind tX (ctxEng tX ctxI.t false 0x200000 12928) = false) ∧
    (exOk (globRuns tX (engSelf tX) .write (piecesOf 0x200000 (carArea tX.self))) (fun _ => true) = true ∧
      globUp tX (engSelf tX) [(0x200000, carArea tX.self)] = true) ∧
    (RunsS ctxI.h [ctxI.h.d, ctxI.h.a, ctxI.h.b] tT ∧ Traps tT) := by decide +kernel
/-- The area of that carriage, where its header says so. -/
def areaX : List Byte := areaOf tX tX.self 0x3300 noImages false
def rawX : List Byte := areaRaw tX tX.self 0x3300 noImages false
theorem rawX_length : rawX.length = 12928 := by decide +kernel
theorem rawX_fields : (rawX.drop 0x1FC).take 4 = zeros 4 ∧ leAt rawX 0 4 = 0x10000 ∧ leAt rawX 4 4 = 12928 ∧ leAt rawX 8 2 = 1 ∧
    leAt rawX 0xA 2 = 32 ∧ leAt rawX 0xC 1 = 0 ∧ leAt rawX 0xD 1 = 0 ∧ leAt rawX 0x22 1 = 1 ∧ leAt rawX 0x20 2 = 0 ∧
    leAt rawX 0x10 4 = 128 ∧ (leAt rawX 0xF 1 = 4 ∧ leAt rawX 0x36 1 = 3 ∧ leAt rawX 0x37 1 = 3) ∧ (span 0 16).all (fun i => !bitN (leAt rawX (0x1E10 + 32 * i) 4) 4) = true := by decide +kernel
theorem areaX_near (k n : Nat) (h : k + n ≤ 0x1FC) : leAt areaX k n = leAt rawX k n :=
  leAt_putAt_before _ _ _ _ _ (by rw [show areaRaw tX tX.self 0x3300 noImages false = rawX from rfl, rawX_length]; omega) h
/-- Another carriage of its coach, of the same shape, in slot 7. -/
def otherX : Carriage := { tX.self with id := 2, slot := 7, index := 1, slots := [257] }
theorem hyps_ContextSaveAndLoad_other :
    let s := { tX with rest := [otherX], self := { tX.self with s := [(1, 0x200000), (3, 7)] } }
    RunsS ctxI.h [ctxI.h.d, ctxI.h.a, ctxI.h.b] s ∧ slotTarget s ((rs s ctxI.h.d).extractLsb' 0 4).toNat = some otherX ∧
      otherX.id ≠ s.self.id ∧ otherX ∈ s.rest ∧ (ctxAddr s ctxI).toNat % 4096 = 0 ∧ settled s 2 = true ∧ otherX.kind ≠ .path ∧
      readsBehind s (ctxEng s ctxI.t false 0x200000 12928) = false ∧ widthOf otherX = widthOf tX.self ∧
      otherX.nreg = tX.self.nreg ∧ otherX.accs = tX.self.accs ∧ otherX.kind = tX.self.kind := by decide +kernel
theorem hyps_ContextSaveAndLoad_area :
    areaOk areaX = true ∧ sizeOk areaX = true ∧ areaWorldOk areaX true 0 = true ∧ shapeOk areaX tX.self = true ∧
      demandFits (allReady tX) tX.self areaX = true := by
  have f := rawX_fields
  have hs : areaSize 1 32 0 = 12928 := by decide +kernel
  refine ⟨areaOk_sealed rawX (by rw [rawX_length]; omega) f.1 f.2.1 ?_ ?_ f.2.2.2.2.2.2.2.2.2.2.2, ?_, ?_, ?_, ?_⟩
  · simp [f, hs]
  · simp [f, rawX_length]
  · simp [sizeOk, areaX_near, f, hs]
  · simp [areaWorldOk, areaX_near, f, b2n]
  · have hc : widthOf tX.self = 1 ∧ tX.self.nreg = 32 ∧ tX.self.accs = 0 := by decide +kernel
    simp [shapeOk, areaX_near, f, hc]
  · have hd : regsUsed (allReady tX) tX.self.core - vBytes tX.self + 128 ≤ vrcap (allReady tX) tX.self.core := by decide +kernel
    rw [demandFits, areaX_near _ _ (by omega), f.2.2.2.2.2.2.2.2.2.1]
    exact decide_eq_true hd

/-! ### Pre-emption, the host, resets, errors, requests from outside -/

def prqSave : DWord := BitVec.ofNat 64 (1 + 2 ^ 8 * 5)
/-- The S world may be pre-empted: PRL names launch 0x100, whose coach 0 runs. -/
def tPre : State := { wsys tX 1 4 0x2010 0x100 with launches := [{ tLaunch with rcd := { tRec with world := true } }] }
def preOf (restore : Bool) (limit : Nat) : Preempt := { world := true, restore := restore, coach := 1, limit := limit, base := 0x200000 }
def coachX (stopped saved : Bool) : Coach :=
  { tCoach with rcd := { tRec with world := true, nreg := 32, accs := 0 }, stopped := stopped, saved := saved }
def tPreOn (restore : Bool) (limit : Nat) (stopped saved handler : Bool) : State :=
  { tPre with
    preempt := [preOf restore limit], coaches := [coachX stopped saved]
    self := { tX.self with handler := handler } }
theorem hyps_Preemption :
    (prqSave.getLsbD 0 = true ∧ prqSave.getLsbD 1 = false ∧ prsState tPre true ≠ 1 ∧ prsState (setPrs tPre true 0x1000000000000000) true = 1 ∧
      (coachNamed tPre true (rsys tPre (wIdx true) 4 0x2010) (field prqSave 40 24)).map (fun k => k.saved) = some false ∧
      coachNamed tX true (rsys tX (wIdx true) 4 0x2010) (field prqSave 40 24) = none ∧ (3 : DWord).getLsbD 1 = true) ∧
    (∀ h ∈ [false, true],
      let s := tPreOn false 0 false false h
      preemptOf s true false = some (preOf false 0) ∧ coach? s 1 = some (coachX false false) ∧ eligible s (coachX false false) = !h ∧
        s.loops = [] ∧ coachOps s 1 = []) ∧
    (∀ busy ∈ [false, true],
      let s := { tPreOn false 0 true false false with ops := if busy then [opOf copyK .issued [] []] else [] }
      preemptOf s true false = some (preOf false 0) ∧ coach? s 1 = some (coachX true false) ∧ drained s (coachX true false) = !busy) ∧
    (let s := tPreOn false 70 false false false
     preemptOf s true false = some (preOf false 70) ∧ coach? s 1 = some (coachX false false) ∧ (70 : Nat) ≠ 0 ∧ 70 ≤ s.ns ∧ s.ns < 71) ∧
    (let s := tPreOn true 0 true true false
     preemptOf s true true = some (preOf true 0) ∧ imageArea s 0x200000 = none) := by decide +kernel
/-- Copies of 2 MiB: not started, started; an armed trigger; a window to discard; rows taken and not. -/
theorem hyps_Preemption_stop :
    (∀ st ∈ [OpStage.requesting, .issued],
      let o := opOf (.copy [(0, 0, 2 ^ 21)] [(0, 2 ^ 30, 2 ^ 21)]) st [] []
      2 ^ 20 < copyTotal o ∧ copyTotal (opOf copyK st [] []) ≤ 2 ^ 20 ∧ PlainEnd (withOp o) o ∧ HasHandle (withOp o) o ∧
        o.inst = 0 ∧ { o with scope := 0 }.scope = 0) ∧
    (opOf (.armed 90) .issued [] []).kind = .armed 90 ∧
    (let s := tWin (loopIn false) .run
     s.loops.find? (fun l => (theCar s l.cid).coach == tCoach.id) = some (loopIn false) ∧ (loopIn false).insts ≠ [] ∧ loopL.insts = []) ∧
    (let s := wsys (tPreOn false 0 true false false) 0 5 0x008 0xFFFF
     let k := coachX true false
     let p := preOf false 0
     coach? s k.id = some k ∧ rowsTake s p.world p.base (imageEnd s k p - p.base) = true ∧ imageEnd s k p ≤ 2 ^ 39 ∧
       rowsTake (wsys s 0 5 0x008 0) p.world p.base (imageEnd s k p - p.base) = false) := by decide +kernel
theorem mread_poke_take (s : State) (a n : Nat) (bs : List Byte) (h : n ≤ bs.length) (ha : a < 2 ^ 39) :
    mread (poke s a bs) (hk a) n = bs.take n := by
  rw [hk, Nat.mod_eq_of_lt ha]
  have hw := cgetN_csetN bs s.mem (memKey .hbm Config.ownPackage a)
  have ht : ∀ (c : Cells 8) (k m j : Nat), j ≤ m → cgetN c k j = (cgetN c k m).take j := by
    intro c k m
    induction m generalizing k with
    | zero => intro j hj; obtain rfl := Nat.le_zero.mp hj; rfl
    | succ m ih =>
      intro j hj
      cases j with
      | zero => rfl
      | succ j => simp only [cgetN, List.take_succ_cons]; rw [ih (k + 1) j (by omega)]
  show cgetN (csetN s.mem _ bs) _ n = _
  rw [ht _ _ bs.length n h, hw]
/-- The saved coach's image lies at 0x200000. -/
def tRest (s : State) : State := poke s 0x200000 areaX
theorem areaX_length : areaX.length = 12928 := by
  rw [areaX, areaOf, length_putAt _ _ _ (by rw [show areaRaw tX tX.self 0x3300 noImages false = rawX from rfl, rawX_length,
    show (bitsLe 4 (crc32c rawX)).length = 4 from length_leBytes _ _]; omega)]
  exact rawX_length
theorem imageArea_tRest (s : State) : imageArea (tRest s) 0x200000 = some areaX := by
  have hl : ∀ k n, k + n ≤ 512 → leAt (areaX.take 512) k n = leAt areaX k n := fun k n h => by
    rw [leAt, leAt, List.drop_take, List.take_take, Nat.min_eq_left (by omega)]
  have hs : sizeOk (areaX.take 512) = true := by
    have := hyps_ContextSaveAndLoad_area.2.1
    simp only [sizeOk] at this ⊢
    rw [hl _ _ (by omega), hl _ _ (by omega), hl _ _ (by omega), hl _ _ (by omega), hl _ _ (by omega)]
    exact this
  have h1 : mread (tRest s) (hk 0x200000) 512 = areaX.take 512 := mread_poke_take _ _ _ _ (by rw [areaX_length]; omega) (by omega)
  have hn : leAt (areaX.take 512) 4 4 = 12928 := by rw [hl _ _ (by omega), areaX_near _ _ (by omega)]; exact rawX_fields.2.2.1
  have h2 : mread (tRest s) (hk 0x200000) 12928 = areaX := by
    rw [tRest, mread_poke_take _ _ _ _ (Nat.le_of_eq areaX_length.symm) (by omega), List.take_of_length_le (Nat.le_of_eq areaX_length)]
  simp only [imageArea, h1, hs, if_true, hn, h2]
theorem savedCoach_areaX (s : State) (k : Coach) (h : coachNamed s true 0x100 0 = some k) (hk : k.saved = true) :
    savedCoach s true areaX = some k := by
  have h1 : leAt areaX 0x30 4 = 0 := by rw [areaX_near _ _ (by omega)]; decide +kernel
  have h2 : leBits 64 ((areaX.drop 0x28).take 8) = 0x100 := by
    have : leAt areaX 0x28 8 = 0x100 := by rw [areaX_near _ _ (by omega)]; decide +kernel
    rw [leBits, show leNat ((areaX.drop 0x28).take 8) = 0x100 from this]; rfl
  rw [savedCoach, h1, h2, h]
  simp [hk]
/-- A restore whose image is sound, on a package where nothing is ready, where every tile is free, and where none is. -/
def tR0 (ok : Bool) (n : Nat) : State :=
  let s := { tPreOn true 0 true true false with coaches := [{ coachX true true with rcd := { tRec with world := true, nreg := 32, accs := 0, a := 3, b := 3, n := n } }] }
  if ok then wsys (allReady s) 0 5 0 (BitVec.allOnes 64) else s
def kR (n : Nat) : Coach := { coachX true true with rcd := { tRec with world := true, nreg := 32, accs := 0, a := 3, b := 3, n := n } }
theorem put_places (s : State) (a : Nat) (bs h : List Byte) (k : Coach) (w r : Bool) :
    homesOfCoach (put s a bs) k.id = homesOfCoach s k.id ∧ preemptOf (put s a bs) w r = preemptOf s w r ∧
      coachNamed (put s a bs) w 0x100 0 = coachNamed s w 0x100 0 ∧
      neverFits (put s a bs) k h w = neverFits s k h w ∧ restoreTiles (put s a bs) k h = restoreTiles s k h :=
  ⟨rfl, rfl, rfl, rfl, rfl⟩
theorem shapeOk_handler (bs : List Byte) (c : Carriage) (h : Bool) : shapeOk bs { c with handler := h } = shapeOk bs c := rfl
/-- What the restore clauses ask of a package whose image at 0x200000 is that area. -/
def Restorable (s : State) (k : Coach) (bs : List Byte) : Prop :=
  preemptOf s true true = some (preOf true 0) ∧ imageArea s 0x200000 = some bs ∧ areaOk bs = true ∧ savedCoach s true bs = some k ∧
    imageAreas s (homesOfCoach s k.id).length 0x200000 = some [(0x200000, bs)] ∧ areaWorldOk bs true k.rcd.space = true ∧
    ((homesOfCoach s k.id).zip [(0x200000, bs)]).all (fun x => shapeOk x.2.2 x.1) = true
theorem restorable (s : State) (k : Coach) (hk : k.saved = true) (hsp : k.rcd.space = 0)
    (hp : preemptOf s true true = some (preOf true 0)) (hn : coachNamed s true 0x100 0 = some k)
    (hh : homesOfCoach s k.id = [{ tX.self with handler := false }]) : Restorable (tRest s) k areaX := by
  have far := put_places s (memKey .hbm Config.ownPackage 0x200000) areaX [] k true true
  rw [show put s (memKey .hbm Config.ownPackage 0x200000) areaX = tRest s from rfl] at far
  have hh' : homesOfCoach (tRest s) k.id = [{ tX.self with handler := false }] := far.1.trans hh
  have hi := imageArea_tRest s
  refine ⟨far.2.1.trans hp, hi, hyps_ContextSaveAndLoad_area.1, savedCoach_areaX _ _ (far.2.2.1.trans hn) hk, ?_, ?_, ?_⟩
  · rw [hh', List.length_singleton, imageAreas, hi]
    rfl
  · rw [hsp]
    exact hyps_ContextSaveAndLoad_area.2.2.1
  · rw [hh', List.zip_cons_cons, List.all_cons, shapeOk_handler, hyps_ContextSaveAndLoad_area.2.2.2.1]
    rfl
theorem hyps_Preemption_restore :
    Restorable (tRest (tR0 false 1)) (kR 1) areaX ∧ Restorable (tRest (tR0 true 1)) (kR 1) areaX ∧
      Restorable (tRest (tR0 true 17)) (kR 17) areaX :=
  ⟨restorable _ _ rfl rfl (by decide +kernel) (by decide +kernel) (by decide +kernel),
    restorable _ _ rfl rfl (by decide +kernel) (by decide +kernel) (by decide +kernel),
    restorable _ _ rfl rfl (by decide +kernel) (by decide +kernel) (by decide +kernel)⟩
theorem headerRec_areaX (n : Nat) : headerRec (kR n) areaX = (kR n).rcd ∧ headerDemand (kR n) areaX = 128 * n * 4 := by
  have f := rawX_fields
  simp [headerRec, headerDemand, areaX_near, f, kR]
theorem hyps_Preemption_places :
    neverFits (tRest (tR0 false 1)) (kR 1) areaX true = true ∧
    (neverFits (tRest (tR0 true 1)) (kR 1) areaX true = false ∧
      restoreTiles (tRest (tR0 true 1)) (kR 1) areaX = [(0, 0), (8, 0)]) ∧
    (neverFits (tRest (tR0 true 17)) (kR 17) areaX true = false ∧ restoreTiles (tRest (tR0 true 17)) (kR 17) areaX = []) := by
  have h : ∀ s k, neverFits (tRest s) k areaX true = neverFits s k areaX true ∧
      restoreTiles (tRest s) k areaX = restoreTiles s k areaX :=
    fun s k => (put_places s (memKey .hbm Config.ownPackage 0x200000) areaX areaX k true true).2.2.2
  simp only [h, neverFits, restoreTiles, headerRec_areaX]
  decide +kernel
/-- Queue 63 of the N world, stopped with a cause. -/
def tQs (cause tail : Nat) : State :=
  wsys (wsys (tQu (zeros 128)) 0 4 (0x1000 + 0x40 * 63 + 0x20) (BitVec.ofNat 64 (cause * 2 ^ 48) ||| 0x8000000000000000)) 0 4
    (0x1000 + 0x40 * 63 + 0x18) (BitVec.ofNat 64 tail)
theorem hyps_HostRegisters :
    (hostReg tS true true 0x04000000 = some (.world 0) ∧ hostReg tS true false 0x05000018 = some (.iso 24) ∧
      hostReg tS false false 0x05000018 = none ∧ hostReg tS true true 4 = none) ∧
    ((63 : Nat) < 64 ∧ qEn (tQu (zeros 128)) false 63 = true ∧ qEn tS false 63 = false ∧
      2 ^ qSz (tQu (zeros 128)) false 63 + qHead (tQu (zeros 128)) false 63 < ((0xFFFFFFFFFFFF : DWord).extractLsb' 0 48).toNat) ∧
    (qStopped tS false 63 = false ∧ qStopped (tQs 71 1) false 63 = true ∧
      field (rq (tQs 71 1) false 63 0x20) 48 8 = (causeCode .launchRecord).toNat ∧ qStopped (tQs 5 16) false 63 = true ∧
      field (rq (tQs 5 16) false 63 0x20) 48 8 ≠ (causeCode .launchRecord).toNat ∧
      qTail (tQs 5 16) false 63 ≤ 2 ^ qSz (tQs 5 16) false 63 + qHead (tQs 5 16) false 63 ∧
      2 ^ qSz (tQs 5 17) false 63 + qHead (tQs 5 17) false 63 < qTail (tQs 5 17) false 63) := by decide +kernel
theorem hyps_PackageResets :
    (ofHost (memKey .host 0 5) = true ∧ ofPeers (memKey .hbm 1 5) = true) ∧
    (ofHost (memKey .shm 0 5) = false ∧ ofPeers (memKey .shm 0 5) = false ∧ ofOwnHbm (memKey .shm 0 5) = false) ∧
    ((114 : Nat) < 115 ∧ (115 : Nat) ≤ 115 ∧ ((0, 2, 0x28) : Nat × Nat × Nat) ≠ (0, 2, 0x20)) := by decide +kernel
theorem hyps_ReadinessAndLinks :
    (tS.boot = .pending ∧ { tS with boot := .verified }.boot ≠ .pending ∧ { tS with boot := .failed }.boot = .failed) ∧
    ((127 : Nat) < 128 ∧ (143 : Nat) < 144 ∧ (157 : Nat) < 158 ∧ (161 : Nat) < 162) ∧
    (let s := { allReady tS with boot := .verified, crcFails := [(11, 7)] }
     s.boot = .verified ∧ ready s (146 + 11) = true ∧ (cget s.crcFails 11).toNat + 1 = 8 ∧ (cget s.crcFails 10).toNat + 1 < 8 ∧
       (11 : Nat) < 12 ∧ ready tS (146 + 11) = false ∧ tS.boot ≠ .verified) := by decide +kernel
theorem hyps_ErrorsAndPower :
    ((161 : Nat) < 162 ∧ cget tS.unread 161 = 0 ∧ cget { tS with unread := [(161, 1)] }.unread 161 = 1 ∧ tS.self.id ≠ 0) ∧
    (let s := { tS with coolUs := 1000, clockStep := 12 }
     1000 ≤ s.coolUs ∧ 0 < s.clockStep) ∧ (tS.coolUs < 1000 ∧ tS.clockStep = 0) := by decide +kernel
def tHd : State := { allReady (wsys (wsys tB 0 5 0x008 0xFFFF) 0 5 0x010 0xC) with hdm := [(0x100000, 2 ^ 39, 0)] }
theorem hyps_OutsideRequests :
    hdmPa tHd (0x100000 + 2 ^ 39 - 64) 64 = some (2 ^ 39 - 64) ∧ hdmPa tHd 0xFFFC0 64 = none ∧ ready tHd 159 = true ∧
      2 ^ 39 - 64 + 64 ≤ 2 ^ 39 ∧ unitsOk tHd true (2 ^ 39 - 64) 64 = true ∧ unitsOk tHd false (2 ^ 39 - 64) 64 = false ∧
      ready tB 159 = false ∧ tHd.self.id ≠ 0 := by decide +kernel
theorem hyps_PeerAccesses :
    ready tHd (146 + 11) = true ∧ ready tB (146 + 11) = false ∧ peerPlain tHd (.sigW true 0 5 0 7) = some (true, 0, 5) ∧
      portWorld tHd 11 = false ∧ portWorld tHd 2 = true ∧
      routePort tHd 5 = none ∧ routePort { tHd with routes := [(5, [11])] } 5 ≠ none ∧ inHbm (2 ^ 39 - 8) 8 = true ∧ inHbm 0 4 = true ∧
      rowsTake tHd true (2 ^ 39 - 8) 8 = true ∧ rowsTake tHd false (2 ^ 39 - 8) 8 = false ∧ rowsTake tHd true 0 4 = true ∧
      mBad tHd (hk 0) 4 = false := by decide +kernel
theorem hyps_DebuggerAccesses :
    dbgBlocked tS false (((span 917504 8).map (localKey tS 0)).filterMap id) = false ∧ localKey tS 0 917504 = none ∧
      (localKey tS 0 0).isSome = true ∧ (∀ k ∈ (localKey tS 0 0).toList, dbgBlocked tS true [k] = false) ∧
      dbgBlocked tS false (((span 0 8).map (localKey tS 0)).filterMap id) = false := by decide +kernel

/-! ### Decoding and steps -/

/-- 10, 07, 05: worked encodings. -/
theorem test_decode_scmp : okIs (decode (w3 0x0060000F 0xA4000604 0x00000064)) (.scmp { intRri (hd 3 (sReg 4) 0) 100 with sub := 2, u := true }) = true := by
  decide +kernel
theorem hyps_DecodeOfWrittenWords : ((0 : Word).extractLsb' 0 8) = 0 := by decide +kernel
theorem hyps_DecodeOfEncode :
    WellFormed (.sadd intA) ∧ (∃ x, WellFormed (.apSld x)) ∧ WellFormed (.apQpop (rrrI0 (hd (sReg 31) 0 0) 0)) ∧
      WellFormed (.apQpush (rrrI0 (hd 7 (sReg 1) 0) 0)) ∧ (∃ x, WellFormed (.apExit x)) ∧
      okIs (decode (encode (.sadd intA))) (.sadd intA) = true := by
  refine ⟨by decide +kernel, ⟨locI0 (hd (sReg 1) (sReg 2) (sReg 0)) 3, by decide +kernel⟩, by decide +kernel, by decide +kernel,
    ⟨rrrI0 (hd 0 0 0) 0, by decide +kernel⟩, by decide +kernel⟩
def fetchedAs (s : State) (p : InstrBits → Bool) : Bool := bytesAre (fetchAt s (pcOf s)) (fun bs => p (bitsOfBytes bs))
def decodesTo (f : InstrBits → Except DecodeFate Instr) (w : InstrBits) : Bool :=
  match f w with
  | .ok _ => true
  | .error _ => false
def tF (w : Nat) : State := State.reset.withFetchWord 96 w
theorem hyps_StepRunsDecoded :
    (let s := tF 0xE2
     s.turn = .fetch ∧ s.apMode = false ∧ s.self.id ≠ 0 ∧ s.self.pc.toNat % 4 = 0 ∧ fetchUp s s.self.pc 12 = true ∧
       fetchedAs s (decodesTo decode) = true) ∧
    (let s := { tF 0x28 with turn := .ap, self := { (tF 0x28).self with ap := some { tAp with pc := 0x3000 } } }
     s.turn = .ap ∧ s.self.id ≠ 0 ∧ (apOf s).pc.toNat % 4 = 0 ∧ fetchUp s (apOf s).pc 12 = true ∧
       bytesAre (fetchAt s (apOf s).pc) (fun bs => decodesTo decodeAp (bitsOfBytes bs)) = true) ∧
    (let s := { tF 0xE2 with self := { (tF 0xE2).self with pc := 2 } }
     s.self.pc.toNat % 4 ≠ 0) ∧
    (fetchUp tB 0x40000000 12 = false ∧ fetchUp { tB with self := { tB.self with pc := 0x40000000 } } 0x40000000 12 = false) ∧
    (fetchUp tS tS.self.pc 12 = true ∧ fetchedAs tS (fun _ => true) = false ∧ tS.self.pc.toNat % 4 = 0 ∧ tS.turn = .fetch) ∧
    fetchedAs (tF 0x01000002) (fun w => !decodesTo decode w) = true ∧ { tS with turn := .event .packageReset }.turn = .event .packageReset := by
  decide +kernel
theorem hyps_BetweenIsKept : State.reset.between = true ∧ isNext (step State.reset) = true ∧ (tF 0xE2).between = true ∧
    isNext (step (tF 0xE2)) = true := by decide +kernel
theorem hyps_EveryStepGoesOn : tS.between = true := by decide +kernel
theorem hyps_MemoryStaysCanonical : Memory.wf tB.mem = true ∧ tB.mem ≠ [] := by decide +kernel
/-- 03, 04, 09, 10, 21: worked encodings. -/
theorem test_decode_lds : okIs (decode (w3 0x05001380 0x40006604 0x000040AD)) (.lds
    { h := hdG 3 true 40 (sReg 4) 12, wid := 2, u := false, aop := 0, low := 0, t := { ofs := 64, evict := 5, scope := 3, order := 1 } }) = true := by
  decide +kernel
theorem test_decode_vfma : okIs (decode (w3 0x02884064 0x00303815 0x00000816)) (.vfmaF32
    { h := { hd 20 21 (sReg 7) with hints := { noHints with reuseB := true, stall := 2 } }, nega := false, absa := false, negb := false
      absb := false, negc := false, sub := 0, t := .rrr { xmod := 0, rnd := 1, c := 22 } }) = true := by decide +kernel

end Sys2Proof.Tests
end

section
/-! SUPPORT. The integer operations as operations on words: sums, products, halves, quotients, shifts, limits and conditions
(08 R130-R134). -/
namespace Sys2Proof.Machine

theorem ofInt_sub_eq {w : Nat} (x y : Int) : BitVec.ofInt w (x - y) = BitVec.ofInt w x - BitVec.ofInt w y := by
  rw [Int.sub_eq_add_neg, BitVec.ofInt_add, BitVec.ofInt_neg, BitVec.sub_eq_add_neg]

@[simp] theorem intOf_unsigned {w : Nat} (x : BitVec w) : intOf true x = x.toNat := rfl
@[simp] theorem intOf_signed {w : Nat} (x : BitVec w) : intOf false x = x.toInt := rfl

/-- Reading a word as an integer in a wider word extends it by U. -/
theorem ofInt_intOf_extend {w : Nat} (v : Nat) (u : Bool) (x : BitVec w) :
    BitVec.ofInt v (intOf u x) = if u then x.setWidth v else x.signExtend v := by
  cases u with
  | false => rfl
  | true => rw [intOf_unsigned, BitVec.ofInt_natCast, BitVec.ofNat_toNat]; rfl
@[simp] theorem ofInt_intOf {w : Nat} (u : Bool) (x : BitVec w) : BitVec.ofInt w (intOf u x) = x := by
  rw [ofInt_intOf_extend]; cases u <;> simp

theorem intOf_lt {w : Nat} (u : Bool) (a b : BitVec w) :
    intOf u a < intOf u b ↔ (if u then a.ult b else a.slt b) = true := by
  cases u with
  | false => simp [BitVec.slt_eq_decide]
  | true => simp [BitVec.ult_eq_decide]

theorem intOf_bounds {w : Nat} (u : Bool) (x : BitVec w) : loLim u w ≤ intOf u x ∧ intOf u x ≤ hiLim u w := by
  cases u with
  | false =>
    have hlo : -((2 ^ (w - 1) : Nat) : Int) ≤ x.toInt := mod_cast x.le_toInt
    have hhi : x.toInt ≤ ((2 ^ (w - 1) : Nat) : Int) - 1 := mod_cast x.toInt_le
    exact ⟨hlo, hhi⟩
  | true =>
    have h := x.isLt
    simp only [loLim, hiLim, intOf_unsigned, if_true]
    omega

/-- Within the range nothing is clamped (08 R130). -/
theorem narrowI_intOf {w : Nat} (sat u : Bool) (x : BitVec w) : narrowI sat u w (intOf u x) = x := by
  obtain ⟨hlo, hhi⟩ := intOf_bounds u x
  rw [narrowI, clampI, if_neg (Int.not_lt.mpr hlo), if_neg (Int.not_lt.mpr hhi), ofInt_intOf, ite_self]

theorem addOp_eq {w : Nat} (sat u : Bool) (a b : BitVec w) :
    addOp sat u a b = if sat then clampI u w (intOf u a + intOf u b) else a + b := by
  rw [addOp, narrowI, BitVec.ofInt_add, ofInt_intOf, ofInt_intOf]
theorem subOp_eq {w : Nat} (sat u : Bool) (a b : BitVec w) :
    subOp sat u a b = if sat then clampI u w (intOf u a - intOf u b) else a - b := by
  rw [subOp, narrowI, ofInt_sub_eq, ofInt_intOf, ofInt_intOf]
theorem mulOp_eq {w : Nat} (sat u : Bool) (a b : BitVec w) :
    mulOp sat u a b = if sat then clampI u w (intOf u a * intOf u b) else a * b := by
  rw [mulOp, narrowI, BitVec.ofInt_mul, ofInt_intOf, ofInt_intOf]
theorem madOp_eq (sat u : Bool) (a b c : Word) :
    madOp sat u a b c = if sat then clampI u 32 (intOf u a * intOf u b + intOf u c) else a * b + c := by
  rw [madOp, narrowI, BitVec.ofInt_add, BitVec.ofInt_mul, ofInt_intOf, ofInt_intOf, ofInt_intOf]
theorem minOp_eq {w : Nat} (u : Bool) (a b : BitVec w) :
    minOp u a b = if (if u then b.ult a else b.slt a) then b else a := by
  simp only [minOp, intOf_lt]
theorem maxOp_eq {w : Nat} (u : Bool) (a b : BitVec w) :
    maxOp u a b = if (if u then a.ult b else a.slt b) then b else a := by
  simp only [maxOp, intOf_lt]

/-- An amount of the width or more shifts every bit out (08 R133). -/
theorem shlOp_eq {w : Nat} (a b : BitVec w) : shlOp a b = a <<< b.toNat := by
  unfold shlOp
  split
  next h => exact (BitVec.shiftLeft_eq_zero h).symm
  next => rfl
theorem shrOp_eq {w : Nat} (a b : BitVec w) : shrOp a b = a >>> b.toNat := by
  unfold shrOp
  split
  next h => exact (BitVec.ushiftRight_eq_zero h).symm
  next => rfl
theorem sraOp_eq {w : Nat} (a b : BitVec w) : sraOp a b = a.sshiftRight b.toNat := by
  apply BitVec.eq_of_getLsbD_eq
  intro j hj
  rw [sraOp, BitVec.getLsbD_sshiftRight, BitVec.getLsbD_sshiftRight]
  rcases Nat.le_total b.toNat w with hb | hb
  · rw [Nat.min_eq_left hb]
  · rw [Nat.min_eq_right hb, if_neg (by omega), if_neg (by omega)]

/-- A remainder by a multiple keeps the digits below it. -/
theorem toNat_emod_div_mod (x : Int) (a b c : Nat) (ha : 0 < a) (hbc : 0 < b * c) :
    (x % ((a * (b * c) : Nat) : Int)).toNat / a % b = (x / (a : Int) % (b : Int)).toNat := by
  have ha' : (a : Int) ≠ 0 := Int.natCast_ne_zero.mpr (Nat.ne_of_gt ha)
  have hne : ((a * (b * c) : Nat) : Int) ≠ 0 := Int.natCast_ne_zero.mpr (Nat.ne_of_gt (Nat.mul_pos ha hbc))
  have digits : x / (a : Int) % (b : Int) = x % ((a * (b * c) : Nat) : Int) / (a : Int) % (b : Int) := by
    conv =>
      lhs
      rw [← Int.emod_add_mul_ediv x ((a * (b * c) : Nat) : Int), Int.natCast_mul a, Int.mul_assoc,
        Int.add_mul_ediv_left _ _ ha', Int.natCast_mul b, Int.mul_assoc, Int.add_mul_emod_self_left]
    rw [Int.natCast_mul, Int.natCast_mul]
  obtain ⟨r, hr⟩ := Int.eq_ofNat_of_zero_le (Int.emod_nonneg x hne)
  rw [digits, hr, Int.toNat_natCast, ← Int.natCast_ediv, ← Int.natCast_emod, Int.toNat_natCast]
/-- The bits from `k` up of an integer stand in every word wide enough to hold them. -/
theorem extractLsb'_ofInt {v k n : Nat} (x : Int) (h : k + n ≤ v) :
    (BitVec.ofInt v x).extractLsb' k n = BitVec.ofInt n (x.fdiv (2 ^ k : Nat)) := by
  obtain ⟨m, rfl⟩ : ∃ m, v = k + (n + m) := ⟨v - k - n, by omega⟩
  have hw : 2 ^ (k + (n + m)) = 2 ^ k * (2 ^ n * 2 ^ m) := by rw [Nat.pow_add, Nat.pow_add]
  apply BitVec.eq_of_toNat_eq
  rw [BitVec.extractLsb'_toNat, BitVec.toNat_ofInt, BitVec.toNat_ofInt, Int.fdiv_eq_ediv_of_nonneg _ (Int.natCast_nonneg _),
    Nat.shiftRight_eq_div_pow, hw]
  exact toNat_emod_div_mod x _ _ _ (Nat.two_pow_pos k) (Nat.mul_pos (Nat.two_pow_pos n) (Nat.two_pow_pos m))

/-- The upper half of the product of two words, each extended by U to both halves (08 R131). -/
theorem mulHi_eq {v w : Nat} (u : Bool) (a b : BitVec w) (h : w + w ≤ v) :
    mulHi u a b = if u then (a.setWidth v * b.setWidth v).extractLsb' w w
      else (a.signExtend v * b.signExtend v).extractLsb' w w := by
  rw [mulHi, ← extractLsb'_ofInt _ h, BitVec.ofInt_mul, ofInt_intOf_extend, ofInt_intOf_extend]
  cases u <;> rfl

/-- 08 R132: no quotient but that of overflow leaves the range. -/
theorem divOp_signed {a b : DWord} (sat : Bool) (hb : b ≠ 0) (h : a ≠ 0x8000000000000000#64 ∨ b ≠ 0xFFFFFFFFFFFFFFFF#64) :
    divOp sat false a b = a.sdiv b := by
  rw [divOp, if_neg hb, intOf_signed, intOf_signed, ← BitVec.toInt_sdiv_of_ne_or_ne a b h]
  exact narrowI_intOf sat false (a.sdiv b)
theorem divOp_unsigned {a b : DWord} (sat : Bool) (hb : b ≠ 0) : divOp sat true a b = a.udiv b := by
  rw [divOp, if_neg hb, intOf_unsigned, intOf_unsigned, ← Int.ofNat_tdiv]
  exact narrowI_intOf sat true (a.udiv b)
theorem divOp_eq (sat u : Bool) (a b : DWord) :
    divOp sat u a b =
      if b = 0 then 0xFFFFFFFFFFFFFFFF#64
      else if u then a.udiv b
      else if a = 0x8000000000000000#64 ∧ b = 0xFFFFFFFFFFFFFFFF#64 then
        (if sat then 0x7FFFFFFFFFFFFFFF#64 else 0x8000000000000000#64)
      else a.sdiv b := by
  by_cases hb : b = 0
  · rw [divOp, if_pos hb, if_pos hb]
  rw [if_neg hb]
  cases u with
  | true => exact divOp_unsigned sat hb
  | false =>
    rw [if_neg (by decide)]
    split
    next h =>
      obtain ⟨rfl, rfl⟩ := h
      cases sat <;> decide
    next h => exact divOp_signed sat hb (Decidable.not_and_iff_not_or_not.mp h)
theorem remOp_eq (u : Bool) (a b : DWord) :
    remOp u a b = if b = 0 then a else if u then a.umod b else a.srem b := by
  unfold remOp
  congr 1
  cases u with
  | true =>
    rw [intOf_unsigned, intOf_unsigned, ← Int.ofNat_tmod]
    exact ofInt_intOf true (a.umod b)
  | false =>
    rw [intOf_signed, intOf_signed, ← BitVec.toInt_srem]
    exact ofInt_intOf false (a.srem b)

theorem intCond_eq {w : Nat} (u : Bool) (cc : Nat) (a b : BitVec w) (h : cc ≤ 5) :
    intCond u cc a b =
      [a == b, a != b, if u then a.ult b else a.slt b, !if u then b.ult a else b.slt a,
        if u then b.ult a else b.slt a, !if u then a.ult b else a.slt b].getD cc false := by
  have lt : decide (intOf u a < intOf u b) = if u then a.ult b else a.slt b := by simp only [intOf_lt, Bool.decide_eq_true]
  have gt : decide (intOf u b < intOf u a) = if u then b.ult a else b.slt a := by simp only [intOf_lt, Bool.decide_eq_true]
  have le : decide (intOf u a ≤ intOf u b) = !if u then b.ult a else b.slt a := by
    rw [← gt, ← decide_not, decide_eq_decide, Int.not_lt]
  have ge : decide (intOf u b ≤ intOf u a) = !if u then a.ult b else a.slt b := by
    rw [← lt, ← decide_not, decide_eq_decide, Int.not_lt]
  match cc with
  | 0 | 1 => rfl
  | 2 => exact lt
  | 3 => exact le
  | 4 => exact gt
  | 5 => exact ge
  | n + 6 => omega

end Sys2Proof.Machine
end

section
/-! SUPPORT. Bit fields, bit counts and bytes as operations on words (08 R136, R143). -/
namespace Sys2Proof.Machine

/-! ## Bit fields -/

theorem field_eq_extractLsb' {w : Nat} (x : BitVec w) (lo n : Nat) : field x lo n = (x.extractLsb' lo n).toNat := by
  rw [field, nbits, BitVec.extractLsb'_toNat, Nat.shiftRight_eq_div_pow]

/-- A field extended to the width, as the two shifts that keep it alone. -/
theorem setWidth_extractLsb' {w : Nat} (a : BitVec w) (p n : Nat) (h : p + n ≤ w) :
    (a.extractLsb' p n).setWidth w = (a <<< (w - n - p)) >>> (w - n) := by
  ext j hj
  simp only [BitVec.getElem_setWidth, BitVec.getLsbD_extractLsb', BitVec.getElem_ushiftRight, BitVec.getLsbD_shiftLeft]
  by_cases hn : j < n
  · have e : w - n + j - (w - n - p) = p + j := by omega
    simp [hn, e, show w - n + j < w by omega, show ¬ w - n + j < w - n - p by omega]
  · simp [hn, show ¬ w - n + j < w by omega]
theorem signExtend_extractLsb' {w : Nat} (a : BitVec w) (p n : Nat) (h : p + n ≤ w) (hn : 0 < n) :
    (a.extractLsb' p n).signExtend w = (a <<< (w - n - p)).sshiftRight (w - n) := by
  ext j hj
  have hm : (a <<< (w - n - p)).msb = (a.extractLsb' p n).msb := by
    have e : w - 1 - (w - n - p) = p + (n - 1) := by omega
    rw [BitVec.msb_eq_getLsbD_last, BitVec.msb_eq_getLsbD_last, BitVec.getLsbD_shiftLeft, BitVec.getLsbD_extractLsb', e]
    simp only [show w - 1 < w by omega, show ¬ w - 1 < w - n - p by omega, show n - 1 < n by omega, decide_true,
      decide_false, Bool.not_false, Bool.true_and]
  rw [BitVec.getElem_signExtend, BitVec.getElem_sshiftRight, hm]
  by_cases hj' : j < n
  · have e : w - n + j - (w - n - p) = p + j := by omega
    rw [dif_pos hj', dif_pos (by omega), ← BitVec.getLsbD_eq_getElem, ← BitVec.getLsbD_eq_getElem,
      BitVec.getLsbD_extractLsb', BitVec.getLsbD_shiftLeft, e]
    simp only [hj', show w - n + j < w by omega, show ¬ w - n + j < w - n - p by omega, decide_true, decide_false,
      Bool.not_false, Bool.true_and]
  · rw [dif_neg hj', dif_neg (by omega)]

/-- A field of SBFX and VBFX: 0 where its effective length is 0, else extended by U (08 R136, R143). -/
theorem bfxOp_eq (u : Bool) (pb : Nat) {w : Nat} (a b : BitVec w) (hp : bfPos pb b ≤ w) :
    bfxOp u pb a b =
      if bfLen w pb b = 0 then 0
      else if u then (a <<< (w - bfLen w pb b - bfPos pb b)) >>> (w - bfLen w pb b)
      else (a <<< (w - bfLen w pb b - bfPos pb b)).sshiftRight (w - bfLen w pb b) := by
  have hl : bfPos pb b + bfLen w pb b ≤ w := by
    have := Nat.min_le_right (min (field b 8 (pb + 1)) w) (w - bfPos pb b)
    unfold bfLen
    omega
  have hf : BitVec.ofNat (bfLen w pb b) (a.toNat / 2 ^ bfPos pb b) = a.extractLsb' (bfPos pb b) (bfLen w pb b) := by
    rw [BitVec.extractLsb', Nat.shiftRight_eq_div_pow]
  rw [bfxOp, hf]
  split
  next => rfl
  next hn =>
    cases u with
    | true => exact setWidth_extractLsb' a _ _ hl
    | false => exact signExtend_extractLsb' a _ _ hl (Nat.pos_of_ne_zero hn)

/-- A bit of a number whose field is replaced. -/
theorem testBit_setField (x lo n v j : Nat) :
    (setField x lo n v).testBit j = if lo ≤ j ∧ j < lo + n then v.testBit (j - lo) else x.testBit j := by
  have hx : x % 2 ^ lo < 2 ^ lo := Nat.mod_lt _ (Nat.two_pow_pos _)
  have hm : 2 ^ lo * (v % 2 ^ n) + x % 2 ^ lo < 2 ^ (lo + n) := by
    have hv : v % 2 ^ n < 2 ^ n := Nat.mod_lt _ (Nat.two_pow_pos _)
    calc 2 ^ lo * (v % 2 ^ n) + x % 2 ^ lo < 2 ^ lo * (v % 2 ^ n + 1) := by rw [Nat.mul_succ]; omega
      _ ≤ 2 ^ lo * 2 ^ n := Nat.mul_le_mul_left _ hv
      _ = 2 ^ (lo + n) := (Nat.pow_add 2 lo n).symm
  have hs : setField x lo n v = 2 ^ (lo + n) * (x / 2 ^ (lo + n)) + (2 ^ lo * (v % 2 ^ n) + x % 2 ^ lo) := by
    rw [setField]; ac_rfl
  rw [hs, Nat.testBit_two_pow_mul_add _ hm, Nat.testBit_two_pow_mul_add _ hx]
  simp only [Nat.testBit_mod_two_pow, Nat.testBit_div_two_pow]
  by_cases h1 : j < lo
  · simp [h1, show j < lo + n by omega, show ¬ lo ≤ j by omega]
  · by_cases h2 : j < lo + n
    · simp [h1, h2, show lo ≤ j by omega, show j - lo < n by omega]
    · simp only [h1, h2, and_false, if_false]
      congr 1
      omega

/-- The field of SBFI as a mask and a shifted source (08 R136). -/
theorem ofNat_setField {w : Nat} (d a : BitVec w) (lo n : Nat) :
    BitVec.ofNat w (setField d.toNat lo n a.toNat) =
      (d &&& ~~~(BitVec.ofNat w (2 ^ n - 1) <<< lo)) ||| ((a <<< lo) &&& (BitVec.ofNat w (2 ^ n - 1) <<< lo)) := by
  apply BitVec.eq_of_getLsbD_eq
  intro j hj
  simp only [BitVec.getLsbD_ofNat, testBit_setField, BitVec.testBit_toNat, BitVec.getLsbD_or, BitVec.getLsbD_and,
    BitVec.getLsbD_not, BitVec.getLsbD_shiftLeft, Nat.testBit_two_pow_sub_one]
  by_cases h1 : j < lo
  · simp [hj, h1, show ¬ lo ≤ j by omega]
  · by_cases h2 : j < lo + n
    · simp [hj, h1, h2, show lo ≤ j by omega, show j - lo < n by omega, show j - lo < w by omega]
    · simp [hj, h1, h2, show ¬ j - lo < n by omega]

/-! ## Counts -/

theorem cpopNatRec_eq_popcN {w : Nat} (x : BitVec w) (n acc : Nat) : x.cpopNatRec n acc = popcN x n + acc := by
  induction n generalizing acc with
  | zero => simp [popcN]
  | succ n ih =>
    rw [BitVec.cpopNatRec_succ, ih, popcN]
    cases x.getLsbD n <;> simp [b2n, Nat.add_comm, Nat.add_assoc]
theorem popcN_eq_cpop {w : Nat} (x : BitVec w) : BitVec.ofNat w (popcN x w) = x.cpop := by
  rw [BitVec.cpop, cpopNatRec_eq_popcN, Nat.add_zero]

theorem clzAuxRec_eq_clzN {w : Nat} (x : BitVec w) (n : Nat) (h : n < w) :
    x.clzAuxRec n = BitVec.ofNat w (w - (n + 1) + clzN x (n + 1)) := by
  induction n with
  | zero =>
    rw [BitVec.clzAuxRec_zero, clzN, clzN]
    split
    · rfl
    · congr 1; omega
  | succ n ih =>
    rw [BitVec.clzAuxRec_succ, clzN]
    split
    · congr 1; omega
    · rw [ih (by omega)]; congr 1; omega
theorem clzN_eq_clz {w : Nat} (x : BitVec w) : BitVec.ofNat w (clzN x w) = x.clz := by
  cases w with
  | zero => exact Subsingleton.elim _ _
  | succ w => rw [BitVec.clz, clzAuxRec_eq_clzN x _ (by omega)]; simp

/-- The zeros at the low end of the `n` top bits are those at the high end of the reversed word's `n` low bits. -/
theorem clzN_reverse {w : Nat} (x : BitVec w) (n : Nat) (h : n ≤ w) : clzN x.reverse n = ctzN x (w - n) n := by
  induction n with
  | zero => rfl
  | succ n ih =>
    have hb : x.reverse.getLsbD n = x.getLsbD (w - (n + 1)) := by
      rw [BitVec.getLsbD_reverse, BitVec.getMsbD_eq_getLsbD, Nat.sub_sub, Nat.add_comm 1 n]
      simp [show n < w by omega]
    rw [clzN, ctzN, hb, ih (by omega), show w - (n + 1) + 1 = w - n by omega]
theorem ctzN_eq_ctz {w : Nat} (x : BitVec w) : BitVec.ofNat w (ctzN x 0 w) = x.ctz := by
  rw [BitVec.ctz, ← clzN_eq_clz, clzN_reverse x w (Nat.le_refl w), Nat.sub_self]

/-- The reversed low bits are the top bits of the reversed word. -/
theorem brevN_eq {w : Nat} (x : BitVec w) (n : Nat) (h : n ≤ w) :
    brevN x n = 2 ^ (w - n) * (x.reverse.toNat / 2 ^ (w - n)) := by
  induction n with
  | zero => rw [brevN, Nat.sub_zero, Nat.div_eq_of_lt x.reverse.isLt, Nat.mul_zero]
  | succ n ih =>
    obtain ⟨k, hk⟩ : ∃ k, w = k + (n + 1) := ⟨w - (n + 1), by omega⟩
    have hb : b2n (x.getLsbD n) = x.reverse.toNat / 2 ^ k % 2 := by
      rw [← Nat.toNat_testBit, BitVec.testBit_toNat, BitVec.getLsbD_reverse, BitVec.getMsbD_eq_getLsbD]
      simp only [show k < w by omega, show w - 1 - k = n by omega, decide_true, Bool.true_and]
      cases x.getLsbD n <;> rfl
    rw [brevN, ih (by omega), hb, show w - 1 - n = k by omega, show w - n = k + 1 by omega, show w - (n + 1) = k by omega]
    rw [Nat.pow_succ, ← Nat.div_div_eq_div_mul, Nat.mul_comm (_ % 2), Nat.mul_assoc, ← Nat.mul_add, Nat.mod_add_div]
theorem brevN_eq_reverse {w : Nat} (x : BitVec w) : BitVec.ofNat w (brevN x w) = x.reverse := by
  rw [brevN_eq x w (Nat.le_refl w), Nat.sub_self, Nat.pow_zero, Nat.div_one, Nat.one_mul, BitVec.ofNat_toNat,
    BitVec.setWidth_eq]

/-! ## Bytes -/

theorem byteOf_eq_extractLsb' {w : Nat} (x : BitVec w) (k : Nat) : byteOf x k = x.extractLsb' (8 * k) 8 :=
  BitVec.setWidth_ushiftRight_eq_extractLsb
/-- The weight of a byte's place. -/
theorem pow_byte (k : Nat) : 256 ^ k = 2 ^ (8 * k) := (Nat.pow_mul 2 8 k).symm
theorem getElem_leBytes (n x k : Nat) (h : k < (leBytes n x).length) :
    (leBytes n x)[k] = BitVec.ofNat 8 (x / 256 ^ k) := by
  induction n generalizing x k with
  | zero => simp [leBytes] at h
  | succ n ih =>
    cases k with
    | zero => simp [leBytes]
    | succ k => simp [leBytes, ih, Nat.pow_succ', Nat.div_div_eq_div_mul]
theorem leNat_div_pow (bs : List Byte) (k : Nat) (h : k < bs.length) :
    BitVec.ofNat 8 (leNat bs / 256 ^ k) = bs[k] := by
  induction bs generalizing k with
  | nil => simp at h
  | cons b r ih =>
    have hb := b.isLt
    cases k with
    | zero =>
      apply BitVec.eq_of_toNat_eq
      simp only [leNat, Nat.pow_zero, Nat.div_one, BitVec.toNat_ofNat, List.getElem_cons_zero]
      omega
    | succ k =>
      have e : (b.toNat + 256 * leNat r) / 256 = leNat r := by omega
      rw [leNat, Nat.pow_succ', ← Nat.div_div_eq_div_mul, e, List.getElem_cons_succ]
      exact ih k _
/-- A byte of a word given by its bytes. -/
theorem extractLsb'_leBits (w : Nat) (bs : List Byte) (k : Nat) (h : k < bs.length) (hw : 8 * k + 8 ≤ w) :
    (leBits w bs).extractLsb' (8 * k) 8 = bs[k] := by
  rw [← leNat_div_pow bs k h, leBits, pow_byte]
  apply BitVec.eq_of_getLsbD_eq
  intro j hj
  rw [BitVec.getLsbD_extractLsb', BitVec.getLsbD_ofNat, BitVec.getLsbD_ofNat, Nat.testBit_div_two_pow,
    Nat.add_comm (8 * k) j]
  simp only [hj, show j + 8 * k < w by omega, decide_true, Bool.true_and]
/-- BSWAP: a byte of the reversed word is the byte as far from the other end. -/
theorem extractLsb'_bswapN {w : Nat} (n : Nat) (x : BitVec w) (k : Nat) (hk : k < n) (hw : 8 * n ≤ w) :
    (bswapN n x).extractLsb' (8 * k) 8 = x.extractLsb' (8 * (n - 1 - k)) 8 := by
  have hl : (bitsLe n x).length = n := length_leBytes _ _
  rw [bswapN, extractLsb'_leBits w _ k (by rw [List.length_reverse, hl]; exact hk) (by omega), List.getElem_reverse]
  simp only [bitsLe, getElem_leBytes, length_leBytes]
  rw [BitVec.extractLsb', Nat.shiftRight_eq_div_pow, pow_byte]

/-- What the five kinds of SBITC and VBITC count or turn round (08 R136, R143). -/
theorem bitcOp_popc {w : Nat} (a : BitVec w) : bitcOp 0 a = a.cpop := popcN_eq_cpop a
theorem bitcOp_clz {w : Nat} (a : BitVec w) : bitcOp 1 a = a.clz := clzN_eq_clz a
theorem bitcOp_ctz {w : Nat} (a : BitVec w) : bitcOp 2 a = a.ctz := ctzN_eq_ctz a
theorem bitcOp_brev {w : Nat} (a : BitVec w) : bitcOp 3 a = a.reverse := brevN_eq_reverse a

/-- The field specification of 08 R136 in bits of b. -/
theorem bfPos_six (b : DWord) : bfPos 6 b = (b.extractLsb' 0 6).toNat := field_eq_extractLsb' b 0 6
theorem bfPos_six_lt (b : DWord) : bfPos 6 b < 64 := bfPos_six b ▸ (b.extractLsb' 0 6).isLt
theorem bfLen_six (b : DWord) :
    bfLen 64 6 b = min (b.extractLsb' 8 7).toNat (64 - (b.extractLsb' 0 6).toNat) := by
  rw [bfLen, bfPos_six, field_eq_extractLsb', Nat.min_assoc, Nat.min_eq_right (Nat.sub_le _ _)]

/-! ## Elements of VMUL and VDOT4 (08 R140, R141) -/

theorem intOf_byteOf {w : Nat} (u : Bool) (x : BitVec w) (k : Nat) :
    intOf u (byteOf x k) = if u then ((x.extractLsb' (8 * k) 8).toNat : Int) else (x.extractLsb' (8 * k) 8).toInt := by
  rw [byteOf_eq_extractLsb']
  cases u <;> rfl
/-- The two halves of a product that VMUL.I32 chooses from by SUB (08 R140). -/
theorem vmulI32_eq (i : IntI) (a b : Word) :
    (if i.sub = 1 then mulHi i.u else mulOp i.sat i.u) a b =
      if i.sub = 1 then
        (if i.u then (a.setWidth 64 * b.setWidth 64).extractLsb' 32 32
         else (a.signExtend 64 * b.signExtend 64).extractLsb' 32 32)
      else if i.sat then clampI i.u 32 (intOf i.u a * intOf i.u b) else a * b := by
  split
  · exact mulHi_eq i.u a b (by decide)
  · exact mulOp_eq i.sat i.u a b

end Sys2Proof.Machine
end

section
/-! SUPPORT. The modifiers and the operand fields that the decode checks of integer instructions allow (03 R63, 08 R130). -/
namespace Sys2Proof.Machine

/-! ## Refused modifiers -/

/-- What the modifiers' check excludes is refused before the operands are looked at (03 R64). -/
theorem checked_reserved {x : Instr} (P : Prop) (h : modOk x = true → ¬ P) (hp : P) :
    checked x = .error .reservedModifier := by
  rw [checked, if_pos (Bool.eq_false_iff.mpr fun hx => h hx hp)]
/-- The MOD bits that an integer instruction may set (08 R130). -/
theorem intModOk_bounds {i : IntI} {imm sat u : Bool} {subMax lowMax : Nat} (h : intModOk i imm sat u subMax lowMax = true) :
    (sat = false → i.sat = false) ∧ (u = false → i.u = false) ∧ i.sub.toNat ≤ subMax ∧ i.low.toNat ≤ lowMax := by
  simp only [intModOk, Bool.and_eq_true, Bool.or_eq_true, Bool.not_eq_true', decide_eq_true_eq] at h
  obtain ⟨⟨⟨⟨-, hs⟩, hu⟩, hsub⟩, hlow⟩ := h
  exact ⟨fun e => by simpa [e] using hs, fun e => by simpa [e] using hu, hsub, hlow⟩
/-- No SAT, no SUB above the last one and no MOD[2:0]. -/
theorem intModOk_within {i : IntI} {imm u : Bool} {n : Nat} (h : intModOk i imm false u n 0 = true) :
    ¬ (i.sat = true ∨ n < i.sub.toNat ∨ i.low ≠ 0) := by
  obtain ⟨hsat, -, hsub, hlow⟩ := intModOk_bounds h
  rintro (h' | h' | h')
  · exact absurd (hsat rfl) (by simp [h'])
  · omega
  · have := BitVec.toNat_pos_of_ne_zero h'
    omega
/-- No MOD bit but IMM, SAT and U. -/
theorem intModOk_noSub {i : IntI} {imm sat u : Bool} (h : intModOk i imm sat u 0 0 = true) : ¬ (i.sub ≠ 0 ∨ i.low ≠ 0) := by
  obtain ⟨-, -, hsub, hlow⟩ := intModOk_bounds h
  rintro (h' | h') <;> have := BitVec.toNat_pos_of_ne_zero h' <;> omega
/-- No MOD bit but IMM and U. -/
theorem intModOk_noSat {i : IntI} {imm u : Bool} (h : intModOk i imm false u 0 0 = true) :
    ¬ (i.sat = true ∨ i.sub ≠ 0 ∨ i.low ≠ 0) :=
  fun h' => intModOk_within h (h'.imp_right (Or.imp_left BitVec.toNat_pos_of_ne_zero))
/-- No MOD bit but IMM. -/
theorem intModOk_noU {i : IntI} {imm : Bool} (h : intModOk i imm false false 0 0 = true) :
    ¬ (i.sat = true ∨ i.u = true ∨ i.sub ≠ 0 ∨ i.low ≠ 0) := by
  rintro (h' | h' | h')
  · exact intModOk_noSat h (Or.inl h')
  · exact absurd ((intModOk_bounds h).2.1 rfl) (by simp [h'])
  · exact intModOk_noSub h h'
/-- MOD and the reserved bits of word 2 are checked apart. -/
theorem intModOk_of_and {i : IntI} {imm sat u : Bool} {subMax lowMax : Nat} {p : Bool}
    (h : (intModOk i imm sat u subMax lowMax && p) = true) : intModOk i imm sat u subMax lowMax = true :=
  (Bool.and_eq_true_iff.mp h).1

/-- SSEL's SUB is any number (08 R134). -/
theorem wellFormed_ssel_sub {i : IntI} (c : BitVec 4) (h : WellFormed (.ssel i)) : WellFormed (.ssel { i with sub := c }) := by
  obtain ⟨-, hmod, hops⟩ := h
  have hc : decide (c.toNat ≤ 15) = true := decide_eq_true (Nat.le_of_lt_succ c.isLt)
  refine ⟨rfl, ?_, hops⟩
  change scalarMod _ true false true 15 0 = true at hmod ⊢
  simp only [scalarMod, intModOk, Bool.and_eq_true] at hmod ⊢
  obtain ⟨⟨⟨hflags, -⟩, hlow⟩, hplain⟩ := hmod
  exact ⟨⟨⟨hflags, hc⟩, hlow⟩, hplain⟩

theorem vmulMod_bounds {i : IntI} (h : vmulMod i = true) : ¬ (2 ≤ i.sub.toNat ∨ (i.sub = 1 ∧ i.sat = true) ∨ i.low ≠ 0) := by
  simp only [vmulMod, Bool.and_eq_true, Bool.not_eq_true', Bool.and_eq_false_iff, beq_eq_false_iff_ne] at h
  obtain ⟨⟨hmod, hhi⟩, -⟩ := h
  obtain ⟨-, -, hsub, hlow⟩ := intModOk_bounds hmod
  rintro (h' | ⟨h1, hs⟩ | h')
  · omega
  · exact hhi.elim (fun e => by simp [hs] at e) (fun e => e h1)
  · have := BitVec.toNat_pos_of_ne_zero h'
    omega

/-- A pair of v registers starts at an even one (02 R28). -/
theorem fPairS_even {f : OpField} (h : fPairS f = true) (hv : f.toNat < 1536) : f.toNat % 2 = 0 := by
  simp only [fPairS, fS, fPair, fV, Bool.or_eq_true, Bool.and_eq_true, decide_eq_true_eq, beq_iff_eq] at h
  omega
theorem vecOps_wide_even {i : IntI} (h : vecOps true i = true) : i.h.d.toNat % 2 = 0 ∧
    (i.h.a.toNat < 1536 → i.h.a.toNat % 2 = 0) ∧ (i.h.b.toNat < 1536 → isRri i.t = false → i.h.b.toNat % 2 = 0) := by
  simp only [vecOps, fVw, fVSw, if_true, Bool.and_eq_true] at h
  obtain ⟨⟨⟨hd, ha⟩, hb⟩, -⟩ := h
  refine ⟨?_, fPairS_even ha, fun hv ht => fPairS_even ?_ hv⟩
  · simp only [fPair, Bool.and_eq_true, beq_iff_eq] at hd
    exact hd.2
  · simpa [ht] using hb

end Sys2Proof.Machine
end

section
/-! SUPPORT. Pairs of v registers after they are written for the active threads, and what meets a posted pass (02 R28, 10 R172). -/
namespace Sys2Proof.Machine

/-! ## Pairs -/

theorem pairCells_eq (tid n : Nat) (x : DWord) :
    pairCells tid n x = [(vKey tid n, x.extractLsb' 0 32), (vKey tid (n + 1), x.extractLsb' 32 32)] := by
  rw [pairCells, BitVec.setWidth_eq_extractLsb' (by decide), BitVec.setWidth_ushiftRight_eq_extractLsb]
/-- The cells that a pair written for every active thread takes. -/
def pairWrites (s : State) (h : Head) (f : Nat → DWord) : List (Nat × Word) :=
  (active s h).flatMap (fun st => pairCells st.2 h.d.toNat (f st.2))
theorem setV64_eq_wvAll (s : State) (h : Head) (f : Nat → DWord) :
    setV64 s h (fun _ tid => f tid) = wvAll s (pairWrites s h f) := rfl
theorem mem_pairWrites {s : State} {h : Head} {f : Nat → DWord} {e : Nat × Word} :
    e ∈ pairWrites s h f ↔ ∃ st ∈ active s h, e = (vKey st.2 h.d.toNat, (f st.2).extractLsb' 0 32) ∨
      e = (vKey st.2 (h.d.toNat + 1), (f st.2).extractLsb' 32 32) := by
  simp only [pairWrites, pairCells_eq, List.mem_flatMap, List.mem_cons, List.not_mem_nil, or_false]

/-- The v registers after `setV64` with a value that depends on the thread alone. -/
theorem writesV64_setV64 (s : State) (h : Head) (f : Nat → DWord) (hd : h.d.toNat < 1536) :
    WritesV64 s (setV64 s h (fun _ tid => f tid)) h f := by
  intro tid n hn
  have hd0 : h.d.toNat < 2048 := h.d.isLt
  have hd1 : h.d.toNat + 1 < 2048 := by omega
  rw [setV64_eq_wvAll, rv, rv, wvAll_v]
  split
  next hc =>
    obtain ⟨hact, rfl⟩ := hc
    obtain ⟨st, hst, rfl⟩ := (isActive_iff s h tid).1 hact
    refine cget_csetAll_const _ _ _ _ ?_ (Or.inl ⟨_, mem_pairWrites.2 ⟨st, hst, Or.inl rfl⟩, rfl⟩)
    intro e he hk
    obtain ⟨u, -, rfl | rfl⟩ := mem_pairWrites.1 he
    · rw [(vKey_inj hd0 hn hk).1]
    · exact absurd (vKey_inj hd1 hn hk).2 (by omega)
  next hlow =>
    split
    next hc =>
      obtain ⟨hact, rfl⟩ := hc
      obtain ⟨st, hst, rfl⟩ := (isActive_iff s h tid).1 hact
      refine cget_csetAll_const _ _ _ _ ?_ (Or.inl ⟨_, mem_pairWrites.2 ⟨st, hst, Or.inr rfl⟩, rfl⟩)
      intro e he hk
      obtain ⟨u, -, rfl | rfl⟩ := mem_pairWrites.1 he
      · exact absurd (vKey_inj hd0 hn hk).2 (by omega)
      · rw [(vKey_inj hd1 hn hk).1]
    next hhigh =>
      refine cget_csetAll_other _ _ _ ?_
      intro e he hk
      obtain ⟨u, hu, rfl | rfl⟩ := mem_pairWrites.1 he
      · obtain ⟨ht, hn'⟩ := vKey_inj hd0 hn hk
        exact hlow ⟨(isActive_iff s h tid).2 ⟨u, hu, ht⟩, hn'.symm⟩
      · obtain ⟨ht, hn'⟩ := vKey_inj hd1 hn hk
        exact hhigh ⟨(isActive_iff s h tid).2 ⟨u, hu, ht⟩, hn'.symm⟩

/-! ## Posted passes -/

/-- No posted pass reads a register that an active thread would write (10 R172). -/
theorem mayWrite_key {s : State} {h : Head} {k n : Nat} (hr : MayWrite s h k) {p : Pass} (hp : p ∈ s.passes)
    {st : Nat × Nat} (hst : st ∈ active s h) (hn : n ∈ span h.d.toNat k) : vKey st.2 n ∉ p.regs := by
  intro hk
  have hf : passReads s h [(h.d, k)] = true := by
    simp only [passReads, List.any_eq_true]
    exact ⟨p, hp, st, hst, _, List.mem_singleton.mpr rfl, n, hn, List.contains_iff_mem.mpr hk⟩
  rw [hr] at hf
  exact Bool.false_ne_true hf
/-- Writing the pair at d of the active threads meets no pass that reads none of it. -/
theorem passReadHit_setV64 {s : State} {h : Head} (g : State → Nat → DWord) (hr : MayWrite s h 2) :
    passReadHit s (fun u => setV64 u h (fun _ tid => g u tid)) = false := by
  refine passReadHit_of (fun u => pairWrites u h (g u)) (fun u => by rw [setV64_eq_wvAll, wvAll]) ?_
  intro ks e he p hp hk
  obtain ⟨st, hst, rfl | rfl⟩ := mem_pairWrites.1 he
  · exact mayWrite_key hr hp hst (by simp [span]) hk
  · exact mayWrite_key hr hp hst (by simp [span]) hk
/-- What is written whole is no longer poisoned (24 R383). -/
theorem cget_vPoison_setV {s : State} {h : Head} (f : Nat → Nat → Word) {st : Nat × Nat} (hst : st ∈ active s h) :
    cget (setV s h f).vPoison (vKey st.2 h.d.toNat) = 0 := by
  refine cget_csetAll_const _ _ _ _ ?_ (Or.inl ⟨(vKey st.2 h.d.toNat, 0), ?_, rfl⟩)
  · intro e he _
    obtain ⟨_, -, rfl⟩ := List.mem_map.1 he
    rfl
  · rw [List.map_map]
    exact List.mem_map.2 ⟨st, hst, rfl⟩
/-- Writing v[d] of an active thread meets the pass that reads it. -/
theorem passReadHit_setV_of_read {s : State} {h : Head} (g : State → Nat → Word) {p : Pass} (hp : p ∈ s.passes)
    {st : Nat × Nat} (hst : st ∈ active s h) (hk : vKey st.2 h.d.toNat ∈ p.regs) :
    passReadHit s (fun u => setV u h (fun _ tid => g u tid)) = true := by
  rw [passReadHit, List.any_eq_true]
  refine ⟨_, List.mem_flatMap.2 ⟨p, hp, hk⟩, ?_⟩
  rw [cget_vPoison_setV _ (s := markV s _ true) hst]
  decide
/-- A vector instruction whose effect meets a posted pass waits where it stands. -/
theorem vecOp_waits {e : Out} {h : Head} {regs srcs : List Use} {s : State} {b : State → State}
    (he : e = vecOp h regs srcs s b) (r : RunsV h regs srcs s) (hr : passReadHit s b = true) : e = .next s := by
  obtain ⟨hrange, hpoison⟩ := r
  rw [he, vecOp, hpoison, vecOpWith, hrange]
  simp [nextUnlessRead, hr]

/-! ## The two-operand forms -/

/-- A vector instruction that writes the pair at d has the result its function gives. -/
theorem vecResult64_of {mk : IntI → Instr} {regs srcs : IntI → List Use} {f : IntI → State → Nat → DWord}
    (g : IntI → State → Nat → DWord)
    (he : ∀ i s, exec (mk i) s = vecOp i.h (regs i) (srcs i) s (fun s => setV64 s i.h (fun _ tid => g i s tid)))
    (hg : ∀ i s tid, g i s tid = f i s tid) : VecResult64 mk regs srcs f := by
  intro i s hd r hw
  have hf : g i s = f i s := funext (hg i s)
  refine ⟨nextPc (setV64 s i.h (fun _ tid => g i s tid)), vecOp_runs (he i s) r (passReadHit_setV64 (g i) hw), ?_,
    vecKept_nextPc s _ rfl rfl, ?_⟩
  · simp only [nextPc, pcOf_setPc]
    rfl
  · intro tid n hn
    rw [rv_nextPc, ← hf]
    exact writesV64_setV64 s i.h (g i s) hd tid n hn
/-- The two-operand form of R140. -/
theorem vecResult_bin {mk : IntI → Instr} {f : IntI → State → Nat → Word} (g : IntI → Word → Word → Word)
    (he : ∀ i s, exec (mk i) s = vecBin i s (g i))
    (hg : ∀ i s tid, g i (opV s i.h.a tid) (vecB i s tid) = f i s tid) : VecResult mk (useDAB 1) (useAB 1) f :=
  vecResult_of (fun i s tid => g i (opV s i.h.a tid) (vecB i s tid)) he hg
theorem vecResult64_bin {mk : IntI → Instr} {f : IntI → State → Nat → DWord} (g : IntI → DWord → DWord → DWord)
    (he : ∀ i s, exec (mk i) s = vecBin64 i s (g i))
    (hg : ∀ i s tid, g i (opV64 s i.h.a tid) (vecB64 i s tid) = f i s tid) : VecResult64 mk (useDAB 2) (useAB 2) f :=
  vecResult64_of (fun i s tid => g i (opV64 s i.h.a tid) (vecB64 i s tid)) he hg
/-- The three-operand form of R141. -/
theorem vecResult_tri {mk : IntI → Instr} {f : IntI → State → Nat → Word} (g : IntI → Word → Word → Word → Word)
    (he : ∀ i s, exec (mk i) s = vecTri i s (g i))
    (hg : ∀ i s tid, g i (opV s i.h.a tid) (vecB i s tid) (vecC i s tid) = f i s tid) :
    VecResult mk (fun i => useDAB 1 i ++ useC i 1) (fun i => useAB 1 i ++ useC i 1) f :=
  vecResult_of (fun i s tid => g i (opV s i.h.a tid) (vecB i s tid) (vecC i s tid)) he hg

end Sys2Proof.Machine
end

section
/-! PROOFS. The statements of the scalar and vector integer instructions (08). -/
namespace Sys2Proof.Machine

/-- Settles O1: each form's function is the equation of its row. -/
theorem scalarArithmeticResults : Obligations.ScalarArithmeticResults := by
  unfold Obligations.ScalarArithmeticResults
  refine ⟨?sadd, ?ssub, ?smul, ?smulh, ?sand, ?sor, ?sxor, ?sshl, ?sshr, ?ssra, ?smin, ?smax, ?slea, ?sdiv, ?srem, ?mods⟩
  case sadd => exact scalarResult_of _ exec_sadd (fun i => addOp_eq i.sat i.u)
  case ssub => exact scalarResult_of _ exec_ssub (fun i => subOp_eq i.sat i.u)
  case smul => exact scalarResult_of _ exec_smul (fun i => mulOp_eq i.sat i.u)
  case smulh => exact scalarResult_of _ exec_smulh (fun i a b => mulHi_eq i.u a b (by decide))
  case sand => exact scalarResult_of _ exec_sand (fun _ _ _ => rfl)
  case sor => exact scalarResult_of _ exec_sor (fun _ _ _ => rfl)
  case sxor => exact scalarResult_of _ exec_sxor (fun _ _ _ => rfl)
  case sshl => exact scalarResult_of _ exec_sshl (fun _ => shlOp_eq)
  case sshr => exact scalarResult_of _ exec_sshr (fun _ => shrOp_eq)
  case ssra => exact scalarResult_of _ exec_ssra (fun _ => sraOp_eq)
  case smin => exact scalarResult_of _ exec_smin (fun i => minOp_eq i.u)
  case smax => exact scalarResult_of _ exec_smax (fun i => maxOp_eq i.u)
  case slea => exact scalarResult_of _ exec_slea (fun _ _ _ => rfl)
  case sdiv => exact scalarResult_of _ exec_sdiv (fun i => divOp_eq i.sat i.u)
  case srem => exact scalarResult_of _ exec_srem (fun i => remOp_eq i.u)
  case mods =>
    intro mk hmk i
    have hmod : modOk (mk i) = scalarMod i true false true 0 0 := by
      simp only [List.mem_cons, List.not_mem_nil, or_false] at hmk
      rcases hmk with rfl | rfl | rfl <;> rfl
    exact checked_reserved _ (fun h => intModOk_noSat (intModOk_of_and (hmod ▸ h)))

/-- Settles O2: compare, select, field and count, each the equation of its row. -/
theorem scalarCompareSelectBits : Obligations.ScalarCompareSelectBits := by
  unfold Obligations.ScalarCompareSelectBits
  refine ⟨?scmp, ?ssel, ?mods, ?sbfx, ?sbfi, ?sbitc⟩
  case scmp =>
    intro i s r hsub
    rw [exec_scmp, execScmp, scalarOp_runs rfl r, intCond_eq i.u i.sub.toNat _ _ hsub]
  case ssel =>
    intro i s r
    rw [exec_ssel, execSsel, scalarBin, scalarTo_runs rfl r]
  case mods =>
    intro i
    refine ⟨checked_reserved _ fun h => intModOk_within (intModOk_of_and h), ?_,
      checked_reserved _ fun h => ?_, fun c => wellFormed_ssel_sub c⟩
    · rintro ⟨-, -, hops⟩
      change scmpOps i = true at hops
      simp only [scmpOps, Bool.and_eq_true, fN, decide_eq_true_eq] at hops
      obtain ⟨⟨⟨hd, -⟩, -⟩, -⟩ := hops
      exact hd
    · exact fun h' => intModOk_within (intModOk_of_and h) (h'.imp_right Or.inr)
  case sbfx =>
    refine scalarResult_of _ exec_sbfx (fun i a b => ?_)
    rw [bfxOp_eq _ _ _ _ (Nat.le_of_lt (bfPos_six_lt b)), bfLen_six, bfPos_six]
  case sbfi =>
    intro i s r
    rw [exec_sbfi, execSbfi, scalarTo_runs rfl r, bfiOp, ofNat_setField, bfLen_six, bfPos_six]
  case sbitc =>
    intro i s r _
    rw [exec_sbitc, execSbitc, scalarTo_runs rfl r]
    refine ⟨bitcOp i.sub.toNat (rs s i.h.a), rfl, ?_, ?_, ?_, ?_, ?_⟩
    · intro h; rw [h]; exact bitcOp_popc _
    · intro h; rw [h]; exact bitcOp_clz _
    · intro h; rw [h]; exact bitcOp_ctz _
    · intro h; rw [h]; exact bitcOp_brev _
    · intro h n hn
      rw [h]
      exact extractLsb'_bswapN 8 (rs s i.h.a) n hn (by decide)

/-- Settles O7: each form's function is the equation of its row, for every active thread alike. -/
theorem vectorIntegerResults : Obligations.VectorIntegerResults := by
  unfold Obligations.VectorIntegerResults
  refine ⟨?vaddI32, ?vsubI32, ?vmulI32, ?vand, ?vor, ?vxor, ?vshl, ?vshr, ?vsra, ?vminI32, ?vmaxI32, ?vmadI32, ?vdot4I8,
    ?vaddI64, ?vsubI64, ?vmulI64, ?waits, ?mods⟩
  case vaddI32 => exact vecResult_bin _ exec_vaddI32 (fun i _ _ => addOp_eq i.sat i.u _ _)
  case vsubI32 => exact vecResult_bin _ exec_vsubI32 (fun i _ _ => subOp_eq i.sat i.u _ _)
  case vmulI32 => exact vecResult_bin _ exec_vmulI32 (fun i _ _ => vmulI32_eq i _ _)
  case vand => exact vecResult_bin _ exec_vand (fun _ _ _ => rfl)
  case vor => exact vecResult_bin _ exec_vor (fun _ _ _ => rfl)
  case vxor => exact vecResult_bin _ exec_vxor (fun _ _ _ => rfl)
  case vshl => exact vecResult_bin _ exec_vshl (fun _ _ _ => shlOp_eq _ _)
  case vshr => exact vecResult_bin _ exec_vshr (fun _ _ _ => shrOp_eq _ _)
  case vsra => exact vecResult_bin _ exec_vsra (fun _ _ _ => sraOp_eq _ _)
  case vminI32 => exact vecResult_bin _ exec_vminI32 (fun i _ _ => minOp_eq i.u _ _)
  case vmaxI32 => exact vecResult_bin _ exec_vmaxI32 (fun i _ _ => maxOp_eq i.u _ _)
  case vmadI32 => exact vecResult_tri _ exec_vmadI32 (fun i _ _ => madOp_eq i.sat i.u _ _ _)
  case vdot4I8 =>
    refine vecResult_tri _ exec_vdot4I8 (fun i s tid => ?_)
    simp only [dot4, narrowI, intOf_byteOf]
  case vaddI64 => exact vecResult64_bin _ exec_vaddI64 (fun i _ _ => addOp_eq i.sat i.u _ _)
  case vsubI64 => exact vecResult64_bin _ exec_vsubI64 (fun i _ _ => subOp_eq i.sat i.u _ _)
  case vmulI64 => exact vecResult64_bin _ exec_vmulI64 (fun i _ _ => mulOp_eq i.sat i.u _ _)
  case waits =>
    intro i s p st r hp _ hst _ hk
    exact vecOp_waits (exec_vand i s) r
      (passReadHit_setV_of_read (fun s tid => opV s i.h.a tid &&& vecB i s tid) hp hst (List.contains_iff_mem.mp hk))
  case mods =>
    intro i refused
    refine ⟨?sums, ?vmul, ?bitwise, ?minMax, ?even⟩
    case sums =>
      intro mk hmk
      have hmod : modOk (mk i) = (intModOk i true true true 0 0 && rrrAnd plainRrr i.t) := by
        simp only [List.mem_cons, List.not_mem_nil, or_false] at hmk
        rcases hmk with rfl | rfl | rfl | rfl | rfl | rfl <;> rfl
      exact checked_reserved _ (fun h => intModOk_noSub (intModOk_of_and (hmod ▸ h)))
    case vmul => exact checked_reserved _ vmulMod_bounds
    case bitwise =>
      intro mk hmk
      have hmod : modOk (mk i) = (intModOk i true false false 0 0 && rrrAnd plainRrr i.t) := by
        simp only [List.mem_cons, List.not_mem_nil, or_false] at hmk
        rcases hmk with rfl | rfl | rfl | rfl | rfl | rfl <;> rfl
      exact checked_reserved _ (fun h => intModOk_noU (intModOk_of_and (hmod ▸ h)))
    case minMax =>
      intro mk hmk
      have hmod : modOk (mk i) = (intModOk i true false true 0 0 && rrrAnd plainRrr i.t) := by
        simp only [List.mem_cons, List.not_mem_nil, or_false] at hmk
        rcases hmk with rfl | rfl <;> rfl
      exact checked_reserved _ (fun h => intModOk_noSat (intModOk_of_and (hmod ▸ h)))
    case even =>
      intro mk hmk
      have hops : opsOk (mk i) = vecOps true i := by
        simp only [List.mem_cons, List.not_mem_nil, or_false] at hmk
        rcases hmk with rfl | rfl | rfl <;> rfl
      rintro ⟨-, -, h⟩
      exact vecOps_wide_even (hops ▸ h)

end Sys2Proof.Machine
end

section
/-! SUPPORT. What a trap does where it does not enter the handler, and what ERET does (23 R370, R371). -/
namespace Sys2Proof.Machine

/-! ## The records -/

@[simp] theorem trapRecord_cause (s : State) (a : TrapArgs) : (trapRecord s a).cause.extractLsb' 0 8 = a.cause :=
  causeWord_cause _ _ _
@[simp] theorem trapRecord_tpc (s : State) (a : TrapArgs) : (trapRecord s a).tpc = s.self.pc := rfl
@[simp] theorem trapRecord_tres (s : State) (a : TrapArgs) :
    (trapRecord s a).tres = if a.after then s.self.pc + 12 else s.self.pc := rfl
@[simp] theorem doubleRecord_cause (s : State) (a : TrapArgs) :
    (doubleRecord s a).cause.extractLsb' 0 8 = causeCode .doubleFault := causeWord_cause _ _ _
@[simp] theorem doubleRecord_tpc (s : State) (a : TrapArgs) : (doubleRecord s a).tpc = s.self.pc := rfl
@[simp] theorem doubleRecord_tres (s : State) (a : TrapArgs) : (doubleRecord s a).tres = s.self.trap.tres := by
  rw [doubleRecord]
/-- One cause code above another. -/
theorem ofNat_mul_add_eq_shiftLeft_or (x y : BitVec 8) :
    BitVec.ofNat 64 (x.toNat * 256 + y.toNat) = x.setWidth 64 <<< 8 ||| y.setWidth 64 := by
  have hx := x.isLt
  have hy := y.isLt
  apply BitVec.eq_of_toNat_eq
  have hhigh : (x.setWidth 64 <<< 8).toNat = x.toNat <<< 8 := by
    rw [BitVec.toNat_shiftLeft, BitVec.toNat_setWidth, Nat.shiftLeft_eq, Nat.shiftLeft_eq]
    omega
  have hlow : (y.setWidth 64).toNat = y.toNat := by rw [BitVec.toNat_setWidth]; omega
  rw [BitVec.toNat_or, hhigh, hlow, ← Nat.shiftLeft_add_eq_or_of_lt hy, Nat.shiftLeft_eq, BitVec.toNat_ofNat]
  omega
/-- TINFO of a double fault: the cause of the first trap above that of the second (23 R370). -/
theorem doubleRecord_tinfo (s : State) (a : TrapArgs) :
    (doubleRecord s a).tinfo = (s.self.trap.cause.extractLsb' 0 8).setWidth 64 <<< 8 ||| a.cause.setWidth 64 := by
  rw [doubleRecord, field_eq_extractLsb', ofNat_mul_add_eq_shiftLeft_or]

/-! ## Where a trap goes -/

/-- With no access processor, no instance and no loop to stop, a trap is only entered. -/
theorem takeTrap_eq_enterTrap {s : State} (hap : s.apMode = false) (hsp : s.self.spinst = 0) (hl : loopOf s s.self = none)
    (a : TrapArgs) : takeTrap s a = enterTrap s a := by
  have hr : rejectAbove s = s := by rw [rejectAbove, hl]
  rw [takeTrap, hap, if_neg (by decide), if_neg (not_not_intro hsp), hr]
/-- A trap in the handler halts the carriage. -/
theorem enterTrap_inHandler {s : State} (hh : s.self.handler = true) (a : TrapArgs) :
    enterTrap s a = haltWith s (doubleRecord s a) := by
  rw [enterTrap, if_pos hh]
/-- So does a trap outside it where TVEC is 0. -/
theorem enterTrap_noVector {s : State} (hh : s.self.handler = false) (hv : tvec s s.self.world = 0) (a : TrapArgs) :
    enterTrap s a = haltWith s (trapRecord s a) := by
  rw [enterTrap, hh, if_neg (by decide), if_pos hv]

/-- An instruction whose next state is that of a trap has entered the handler. -/
theorem trapped_next {e : Out} {s : State} {a : TrapArgs} (c : Cause) (he : e = .next (takeTrap s a)) (h : Traps s)
    (hc : a.cause = causeCode c) :
    ∃ t, e = .next t ∧ Trapped s t c (if a.after then s.self.pc + 12 else s.self.pc) a.taddr a.tinfo ∧ TrapKept s t :=
  ⟨takeTrap s a, he, trapped_of h c a hc⟩

/-- An instruction whose next state is that of a halt leaves the record in the carriage and in the fault log. -/
theorem halted_next {e : Out} {s : State} {r : TrapRec} (he : e = .next (haltWith s r)) :
    ∃ t, e = .next t ∧ t.self.halted = true ∧ t.self.handler = s.self.handler ∧ t.self.trap = r ∧
      t.faultLog = s.faultLog ++ [(s.self.id, t.self.trap)] ∧ t.mem = s.mem :=
  ⟨haltWith s r, he, rfl, rfl, rfl, rfl, rfl⟩

/-! ## TRAP, SYSC, BRK and ERET -/

/-- TRAP and SYSC record the immediate and resume behind themselves. -/
theorem execTrap_runs {i : RriI} {s : State} (r : RunsS i.h [] s) :
    execTrap i s = .next (takeTrap s { justCause .trap with tinfo := i.imm.setWidth 64, after := true }) := by
  rw [scalarOp_runs (e := execTrap i s) rfl r]
theorem execSysc_runs {i : RriI} {s : State} (r : RunsS i.h [] s) :
    execSysc i s = .next (takeTrap s { justCause .syscall with tinfo := i.imm.setWidth 64, after := true }) := by
  rw [scalarOp_runs (e := execSysc i s) rfl r]

/-- BRK traps while the debug unit is not enabled for the carriage's world. -/
theorem execBrk_trap {i : RriI} {s : State} (r : RunsS i.h [] s) (hd : Config.debugOn s.self.world = false) :
    execBrk i s = .next (takeTrap s { justCause .breakpoint with tinfo := i.imm.setWidth 64 }) := by
  rw [scalarOp_runs (e := execBrk i s) rfl r, hd, Bool.and_false, if_neg (by decide)]
/-- With the debug unit enabled it halts the carriage where it stands. -/
theorem execBrk_halt {i : RriI} {s : State} (r : RunsS i.h [] s) (hsp : s.self.spinst = 0)
    (hd : Config.debugOn s.self.world = true) :
    execBrk i s = .next (onSelf s (fun c => { c with halted := true })) := by
  rw [scalarOp_runs (e := execBrk i s) rfl r, hd, hsp, if_pos (by decide)]

theorem returnFromTrap_inHandler {s : State} (hh : s.self.handler = true) :
    returnFromTrap s = onSelf s (fun c => { c with handler := false, pc := c.trap.tres }) := by
  rw [returnFromTrap, if_pos hh]
theorem returnFromTrap_outside {s : State} (hh : s.self.handler = false) :
    returnFromTrap s = trapC s .privilege := by
  rw [returnFromTrap, hh, if_neg (by decide)]

end Sys2Proof.Machine
end

section
/-! PROOFS. The statement of the software traps and of the return from them (21 R345, 23). -/
namespace Sys2Proof.Machine

/-- Settles O19: outside the handler each of them is the one entry of R370; in it, and where TVEC is 0, the carriage halts
with its record. -/
theorem trapsAndReturn : Obligations.TrapsAndReturn := by
  unfold Obligations.TrapsAndReturn
  refine ⟨?trap, ?sysc, ?brk, ?brkDebug, ?ill, ?reservedOpcode, ?doubleFault, ?noVector, ?eret, ?eretOutside⟩
  case trap =>
    intro i s r h
    exact trapped_next .trap ((exec_trap i s).trans (execTrap_runs r)) h rfl
  case sysc =>
    intro i s r h
    exact trapped_next .syscall ((exec_sysc i s).trans (execSysc_runs r)) h rfl
  case brk =>
    intro i s r h hd
    exact trapped_next .breakpoint ((exec_brk i s).trans (execBrk_trap r hd)) h rfl
  case brkDebug =>
    intro i s r hsp hd
    exact (exec_brk i s).trans (execBrk_halt r hsp hd)
  case ill =>
    intro w s h
    exact trapped_next .illegalInstruction (exec_ill w s) h rfl
  case reservedOpcode =>
    intro op w s h
    exact trapped_next .reservedOpcode (exec_reservedOpcode op w s) h rfl
  case doubleFault =>
    intro i s r hap hsp hl hh
    have he := (exec_sysc i s).trans (execSysc_runs r)
    rw [takeTrap_eq_enterTrap hap hsp hl, enterTrap_inHandler hh] at he
    obtain ⟨t, ht, hhalt, -, htrap, hlog, hmem⟩ := halted_next he
    refine ⟨t, ht, hhalt, ?cause, ?tres, ?tpc, ?tinfo, hlog, hmem⟩
    case cause => rw [htrap, doubleRecord_cause]
    case tres => rw [htrap, doubleRecord_tres]
    case tpc => rw [htrap, doubleRecord_tpc]
    case tinfo => rw [htrap, doubleRecord_tinfo, justCause]
  case noVector =>
    intro i s r hap hsp hl hh hv
    have he := (exec_sysc i s).trans (execSysc_runs r)
    rw [takeTrap_eq_enterTrap hap hsp hl, enterTrap_noVector hh hv] at he
    obtain ⟨t, ht, hhalt, hhand, htrap, hlog, hmem⟩ := halted_next he
    refine ⟨t, ht, hhalt, hhand.trans hh, ?cause, ?tpc, ?tres, hlog, hmem⟩
    case cause => rw [htrap, trapRecord_cause, justCause]
    case tpc => rw [htrap, trapRecord_tpc]
    case tres => rw [htrap, trapRecord_tres, if_pos rfl]
  case eret =>
    intro i s hh
    rw [exec_eret, execEret, returnFromTrap_inHandler hh]
  case eretOutside =>
    intro i s h
    have ⟨_, _, hh, _, _⟩ := h
    have he : exec (.eret i) s = .next (trapC s .privilege) := by rw [exec_eret, execEret, returnFromTrap_outside hh]
    exact trapped_next .privilege he h rfl

end Sys2Proof.Machine
end
